-- ==== Sys2Proof/Word.lean ====
section
/-! DEFINITION. The word types of the KH7 (R7): bit 0 is the least significant bit, memory is little-endian. -/
namespace Sys2Proof

/-- A 64-bit register, address or lane value (R19, R53). -/
abbrev Word := BitVec 64

/-- One byte of memory. -/
abbrev Byte := BitVec 8

/-- One bit per lane of a warp (R6: a warp is 32 threads). -/
abbrev LaneMask := BitVec 32

/-- A predicate's bits in one lane (R53). -/
abbrev PBits := BitVec 16

/-- An association list kept sorted by strictly rising key. -/
abbrev AMap (α : Type) := List (Nat × α)

end Sys2Proof
end

