-- ==== Sys2Proof/Syntax.lean ====
section
/-! DEFINITION. The instructions and events of the KH7: one constructor for each row of spec/opcode_table.json.
The first 190 are the instruction words of R66 (an opcode whose MOD selects between two or three rows of the table has
one constructor for each); the other 77 are the steps of the machine's own agents and of the outside world. -/
namespace Sys2Proof

/-- A guard field (R44, R46): the negate bit and the predicate index. -/
structure Guard where
  neg : Bool
  idx : BitVec 3
  deriving DecidableEq, Repr

/-- An operand of class 00, 01, 10 or 11 (R49). The 8-bit field of class 10 is zero. -/
inductive Src where
  | v (n : BitVec 8)      -- class 00: a vector register, or a predicate index where the entry says so
  | u (n : BitVec 6)      -- class 01: a uniform register
  | imm                   -- class 10: the value is IMM
  | sp (c : BitVec 4)     -- class 11: a special code of R51
  deriving DecidableEq, Repr

/-- The fields of an instruction word other than OP (R44). -/
structure Fields where
  ga : Guard
  gb : Guard
  sw : Bool
  dly : BitVec 3
  ch : BitVec 2
  d : BitVec 8
  a : Src
  b : Src
  c : Src
  e : BitVec 8
  md : BitVec 25
  imm : BitVec 32
  deriving DecidableEq, Repr

/-- The report of a write that failed after acceptance (R446): what STORE_ERROR carries. -/
structure StoreErr where
  asid : Nat
  addr : Nat
  peer : Nat
  cause : Nat
  src : Nat
  wg : Nat
  deriving DecidableEq, Repr

/-- A flit of a die-to-die link (R377), without its CRC, which is a function of the rest. Its type names the die that its
traffic is bound for, 8 for the switch die (R388). -/
structure Flit where
  seq : BitVec 12
  ack : BitVec 12
  kind : BitVec 4
  dst : BitVec 4
  payload : List Byte
  deriving DecidableEq, Repr

/-- What a packet of the pod fabric carries (R399). -/
inductive PacketKind where
  | request
  | store
  | writeBack
  | atomic
  | invalidation
  | release
  | acquire
  | directory
  | response
  | data
  deriving DecidableEq, Repr

/-- A packet of the pod fabric (R398-R400), with the ASID, line address and workgroup of a store that it carries. -/
structure Packet where
  src : Nat
  dst : Nat
  kind : PacketKind
  seq : Nat
  bytes : Nat
  asid : Nat
  addr : Nat
  wg : Nat
  deriving DecidableEq, Repr

/-- How a packet reaches a port: without a CRC error or with one, and the bucket class that it is charged to (R276, R399). -/
structure Arrival where
  intact : Bool
  bucket : Option Nat
  deriving DecidableEq, Repr

/-- What the management connector's configuration block supplies to bring-up for one package (R468): the registers whose
Reset column is a dash, and what the tests of the steps find. -/
structure BootPkg where
  pkg : Nat
  ways : Nat
  nbr : List Nat
  expPorts : BitVec 12
  enPorts : BitVec 12
  devBytes : List Nat   -- capacities of the devices at the twelve CXL ports (R396)
  trapvec : List Nat
  svcq : List Nat
  svcPtb : Nat
  ctxtab : Nat
  hbmLane : List (BitVec 32)
  fabricUp : List Bool
  failStep : Nat
  deriving DecidableEq, Repr

/-- The configuration block of bring-up (R468): the pod's size, the packages it starts, and the bytes of memory that the
block provides (the service address leaves of R326, the images of service code). -/
structure BootCfg where
  podN : Nat
  pkgs : List BootPkg
  image : List (Nat × Byte)
  deriving DecidableEq, Repr

/-- The opcode map (R66) and the machine's other steps, in the order of spec/opcode_table.json. -/
inductive Instr where
  | nop (f : Fields)  -- R78, opcode 0x000
  | bra (f : Fields)  -- R79, opcode 0x001
  | brx (f : Fields)  -- R80, opcode 0x002
  | call (f : Fields)  -- R82, opcode 0x003
  | callx (f : Fields)  -- R82, opcode 0x004
  | ret (f : Fields)  -- R83, opcode 0x005
  | exit (f : Fields)  -- R84, opcode 0x006
  | reform (f : Fields)  -- R85, opcode 0x007
  | yield (f : Fields)  -- R86, opcode 0x008
  | sleep (f : Fields)  -- R87, opcode 0x009
  | trap (f : Fields)  -- R88, opcode 0x00A
  | brk (f : Fields)  -- R88, opcode 0x00B
  | sadd (f : Fields)  -- R91, opcode 0x080
  | ssub (f : Fields)  -- R91, opcode 0x081
  | smul (f : Fields)  -- R91, opcode 0x082
  | smulh (f : Fields)  -- R91, opcode 0x083
  | sdiv (f : Fields)  -- R92, opcode 0x084
  | srem (f : Fields)  -- R92, opcode 0x085
  | smin (f : Fields)  -- R91, opcode 0x086
  | smax (f : Fields)  -- R91, opcode 0x087
  | sand (f : Fields)  -- R91, opcode 0x088
  | sor (f : Fields)  -- R91, opcode 0x089
  | sxor (f : Fields)  -- R91, opcode 0x08A
  | sshl (f : Fields)  -- R91, opcode 0x08B
  | sshr (f : Fields)  -- R91, opcode 0x08C
  | ssra (f : Fields)  -- R91, opcode 0x08D
  | smov (f : Fields)  -- R91, opcode 0x08E
  | smovh (f : Fields)  -- R91, opcode 0x08F
  | scmp (f : Fields)  -- R93, opcode 0x090
  | ssel (f : Fields)  -- R91, opcode 0x091
  | sbfx (f : Fields)  -- R94, opcode 0x092
  | spopc (f : Fields)  -- R91, opcode 0x093
  | sclz (f : Fields)  -- R91, opcode 0x094
  | vadd (f : Fields)  -- R102, opcode 0x100
  | vsub (f : Fields)  -- R102, opcode 0x101
  | vmul (f : Fields)  -- R102, opcode 0x102
  | vmulh (f : Fields)  -- R102, opcode 0x103
  | vmad (f : Fields)  -- R102, opcode 0x104
  | vmadw (f : Fields)  -- R103, opcode 0x105
  | vdot (f : Fields)  -- R104, opcode 0x106
  | vabsd (f : Fields)  -- R102, opcode 0x107
  | vmin (f : Fields)  -- R102, opcode 0x108
  | vmax (f : Fields)  -- R102, opcode 0x109
  | vabs (f : Fields)  -- R102, opcode 0x10A
  | vneg (f : Fields)  -- R102, opcode 0x10B
  | vand (f : Fields)  -- R105, opcode 0x180
  | vor (f : Fields)  -- R105, opcode 0x181
  | vxor (f : Fields)  -- R105, opcode 0x182
  | vnot (f : Fields)  -- R105, opcode 0x183
  | vlop3 (f : Fields)  -- R106, opcode 0x184
  | vshl (f : Fields)  -- R107, opcode 0x185
  | vshr (f : Fields)  -- R107, opcode 0x186
  | vsra (f : Fields)  -- R107, opcode 0x187
  | vrotl (f : Fields)  -- R107, opcode 0x188
  | vbfx (f : Fields)  -- R107, opcode 0x189
  | vbfi (f : Fields)  -- R107, opcode 0x18A
  | vpopc (f : Fields)  -- R107, opcode 0x18B
  | vclz (f : Fields)  -- R107, opcode 0x18C
  | vcmp (f : Fields)  -- R108, opcode 0x18D
  | vsel (f : Fields)  -- R109, opcode 0x18E
  | vmov (f : Fields)  -- R110, opcode 0x18F
  | vmovi (f : Fields)  -- R110, opcode 0x190
  | vfadd (f : Fields)  -- R111, opcode 0x200
  | vfsub (f : Fields)  -- R111, opcode 0x201
  | vfmul (f : Fields)  -- R111, opcode 0x202
  | vfma (f : Fields)  -- R111, opcode 0x203
  | vfmin (f : Fields)  -- R113, opcode 0x204
  | vfmax (f : Fields)  -- R113, opcode 0x205
  | vfabs (f : Fields)  -- R112, opcode 0x206
  | vfneg (f : Fields)  -- R112, opcode 0x207
  | vfcmp (f : Fields)  -- R114, opcode 0x208
  | vfclass (f : Fields)  -- R115, opcode 0x209
  | vfscale (f : Fields)  -- R112, opcode 0x20A
  | vfrnd (f : Fields)  -- R112, opcode 0x20B
  | vfclamp (f : Fields)  -- R113, opcode 0x20C
  | vfdot2 (f : Fields)  -- R116, opcode 0x20D
  | vcvt (f : Fields)  -- R119, opcode 0x280
  | vtag (f : Fields)  -- R122, opcode 0x281
  | vtagq (f : Fields)  -- R123, opcode 0x282
  | vpack (f : Fields)  -- R120, opcode 0x283
  | vunpack (f : Fields)  -- R121, opcode 0x284
  | vgen (f : Fields)  -- R124, opcode 0x285
  | vbsc (f : Fields)  -- R125, opcode 0x286
  | vexp2 (f : Fields)  -- R132, opcode 0x300
  | vexp (f : Fields)  -- R132, opcode 0x301
  | vlog2 (f : Fields)  -- R133, opcode 0x302
  | vln (f : Fields)  -- R133, opcode 0x303
  | vsin (f : Fields)  -- R134, opcode 0x304
  | vcos (f : Fields)  -- R134, opcode 0x305
  | vatan2 (f : Fields)  -- R135, opcode 0x306
  | vtanh (f : Fields)  -- R137, opcode 0x307
  | vsigm (f : Fields)  -- R137, opcode 0x308
  | vsilu (f : Fields)  -- R137, opcode 0x309
  | vgelu (f : Fields)  -- R137, opcode 0x30A
  | vsqrt (f : Fields)  -- R136, opcode 0x30B
  | vrsqrt (f : Fields)  -- R136, opcode 0x30C
  | vrcp (f : Fields)  -- R136, opcode 0x30D
  | vdiv (f : Fields)  -- R136, opcode 0x30E
  | vred (f : Fields)  -- R140, opcode 0x340
  | vscan (f : Fields)  -- R141, opcode 0x341
  | vshfl (f : Fields)  -- R144, opcode 0x380
  | vbcast (f : Fields)  -- R145, opcode 0x381
  | vperm (f : Fields)  -- R146, opcode 0x382
  | vrotx (f : Fields)  -- R145, opcode 0x383
  | vvote (f : Fields)  -- R147, opcode 0x384
  | vmatch (f : Fields)  -- R148, opcode 0x385
  | pand (f : Fields)  -- R149, opcode 0x386
  | por (f : Fields)  -- R149, opcode 0x387
  | pxor (f : Fields)  -- R149, opcode 0x388
  | pnot (f : Fields)  -- R149, opcode 0x389
  | pmov (f : Fields)  -- R149, opcode 0x38A
  | ppopc (f : Fields)  -- R149, opcode 0x38B
  | ld (f : Fields)  -- R158, opcode 0x400
  | st (f : Fields)  -- R159, opcode 0x401
  | ldb (f : Fields)  -- R160, opcode 0x402
  | stb (f : Fields)  -- R160, opcode 0x403
  | ldu (f : Fields)  -- R161, opcode 0x404
  | stu (f : Fields)  -- R161, opcode 0x405
  | ldnf (f : Fields)  -- R162, opcode 0x406
  | pf (f : Fields)  -- R163, opcode 0x407
  | cflu (f : Fields)  -- R163, opcode 0x408
  | cinv (f : Fields)  -- R163, opcode 0x409
  | atom (f : Fields)  -- R165, opcode 0x480
  | acas (f : Fields)  -- R165, opcode 0x481
  | red (f : Fields)  -- R165, opcode 0x482
  | atomu (f : Fields)  -- R167, opcode 0x483
  | acasu (f : Fields)  -- R167, opcode 0x484
  | fence (f : Fields)  -- R168, opcode 0x485
  | tdef (f : Fields)  -- R171, opcode 0x500
  | tacq (f : Fields)  -- R172, opcode 0x501
  | trdy (f : Fields)  -- R172, opcode 0x502
  | trel (f : Fields)  -- R172, opcode 0x503
  | tstat (f : Fields)  -- R172, opcode 0x504
  | acopyIn (f : Fields)  -- R173, opcode 0x505
  | acopyOut (f : Fields)  -- R173, opcode 0x505
  | acopygIn (f : Fields)  -- R174, opcode 0x506
  | acopygOut (f : Fields)  -- R174, opcode 0x506
  | waitz (f : Fields)  -- R177, opcode 0x507
  | apf (f : Fields)  -- R179, opcode 0x508
  | aev (f : Fields)  -- R179, opcode 0x509
  | shopen (f : Fields)  -- R181, opcode 0x50A
  | publ (f : Fields)  -- R183, opcode 0x50B
  | kvsum (f : Fields)  -- R184, opcode 0x50C
  | mcfg (f : Fields)  -- R190, opcode 0x580
  | mldw (f : Fields)  -- R192, opcode 0x581
  | mswap (f : Fields)  -- R192, opcode 0x582
  | mmul (f : Fields)  -- R193, opcode 0x583
  | mzero (f : Fields)  -- R194, opcode 0x584
  | mrsum (f : Fields)  -- R195, opcode 0x585
  | mcsum (f : Fields)  -- R195, opcode 0x586
  | mload (f : Fields)  -- R196, opcode 0x587
  | mdrain (f : Fields)  -- R197, opcode 0x588
  | smxi (f : Fields)  -- R199, opcode 0x600
  | smxu (f : Fields)  -- R200, opcode 0x601
  | smxm (f : Fields)  -- R201, opcode 0x602
  | smxf (f : Fields)  -- R202, opcode 0x603
  | smxs (f : Fields)  -- R203, opcode 0x604
  | smxl (f : Fields)  -- R203, opcode 0x605
  | attn (f : Fields)  -- R205, opcode 0x606
  | conftTop (f : Fields)  -- R207, opcode 0x607
  | conftMrg (f : Fields)  -- R207, opcode 0x607
  | bfq (f : Fields)  -- R208, opcode 0x608
  | bar (f : Fields)  -- R211, opcode 0x680
  | barm (f : Fields)  -- R211, opcode 0x681
  | barv (f : Fields)  -- R213, opcode 0x682
  | wait (f : Fields)  -- R214, opcode 0x683
  | launch (f : Fields)  -- R216, opcode 0x684
  | migrate (f : Fields)  -- R217, opcode 0x685
  | regdon (f : Fields)  -- R218, opcode 0x686
  | pgrant (f : Fields)  -- R219, opcode 0x687
  | trapret (f : Fields)  -- R225, opcode 0x700
  | trapretSkip (f : Fields)  -- R225, opcode 0x700
  | trapretKill (f : Fields)  -- R225, opcode 0x700
  | csrr (f : Fields)  -- R221, opcode 0x701
  | csrw (f : Fields)  -- R221, opcode 0x702
  | tlbinvAddr (f : Fields)  -- R226, opcode 0x703
  | tlbinvAsid (f : Fields)  -- R226, opcode 0x703
  | tlbinvAll (f : Fields)  -- R226, opcode 0x703
  | pgref (f : Fields)  -- R228, opcode 0x704
  | ptw (f : Fields)  -- R227, opcode 0x705
  | vsave (f : Fields)  -- R232, opcode 0x706
  | vrest (f : Fields)  -- R233, opcode 0x707
  | accsv (f : Fields)  -- R234, opcode 0x708
  | accrs (f : Fields)  -- R234, opcode 0x709
  | tsv (f : Fields)  -- R235, opcode 0x70A
  | trs (f : Fields)  -- R235, opcode 0x70B
  | pcsv (f : Fields)  -- R230, opcode 0x70C
  | pcrs (f : Fields)  -- R231, opcode 0x70D
  | lnkq (f : Fields)  -- R223, opcode 0x70E
  | halt (f : Fields)  -- R224, opcode 0x70F
  | delayExpiry (w : Nat) -- R47
  | sleepExpiry (w : Nat) (lanes : BitVec 32) -- R87
  | starvationCount (w : Nat) -- R242
  | resultReturn (w : Nat) (idx : Nat) -- R246
  | hoopAge (core : Nat) (hoop : Nat) -- R253
  | hoopDraw (core : Nat) (hoop : Nat) -- R253
  | swapOut (gid : Nat) -- R258
  | swapIn (gid : Nat) -- R258
  | migrateLand (w : Nat) -- R217
  | waitRecheck (w : Nat) -- R214
  | copyInLanded (id : Nat) -- R173
  | copyOutAccepted (id : Nat) -- R173
  | capCopyComplete (id : Nat) -- R180
  | matrixComplete (gid : Nat) (idx : Nat) -- R187
  | matrixFetchFault (gid : Nat) (idx : Nat)  -- R447
  | pageWalk (core : Nat) (asid : Nat) (ptbase : Nat) (va : BitVec 64) -- R333
  | intake (pkg : Nat) -- R265
  | lctailAppend (pkg : Nat) (chain : Nat) (val : BitVec 64) -- R263
  | lcheadRetry (pkg : Nat) (chain : Nat) (val : BitVec 64) -- R266
  | lcheadDropOne (pkg : Nat) (chain : Nat) (val : BitVec 64) -- R266
  | lcheadDropAll (pkg : Nat) (chain : Nat) (val : BitVec 64) -- R266
  | dispatch (pkg : Nat) -- R272
  | stagingComplete (gid : Nat) (wg : Nat) -- R270
  | launchComplete (lid : Nat) -- R275
  | bucketRefill (pkg : Nat) -- R276
  | preempt (gid : Nat) -- R430
  | migratedWarpReturn (w : Nat) -- R449
  | preEmpted (gid : Nat) -- R431
  | hardwareSave (gid : Nat) -- R456
  | programFaultDelivery (w : Nat) -- R437
  | workgroupFaultEnd (gid : Nat) -- R439
  | serviceRingPost (die : Nat) -- R318
  | storeError (pkg : Nat) (err : StoreErr) -- R446
  | powerWindow (die : Nat) -- R458
  | thermalThrottle (die : Nat) (celsius : Int) -- R459
  | pwrctlWrite (pkg : Nat) (val : BitVec 64) -- R457
  | flitReceive (link : Nat) (atB : Bool) (flit : Flit) (noise : List (Nat × Byte)) (badLanes : List Nat) -- R381
  | nak (link : Nat) (atB : Bool) (seq : BitVec 12) -- R381
  | laneRetire (link : Nat) (lane : Nat) -- R382
  | rateFallback (link : Nat) -- R383
  | lnkctlRetrain (link : Nat) (val : BitVec 64) -- R378
  | trainingAttempt (link : Nat) (pass : Bool) -- R384
  | hbmTemperature (die : Nat) (stk : Nat) (celsius : Int) (laneFault : Option Nat) -- R390
  | hbmWidthChange (die : Nat) (stk : Nat) (chan : Nat) -- R389
  | fabricPacketReceive (pkg : Nat) (pkt : Packet) (how : Arrival) -- R399
  | fabricResend (pkg : Nat) (dst : Nat) (kind : PacketKind) (seq : Nat) -- R400
  | readMiss (die : Nat) (line : Nat) -- R355
  | writeGrant (die : Nat) (line : Nat) (asid : Nat) (dup : Bool) -- R356
  | injectionOffer (pkg : Nat) (src : Nat) (gpn : Nat) -- R362
  | l2WriteBack (die : Nat) (line : Nat) -- R352
  | firstWriteRetry (w : Nat) -- R363
  | amopDiscard (pkg : Nat) (gpn : Nat) -- R367
  | amopPin (pkg : Nat) (gpn : Nat) -- R368
  | amopUnpin (pkg : Nat) (gpn : Nat) -- R368
  | amopLost (pkg : Nat) (lost : Nat) -- R371
  | dieReset (die : Nat) -- R370
  | snpinv (die : Nat) (addr : Nat) -- R402
  | snpdata (die : Nat) (addr : Nat) -- R402
  | hostRead (host : Nat) (pkg : Nat) (addr : Nat) (len : Nat) -- R425
  | hostWrite (host : Nat) (pkg : Nat) (addr : Nat) (bytes : List (BitVec 8)) -- R425
  | biasopToDevice (pkg : Nat) (gpn : Nat) -- R427
  | biasopToHost (pkg : Nat) (host : Nat) (gpn : Nat) -- R427
  | backfillAccept (pkg : Nat) -- R312
  | batchAge (pkg : Nat) -- R312
  | batchEmit (pkg : Nat) -- R312
  | bfcfgWrite (pkg : Nat) (val : BitVec 64) -- R309
  | scrubCheck (die : Nat) -- R344
  | alarm (pkg : Nat) (sources : BitVec 4) -- R461
  | alarmcfgWrite (pkg : Nat) (val : BitVec 64) -- R460
  | attcmd (pkg : Nat) -- R465
  | counterEvent (core : Nat) (idx : Nat)  -- R467
  | cntvalWrite (core : Nat) (idx : Nat) (val : BitVec 64)  -- R467
  | bringUp (cfg : BootCfg) -- R468
  | registerWrite (pkg : Nat) (page : Nat) (off : Nat) (size : Nat) (val : BitVec 64) -- R11
  | fabricPortLinkChange (pkg : Nat) (port : Nat) (up : Bool) -- R401
  | dieLeavesReset (die : Nat) -- R442
  | powerLoss (pkg : Nat) -- R463
  deriving DecidableEq, Repr

end Sys2Proof
end

