-- ==== Sys2Proof/WellFormed.lean ====
section
/-! DEFINITION. Well-formed instruction words: checks 2 and 3 of the decode order (R67) as far as they depend on the word
alone. `wfFor false` is a vector warp's reading, `wfFor true` the quad sequencer's. -/
namespace Sys2Proof

/-- Unit classes (R65, R241). -/
inductive UnitClass where
  | intLogic
  | float
  | transc
  | memory
  | cross
  | async
  | control
  deriving DecidableEq, Repr

/-- Register classes of D and E (R52). `vec4` is a vector register whose number is a multiple of 4 (R160); `link` is a
vector register in a warp and a uniform register in the sequencer. -/
inductive RegK where
  | unused
  | vec
  | vec4
  | uni
  | pred
  | tile
  | link
  deriving DecidableEq, Repr

/-- How an instruction uses MOD.FMT of R62: not at all, as the operand format when no source is of class 00, the same
while it also lists FMT among its fields (R105), or always as the result format (R98). -/
inductive FmtUse where
  | unused
  | ifNoVec
  | listed
  | required
  deriving DecidableEq, Repr

/-- How an instruction uses IMM: not at all, as the value of its class-10 operands, or with a purpose of its own in the
bits of a mask (R50). -/
inductive ImmUse where
  | unused
  | operand
  | own (mask : Nat)
  deriving DecidableEq, Repr

/-- Bits [lo + n - 1 : lo] of a number. -/
def bitsN (x lo n : Nat) : Nat := x / 2 ^ lo % 2 ^ n

def mdN (f : Fields) (lo n : Nat) : Nat := bitsN f.md.toNat lo n

def mdB (f : Fields) (i : Nat) : Bool := f.md.getLsbD i

def immN (f : Fields) : Nat := f.imm.toNat

/-- A format tag code of R59 that names a format. -/
def fmtCodeOk (n : Nat) : Bool := 0 < n && n < 0x14

/-- RND of R62: codes 5-7 are no modes (R25). -/
def rndOk (f : Fields) : Bool := mdN f 1 3 ≤ 4

/-- ITER of R62, R128. -/
def iterOk (f : Fields) : Bool := mdN f 10 6 == 0 || (8 ≤ mdN f 10 6 && mdN f 10 6 ≤ 48)

def isImm (s : Src) : Bool := match s with | .imm => true | _ => false

/-- R94, R107: an immediate pos is IMM[7:0], an immediate len IMM[15:8]; the other byte and IMM[31:16] are zero. An
immediate a excludes both. -/
def fieldImmOk (f : Fields) : Bool :=
  if isImm f.a then !isImm f.b && !isImm f.c
  else (isImm f.b || bitsN (immN f) 0 8 == 0) && (isImm f.c || bitsN (immN f) 8 8 == 0) && immN f < 65536

/-- R139: the codes of OPR, RND for fadd only, SAT for add and fadd only. -/
def oprOk (f : Fields) : Bool :=
  let o := mdN f 14 4
  (o == 0 || (2 ≤ o && o ≤ 6) || (8 ≤ o && o ≤ 10)) && rndOk f && (o == 8 || mdN f 1 3 == 0)
    && (o == 0 || o == 8 || !mdB f 0)

/-- R144: a control word of class 10 has only bits [4:0] and [11:8]. -/
def shflImmOk (f : Fields) : Bool := !isImm f.b || (bitsN (immN f) 5 3 == 0 && immN f < 4096)

/-- R156: ORD is relaxed or the one code accepted, SCOPE 0-5, and zero when relaxed. -/
def memOrd (f : Fields) (lo hi : Nat) : Bool :=
  (mdN f 12 2 == lo && mdN f 9 3 == 0) || (mdN f 12 2 == hi && mdN f 9 3 ≤ 5)

/-- R150: with BLK set, B is special zero. -/
def memBlk (f : Fields) : Bool := !mdB f 8 || f.b == .sp 0

def memFmtReq (f : Fields) : Bool := fmtCodeOk (mdN f 0 5)

/-- R159: FMT is zero when C is a vector register and required otherwise. -/
def stFmtOk (f : Fields) : Bool := match f.c with | .v _ => mdN f 0 5 == 0 | _ => fmtCodeOk (mdN f 0 5)

/-- R160: the first of four registers is a multiple of 4. -/
def quadC (f : Fields) : Bool := match f.c with | .v n => n.toNat % 4 == 0 | _ => false

/-- Width in bits of a format (R59); 0 for VOID and reserved codes. -/
def fmtWidth (t : Nat) : Nat :=
  if t == 1 || t == 2 then 4
  else if t == 0x0E then 6
  else if t == 3 || t == 4 || t == 0x0C || t == 0x0D || t == 0x0F then 8
  else if t == 5 || t == 6 || t == 0x10 || t == 0x11 then 16
  else if t == 7 || t == 8 || t == 0x12 then 32
  else if t == 9 || t == 0x0A || t == 0x0B || t == 0x13 then 64
  else 0

/-- R161: a format of 8, 16, 32 or 64 bits. -/
def byteFmt (f : Fields) : Bool := fmtCodeOk (mdN f 0 5) && 8 ≤ fmtWidth (mdN f 0 5)

/-- R164: the formats each atomic operation takes. -/
def aopFmtOk (f : Fields) : Bool :=
  let t := mdN f 0 5
  let o := mdN f 14 4
  let word := t == 7 || t == 8 || t == 9 || t == 0x0A || t == 0x0B
  if o ≤ 3 then word
  else if o ≤ 6 then word || t == 5 || t == 6
  else if o == 7 then 16 ≤ fmtWidth t
  else if o ≤ 10 then t == 0x10 || t == 0x11 || t == 0x12 || t == 0x13
  else false

def casFmtOk (f : Fields) : Bool := 16 ≤ fmtWidth (mdN f 0 5)

/-- R171: the checks `tdef` makes at decode. -/
def tdefOk (f : Fields) : Bool :=
  fmtCodeOk (mdN f 0 5) && mdN f 0 5 != 0x0B && bitsN (immN f) 8 8 ≤ bitsN (immN f) 0 8
    && (bitsN (immN f) 22 1 == 0 || bitsN (immN f) 16 6 != f.d.toNat)

/-- R170, R175: E names a counter s48-s63 when CNT is set and is zero otherwise. -/
def cntOk (f : Fields) (bit : Nat) : Bool := if mdB f bit then 48 ≤ f.e.toNat else f.e == 0

def ctrSrc (s : Src) : Bool := match s with | .u n => 48 ≤ n.toNat | _ => false

/-- R190: the accepted format pairs and accumulate modes; integer overrides only on an integer pair. -/
def mcfgOk (f : Fields) : Bool :=
  let a := mdN f 0 5
  let w := mdN f 5 5
  let m := mdN f 10 2
  let ovr := mdB f 14 || mdB f 16
  mdN f 12 2 ≤ 2 &&
    (((a == 0x11 && w == 0x11) || (a == 0x10 && w == 0x10)
        || ((a == 0x0C || a == 0x0D) && (w == 0x0C || w == 0x0D))) && m == 0 && !ovr
      || ((a == 3 || a == 4) && (w == 3 || w == 4) && 1 ≤ m)
      || (a == 0x0E && w == 0x0E && m == 1 && !ovr))

/-- Region fields of IMM (R186). -/
def rowN (f : Fields) : Nat := bitsN (immN f) 0 7
def colN (f : Fields) : Nat := bitsN (immN f) 7 10
def nrN (f : Fields) : Nat := bitsN (immN f) 17 7 + 1
def ncN (f : Fields) : Nat := 4 * (bitsN (immN f) 24 8 + 1)

/-- R186: the region lies within 128 rows and 1,024 columns. -/
def regionOk (f : Fields) : Bool := rowN f + nrN f ≤ 128 && colN f + ncN f ≤ 1024

def ocolN (f : Fields) : Nat := mdN f 0 10
def oncN (f : Fields) : Nat := 4 * (mdN f 10 8 + 1)

/-- R200: the output columns lie below 1,024 and apart from the score columns. -/
def smxuOk (f : Fields) : Bool :=
  ocolN f + oncN f ≤ 1024 && (ocolN f + oncN f ≤ colN f || colN f + ncN f ≤ ocolN f)

/-- R201: the source region lies in the store and does not overlap the destination in both rows and columns. -/
def smxmOk (f : Fields) : Bool :=
  let sr := mdN f 0 7
  let sc := mdN f 7 10
  sr + nrN f ≤ 128 && sc + ncN f ≤ 1024 &&
    (sr + nrN f ≤ rowN f || rowN f + nrN f ≤ sr || sc + ncN f ≤ colN f || colN f + ncN f ≤ sc)

/-- R204: B is a counter when CNT is set and zero otherwise; D is zero without FIN. -/
def attnOk (f : Fields) : Bool :=
  (if mdB f 0 then ctrSrc f.b else f.b == .v 0) && (mdB f 1 || f.d == 0)

/-- R209: SCOPE up to the row's largest, and the identifier's range at that scope. -/
def barOk (f : Fields) (top : Nat) : Bool :=
  mdN f 0 3 ≤ top && bitsN (immN f) 0 4 ≤ (if mdN f 0 3 == 0 then 15 else if mdN f 0 3 == 1 then 3 else 1)

/-- R209: the count of a `barm`. -/
def barmOk (f : Fields) : Bool := bitsN (immN f) 16 8 + 1 ≤ (if mdN f 0 3 == 0 then 32 else 129)

/-- R221: a number of the CSR table. -/
def csrNumOk (f : Fields) : Bool := bitsN (immN f) 0 8 ≤ 0x14

/-- R221: LCDONE and LNKSTAT are never written. -/
def csrWritable (f : Fields) : Bool := bitsN (immN f) 0 8 != 0x0D && bitsN (immN f) 0 8 != 0x0F

/-- One row of the encoding tables. The masks `a`, `b`, `c` hold the operand classes a warp may use (1: class 00, 2: 01,
4: 10, 8: 11; 0: unused), `aq`, `bq`, `cq` those of the sequencer. -/
structure OpSpec where
  unit : UnitClass
  forW : Bool := true
  forQ : Bool := false
  forP : Bool := false
  ch : Bool := false
  d : RegK := .unused
  e : RegK := .unused
  a : Nat := 0
  b : Nat := 0
  c : Nat := 0
  aq : Nat := 0
  bq : Nat := 0
  cq : Nat := 0
  pa : Bool := false
  pb : Bool := false
  md : Nat := 0
  fmt : FmtUse := .unused
  imm : ImmUse := .unused
  ok : Fields → Bool := fun _ => true
  okq : Fields → Bool := fun _ => true

/-- The encoding of each instruction word, from the tables of the instruction chapters; `none` for the steps that are
no instruction words. -/
def opSpec : Instr → Option OpSpec
  | .nop _ => some { unit := .control, forQ := true }
  | .bra _ => some { unit := .control, forQ := true, imm := .own 0xFFFFFFFF }
  | .brx _ => some { unit := .control, forQ := true, a := 3, aq := 2, imm := .own 0xFFFFFFF0 }
  | .call _ => some { unit := .control, forQ := true, d := .link, imm := .own 0xFFFFFFFF }
  | .callx _ => some { unit := .control, forQ := true, d := .link, a := 3, aq := 2, imm := .own 0xFFFFFFF0 }
  | .ret _ => some { unit := .control, forQ := true, a := 1, aq := 2 }
  | .exit _ => some { unit := .control, forQ := true }
  | .reform _ => some { unit := .control }
  | .yield _ => some { unit := .control, forQ := true }
  | .sleep _ => some { unit := .control, forQ := true, a := 6, aq := 6, imm := .operand }
  | .trap _ => some { unit := .control, forQ := true, imm := .own 0xFFFF }
  | .brk _ => some { unit := .control, forQ := true, imm := .own 0xFFFF }
  | .sadd _ => some { unit := .intLogic, forQ := true, d := .uni, a := 14, aq := 14, b := 14, bq := 14, md := 0x3, imm := .operand }
  | .ssub _ => some { unit := .intLogic, forQ := true, d := .uni, a := 14, aq := 14, b := 14, bq := 14, md := 0x3, imm := .operand }
  | .smul _ => some { unit := .intLogic, forQ := true, d := .uni, a := 14, aq := 14, b := 14, bq := 14, md := 0x3, imm := .operand }
  | .smulh _ => some { unit := .intLogic, forQ := true, d := .uni, a := 14, aq := 14, b := 14, bq := 14, md := 0x1, imm := .operand }
  | .sdiv _ => some { unit := .intLogic, forQ := true, d := .uni, a := 14, aq := 14, b := 14, bq := 14, md := 0x1, imm := .operand }
  | .srem _ => some { unit := .intLogic, forQ := true, d := .uni, a := 14, aq := 14, b := 14, bq := 14, md := 0x1, imm := .operand }
  | .smin _ => some { unit := .intLogic, forQ := true, d := .uni, a := 14, aq := 14, b := 14, bq := 14, md := 0x1, imm := .operand }
  | .smax _ => some { unit := .intLogic, forQ := true, d := .uni, a := 14, aq := 14, b := 14, bq := 14, md := 0x1, imm := .operand }
  | .sand _ => some { unit := .intLogic, forQ := true, d := .uni, a := 14, aq := 14, b := 14, bq := 14, md := 0x1, imm := .operand }
  | .sor _ => some { unit := .intLogic, forQ := true, d := .uni, a := 14, aq := 14, b := 14, bq := 14, md := 0x1, imm := .operand }
  | .sxor _ => some { unit := .intLogic, forQ := true, d := .uni, a := 14, aq := 14, b := 14, bq := 14, md := 0x1, imm := .operand }
  | .sshl _ => some { unit := .intLogic, forQ := true, d := .uni, a := 14, aq := 14, b := 14, bq := 14, md := 0x1, imm := .operand }
  | .sshr _ => some { unit := .intLogic, forQ := true, d := .uni, a := 14, aq := 14, b := 14, bq := 14, md := 0x1, imm := .operand }
  | .ssra _ => some { unit := .intLogic, forQ := true, d := .uni, a := 14, aq := 14, b := 14, bq := 14, md := 0x1, imm := .operand }
  | .smov _ => some { unit := .intLogic, forQ := true, d := .uni, a := 14, aq := 14, md := 0x1, imm := .operand }
  | .smovh _ => some { unit := .intLogic, forQ := true, d := .uni, a := 14, aq := 14, md := 0x1, imm := .operand }
  | .scmp _ => some { unit := .intLogic, forQ := true, d := .pred, a := 14, aq := 14, b := 14, bq := 14, md := 0x1D, imm := .operand, ok := fun f => mdN f 2 3 ≤ 5 }
  | .ssel _ => some { unit := .intLogic, forQ := true, d := .uni, e := .pred, a := 14, aq := 14, b := 14, bq := 14, md := 0x1, imm := .operand }
  | .sbfx _ => some { unit := .intLogic, forQ := true, d := .uni, a := 14, aq := 14, b := 14, bq := 14, c := 14, cq := 14, md := 0x1, imm := .operand, ok := fun f => fieldImmOk f }
  | .spopc _ => some { unit := .intLogic, forQ := true, d := .uni, a := 14, aq := 14, md := 0x1, imm := .operand }
  | .sclz _ => some { unit := .intLogic, forQ := true, d := .uni, a := 14, aq := 14, md := 0x1, imm := .operand }
  | .vadd _ => some { unit := .intLogic, d := .vec, a := 15, b := 15, md := 0x1, fmt := .ifNoVec, imm := .operand }
  | .vsub _ => some { unit := .intLogic, d := .vec, a := 15, b := 15, md := 0x1, fmt := .ifNoVec, imm := .operand }
  | .vmul _ => some { unit := .intLogic, d := .vec, a := 15, b := 15, md := 0x1, fmt := .ifNoVec, imm := .operand }
  | .vmulh _ => some { unit := .intLogic, d := .vec, a := 15, b := 15, fmt := .ifNoVec, imm := .operand }
  | .vmad _ => some { unit := .intLogic, d := .vec, a := 15, b := 15, c := 15, md := 0x1, fmt := .ifNoVec, imm := .operand }
  | .vmadw _ => some { unit := .intLogic, d := .vec, a := 3, b := 15, c := 15, md := 0x11, fmt := .ifNoVec, imm := .operand }
  | .vdot _ => some { unit := .intLogic, d := .vec, a := 3, b := 15, c := 15, md := 0x1, fmt := .ifNoVec, imm := .operand }
  | .vabsd _ => some { unit := .intLogic, d := .vec, a := 15, b := 15, fmt := .ifNoVec, imm := .operand }
  | .vmin _ => some { unit := .intLogic, d := .vec, a := 15, b := 15, fmt := .ifNoVec, imm := .operand }
  | .vmax _ => some { unit := .intLogic, d := .vec, a := 15, b := 15, fmt := .ifNoVec, imm := .operand }
  | .vabs _ => some { unit := .intLogic, d := .vec, a := 15, md := 0x1, fmt := .ifNoVec, imm := .operand }
  | .vneg _ => some { unit := .intLogic, d := .vec, a := 15, md := 0x1, fmt := .ifNoVec, imm := .operand }
  | .vand _ => some { unit := .intLogic, d := .vec, a := 15, b := 15, fmt := .listed, imm := .operand }
  | .vor _ => some { unit := .intLogic, d := .vec, a := 15, b := 15, fmt := .listed, imm := .operand }
  | .vxor _ => some { unit := .intLogic, d := .vec, a := 15, b := 15, fmt := .listed, imm := .operand }
  | .vnot _ => some { unit := .intLogic, d := .vec, a := 15, fmt := .listed, imm := .operand }
  | .vlop3 _ => some { unit := .intLogic, d := .vec, a := 11, b := 11, c := 11, fmt := .listed, imm := .own 0xFF }
  | .vshl _ => some { unit := .intLogic, d := .vec, a := 15, b := 15, fmt := .ifNoVec, imm := .operand }
  | .vshr _ => some { unit := .intLogic, d := .vec, a := 15, b := 15, fmt := .ifNoVec, imm := .operand }
  | .vsra _ => some { unit := .intLogic, d := .vec, a := 15, b := 15, fmt := .ifNoVec, imm := .operand }
  | .vrotl _ => some { unit := .intLogic, d := .vec, a := 15, b := 15, fmt := .ifNoVec, imm := .operand }
  | .vbfx _ => some { unit := .intLogic, d := .vec, a := 15, b := 15, c := 15, fmt := .ifNoVec, imm := .operand, ok := fun f => fieldImmOk f }
  | .vbfi _ => some { unit := .intLogic, d := .vec, a := 11, b := 11, fmt := .ifNoVec, imm := .own 0xFFFF }
  | .vpopc _ => some { unit := .intLogic, d := .vec, a := 1 }
  | .vclz _ => some { unit := .intLogic, d := .vec, a := 1 }
  | .vcmp _ => some { unit := .intLogic, d := .pred, a := 15, b := 15, md := 0xF0000, fmt := .ifNoVec, imm := .operand, ok := fun f => mdN f 16 4 ≤ 5 }
  | .vsel _ => some { unit := .intLogic, d := .vec, e := .pred, a := 15, b := 15, fmt := .listed, imm := .operand }
  | .vmov _ => some { unit := .intLogic, d := .vec, a := 1 }
  | .vmovi _ => some { unit := .intLogic, d := .vec, a := 14, fmt := .required, imm := .operand }
  | .vfadd _ => some { unit := .float, d := .vec, a := 15, b := 15, md := 0xF, fmt := .ifNoVec, imm := .operand, ok := fun f => rndOk f }
  | .vfsub _ => some { unit := .float, d := .vec, a := 15, b := 15, md := 0xF, fmt := .ifNoVec, imm := .operand, ok := fun f => rndOk f }
  | .vfmul _ => some { unit := .float, d := .vec, a := 15, b := 15, md := 0xF, fmt := .ifNoVec, imm := .operand, ok := fun f => rndOk f }
  | .vfma _ => some { unit := .float, d := .vec, a := 15, b := 15, c := 15, md := 0xF, fmt := .ifNoVec, imm := .operand, ok := fun f => rndOk f }
  | .vfmin _ => some { unit := .float, d := .vec, a := 15, b := 15, fmt := .ifNoVec, imm := .operand }
  | .vfmax _ => some { unit := .float, d := .vec, a := 15, b := 15, fmt := .ifNoVec, imm := .operand }
  | .vfabs _ => some { unit := .float, d := .vec, a := 1 }
  | .vfneg _ => some { unit := .float, d := .vec, a := 1 }
  | .vfcmp _ => some { unit := .float, d := .pred, a := 15, b := 15, md := 0xF0000, fmt := .ifNoVec, imm := .operand, ok := fun f => mdN f 16 4 ≤ 7 }
  | .vfclass _ => some { unit := .float, d := .pred, a := 1, imm := .own 0x3FF }
  | .vfscale _ => some { unit := .float, d := .vec, a := 1, b := 15, md := 0xF, imm := .operand, ok := fun f => rndOk f }
  | .vfrnd _ => some { unit := .float, d := .vec, a := 1, md := 0xF, ok := fun f => rndOk f }
  | .vfclamp _ => some { unit := .float, d := .vec, a := 15, b := 15, c := 15, fmt := .ifNoVec, imm := .operand }
  | .vfdot2 _ => some { unit := .float, d := .vec, a := 3, b := 15, c := 15, md := 0x1F, fmt := .ifNoVec, imm := .operand, ok := fun f => rndOk f }
  | .vcvt _ => some { unit := .float, d := .vec, a := 3, md := 0xF, fmt := .required, imm := .own 0xF, ok := fun f => rndOk f }
  | .vtag _ => some { unit := .float, d := .vec, a := 1, fmt := .required }
  | .vtagq _ => some { unit := .float, d := .uni, a := 1 }
  | .vpack _ => some { unit := .float, d := .vec, a := 1, b := 1, md := 0xF, fmt := .required, ok := fun f => rndOk f }
  | .vunpack _ => some { unit := .float, d := .vec, e := .vec, a := 1, md := 0xF, fmt := .required, ok := fun f => rndOk f && f.d != f.e }
  | .vgen _ => some { unit := .float, d := .vec, a := 1 }
  | .vbsc _ => some { unit := .float, d := .vec, a := 1, b := 15, md := 0xF, imm := .operand, ok := fun f => rndOk f }
  | .vexp2 _ => some { unit := .transc, d := .vec, a := 1, md := 0xFC0F, ok := fun f => rndOk f && iterOk f }
  | .vexp _ => some { unit := .transc, d := .vec, a := 1, md := 0xFC0F, ok := fun f => rndOk f && iterOk f }
  | .vlog2 _ => some { unit := .transc, d := .vec, a := 1, md := 0xFC0F, ok := fun f => rndOk f && iterOk f }
  | .vln _ => some { unit := .transc, d := .vec, a := 1, md := 0xFC0F, ok := fun f => rndOk f && iterOk f }
  | .vsin _ => some { unit := .transc, d := .vec, a := 1, md := 0xFC0F, ok := fun f => rndOk f && iterOk f }
  | .vcos _ => some { unit := .transc, d := .vec, a := 1, md := 0xFC0F, ok := fun f => rndOk f && iterOk f }
  | .vatan2 _ => some { unit := .transc, d := .vec, a := 1, b := 15, md := 0xFC0F, imm := .operand, ok := fun f => rndOk f && iterOk f }
  | .vtanh _ => some { unit := .transc, d := .vec, a := 1, md := 0xFC0F, ok := fun f => rndOk f && iterOk f }
  | .vsigm _ => some { unit := .transc, d := .vec, a := 1, md := 0xFC0F, ok := fun f => rndOk f && iterOk f }
  | .vsilu _ => some { unit := .transc, d := .vec, a := 1, md := 0xFC0F, ok := fun f => rndOk f && iterOk f }
  | .vgelu _ => some { unit := .transc, d := .vec, a := 1, md := 0xFC0F, ok := fun f => rndOk f && iterOk f }
  | .vsqrt _ => some { unit := .transc, d := .vec, a := 1, md := 0xFC0F, ok := fun f => rndOk f && iterOk f }
  | .vrsqrt _ => some { unit := .transc, d := .vec, a := 1, md := 0xFC0F, ok := fun f => rndOk f && iterOk f }
  | .vrcp _ => some { unit := .transc, d := .vec, a := 1, md := 0xFC0F, ok := fun f => rndOk f && iterOk f }
  | .vdiv _ => some { unit := .transc, d := .vec, a := 1, b := 15, md := 0xFC0F, imm := .operand, ok := fun f => rndOk f && iterOk f }
  | .vred _ => some { unit := .cross, d := .vec, e := .pred, a := 1, md := 0x3C00F, ok := fun f => oprOk f }
  | .vscan _ => some { unit := .cross, d := .vec, e := .pred, a := 1, md := 0x3C01F, ok := fun f => oprOk f }
  | .vshfl _ => some { unit := .cross, d := .vec, a := 1, b := 15, md := 0x3, imm := .operand, ok := fun f => shflImmOk f }
  | .vbcast _ => some { unit := .cross, d := .vec, a := 1, b := 14, imm := .operand }
  | .vperm _ => some { unit := .cross, d := .vec, a := 1, b := 1 }
  | .vrotx _ => some { unit := .cross, d := .vec, a := 1, b := 14, imm := .operand }
  | .vvote _ => some { unit := .cross, d := .pred, e := .uni, a := 1, pa := true, md := 0x7, ok := fun f => mdN f 0 2 ≤ 2 && (mdB f 2 || f.e == 0) }
  | .vmatch _ => some { unit := .cross, d := .vec, e := .pred, a := 1 }
  | .pand _ => some { unit := .intLogic, forQ := true, d := .pred, a := 1, aq := 1, b := 1, bq := 1, pa := true, pb := true }
  | .por _ => some { unit := .intLogic, forQ := true, d := .pred, a := 1, aq := 1, b := 1, bq := 1, pa := true, pb := true }
  | .pxor _ => some { unit := .intLogic, forQ := true, d := .pred, a := 1, aq := 1, b := 1, bq := 1, pa := true, pb := true }
  | .pnot _ => some { unit := .intLogic, forQ := true, d := .pred, a := 1, aq := 1, pa := true }
  | .pmov _ => some { unit := .intLogic, forQ := true, d := .pred, a := 7, aq := 7, pa := true, imm := .operand, ok := fun f => (f.a != .imm || immN f < 65536) }
  | .ppopc _ => some { unit := .intLogic, forQ := true, d := .uni, a := 1, aq := 1, pa := true }
  | .ld _ => some { unit := .memory, ch := true, d := .vec, a := 10, b := 9, md := 0x3FFF, imm := .own 0xFFFFFFFF, ok := fun f => memOrd f 0 1 && memBlk f && memFmtReq f }
  | .st _ => some { unit := .memory, ch := true, a := 10, b := 9, c := 11, md := 0x3FFF, imm := .own 0xFFFFFFFF, ok := fun f => memOrd f 0 2 && memBlk f && stFmtOk f }
  | .ldb _ => some { unit := .memory, ch := true, d := .vec4, a := 10, b := 9, md := 0x3FFF, imm := .own 0xFFFFFFFF, ok := fun f => memOrd f 0 1 && memBlk f && memFmtReq f }
  | .stb _ => some { unit := .memory, ch := true, a := 10, b := 9, c := 1, md := 0x3FE0, imm := .own 0xFFFFFFFF, ok := fun f => memOrd f 0 2 && memBlk f && quadC f }
  | .ldu _ => some { unit := .memory, forQ := true, ch := true, d := .uni, a := 10, aq := 10, b := 10, bq := 10, md := 0x3EFF, imm := .own 0xFFFFFFFF, ok := fun f => memOrd f 0 1 && byteFmt f }
  | .stu _ => some { unit := .memory, forQ := true, ch := true, a := 10, aq := 10, b := 10, bq := 10, c := 10, cq := 10, md := 0x3EFF, imm := .own 0xFFFFFFFF, ok := fun f => memOrd f 0 2 && byteFmt f }
  | .ldnf _ => some { unit := .memory, ch := true, d := .vec, e := .pred, a := 10, b := 9, md := 0x1FF, imm := .own 0xFFFFFFFF, ok := fun f => memBlk f && memFmtReq f }
  | .pf _ => some { unit := .memory, ch := true, a := 10, b := 9, imm := .own 0xFFFFFFFF }
  | .cflu _ => some { unit := .memory, ch := true, a := 10, b := 9, md := 0xE00, imm := .own 0xFFFFFFFF, ok := fun f => mdN f 9 3 ≤ 5 }
  | .cinv _ => some { unit := .memory, ch := true, a := 10, b := 9, md := 0xE00, imm := .own 0xFFFFFFFF, ok := fun f => mdN f 9 3 ≤ 5 }
  | .atom _ => some { unit := .memory, ch := true, d := .vec, a := 10, b := 9, c := 11, md := 0x3FEFF, imm := .own 0xFFFFFFFF, ok := fun f => aopFmtOk f && mdN f 9 3 ≤ 5 }
  | .acas _ => some { unit := .memory, ch := true, d := .vec, e := .vec, a := 10, b := 9, c := 11, md := 0x3EFF, imm := .own 0xFFFFFFFF, ok := fun f => casFmtOk f && mdN f 9 3 ≤ 5 }
  | .red _ => some { unit := .memory, ch := true, a := 10, b := 9, c := 11, md := 0x3FEFF, imm := .own 0xFFFFFFFF, ok := fun f => aopFmtOk f && mdN f 9 3 ≤ 5 && !mdB f 12 }
  | .atomu _ => some { unit := .memory, forQ := true, ch := true, d := .uni, a := 10, aq := 10, b := 10, bq := 10, c := 10, cq := 10, md := 0x3FEFF, imm := .own 0xFFFFFFFF, ok := fun f => aopFmtOk f && mdN f 9 3 ≤ 5 }
  | .acasu _ => some { unit := .memory, forQ := true, ch := true, d := .uni, e := .uni, a := 10, aq := 10, b := 10, bq := 10, c := 10, cq := 10, md := 0x3EFF, imm := .own 0xFFFFFFFF, ok := fun f => casFmtOk f && mdN f 9 3 ≤ 5 }
  | .fence _ => some { unit := .memory, forQ := true, md := 0x3E00, ok := fun f => mdN f 9 3 ≤ 5 }
  | .tdef _ => some { unit := .async, forQ := true, d := .tile, a := 10, aq := 10, md := 0x3FFFF, imm := .own 0x7FFFFF, ok := fun f => tdefOk f }
  | .tacq _ => some { unit := .async, forQ := true, d := .tile }
  | .trdy _ => some { unit := .async, forQ := true, d := .tile }
  | .trel _ => some { unit := .async, forQ := true, d := .tile }
  | .tstat _ => some { unit := .async, forQ := true, d := .uni, e := .tile }
  | .acopyIn _ => some { unit := .async, forQ := true, ch := true, d := .tile, e := .uni, a := 10, aq := 10, b := 10, bq := 10, md := 0x3, imm := .own 0xFFFFFFFF, ok := fun f => cntOk f 1 && !mdB f 0 }
  | .acopyOut _ => some { unit := .async, forQ := true, ch := true, d := .tile, e := .uni, a := 10, aq := 10, b := 10, bq := 10, md := 0x3, imm := .own 0xFFFFFFFF, ok := fun f => cntOk f 1 && mdB f 0 }
  | .acopygIn _ => some { unit := .async, forQ := true, ch := true, d := .tile, e := .uni, a := 10, aq := 10, b := 10, bq := 10, md := 0x3, imm := .own 0xFFFFFFFF, ok := fun f => cntOk f 1 && !mdB f 0 }
  | .acopygOut _ => some { unit := .async, forQ := true, ch := true, d := .tile, e := .uni, a := 10, aq := 10, b := 10, bq := 10, md := 0x3, imm := .own 0xFFFFFFFF, ok := fun f => cntOk f 1 && mdB f 0 }
  | .waitz _ => some { unit := .async, forQ := true, a := 2, aq := 2, ok := fun f => ctrSrc f.a }
  | .apf _ => some { unit := .async, ch := true, e := .uni, a := 2, b := 2, c := 2 }
  | .aev _ => some { unit := .async, ch := true, e := .uni, a := 2, b := 2, c := 2 }
  | .shopen _ => some { unit := .async, a := 10, b := 10 }
  | .publ _ => some { unit := .async, a := 10, b := 10, md := 0x7, ok := fun f => mdN f 0 3 ≤ 5 }
  | .kvsum _ => some { unit := .async, d := .uni, a := 10 }
  | .mcfg _ => some { unit := .async, forW := false, forQ := true, md := 0x3FFFF, ok := fun f => mcfgOk f }
  | .mldw _ => some { unit := .async, forW := false, forQ := true, e := .tile, imm := .own 0x1FFFF }
  | .mswap _ => some { unit := .async, forW := false, forQ := true }
  | .mmul _ => some { unit := .async, forW := false, forQ := true, e := .tile, md := 0x1, imm := .own 0x7FFF }
  | .mzero _ => some { unit := .async, forW := false, forQ := true, imm := .own 0xFFFFFFFF, ok := fun f => regionOk f }
  | .mrsum _ => some { unit := .async, forW := false, forQ := true, e := .tile, md := 0x1, imm := .own 0x3FFF }
  | .mcsum _ => some { unit := .async, forW := false, forQ := true, e := .tile, md := 0x1, imm := .own 0x1FFFFFF }
  | .mload _ => some { unit := .async, forW := false, forQ := true, e := .tile, imm := .own 0xFFFFFFFF, ok := fun f => regionOk f }
  | .mdrain _ => some { unit := .async, forW := false, forQ := true, d := .tile, e := .tile, a := 10, aq := 10, b := 10, bq := 10, md := 0x3FF, imm := .own 0xFFFFFFFF, ok := fun f => regionOk f && mdN f 3 3 ≤ 5 && (mdB f 2 || f.e == 0) }
  | .smxi _ => some { unit := .async, forW := false, forQ := true, imm := .own 0x00FE007F, ok := fun f => rowN f + nrN f ≤ 128 }
  | .smxu _ => some { unit := .async, forW := false, forQ := true, d := .tile, e := .tile, md := 0xFFFFF, imm := .own 0xFFFFFFFF, ok := fun f => regionOk f && smxuOk f && (mdB f 18 || f.e == 0) }
  | .smxm _ => some { unit := .async, forW := false, forQ := true, md := 0x1FFFF, imm := .own 0xFFFFFFFF, ok := fun f => regionOk f && smxmOk f }
  | .smxf _ => some { unit := .async, forW := false, forQ := true, d := .tile, md := 0x1, imm := .own 0xFFFFFFFF, ok := fun f => regionOk f }
  | .smxs _ => some { unit := .async, forW := false, forQ := true, a := 10, aq := 10, md := 0x1, imm := .own 0xFFFFFFFF, ok := fun f => regionOk f }
  | .smxl _ => some { unit := .async, forW := false, forQ := true, a := 10, aq := 10, md := 0x1, imm := .own 0xFFFFFFFF, ok := fun f => regionOk f }
  | .attn _ => some { unit := .async, forW := false, forQ := true, d := .tile, e := .tile, a := 2, aq := 2, b := 3, bq := 3, md := 0xF, imm := .own 0xFFFFFFFF, ok := fun f => regionOk f && attnOk f }
  | .conftTop _ => some { unit := .transc, d := .pred, a := 1, b := 1, c := 15, md := 0x1, imm := .operand, ok := fun f => !mdB f 0 }
  | .conftMrg _ => some { unit := .transc, d := .pred, a := 1, b := 1, c := 15, md := 0x1, imm := .operand, ok := fun f => mdB f 0 }
  | .bfq _ => some { unit := .async, forQ := true, a := 2, aq := 2, b := 2, bq := 2, c := 2, cq := 2 }
  | .bar _ => some { unit := .control, forQ := true, md := 0x7, imm := .own 0xF, ok := fun f => barOk f 3, okq := fun f => mdN f 0 3 != 0 }
  | .barm _ => some { unit := .control, forQ := true, md := 0x7, imm := .own 0x00FF000F, ok := fun f => barOk f 1 && barmOk f, okq := fun f => mdN f 0 3 != 0 }
  | .barv _ => some { unit := .control, forQ := true, d := .uni, a := 10, aq := 10, md := 0xF, imm := .own 0xFFFFFFFF, ok := fun f => mdN f 0 3 ≤ 5 }
  | .wait _ => some { unit := .control, forQ := true, a := 10, aq := 10, b := 10, bq := 10, md := 0x7, imm := .own 0xFFFFFFFF, ok := fun f => mdN f 0 3 ≤ 5 }
  | .launch _ => some { unit := .control, forQ := true, d := .uni, a := 10, aq := 10, b := 10, bq := 10, imm := .own 0xFFFFFFFF }
  | .migrate _ => some { unit := .control, a := 10 }
  | .regdon _ => some { unit := .control, a := 10, md := 0x1F, ok := fun f => mdN f 0 5 ≤ 30 }
  | .pgrant _ => some { unit := .control, forW := false, forQ := true, imm := .own 0xFFFF }
  | .trapret _ => some { unit := .control, forW := false, forP := true, d := .uni, a := 2, b := 10, md := 0x3, ok := fun f => mdN f 0 2 == 0 }
  | .trapretSkip _ => some { unit := .control, forW := false, forP := true, d := .uni, a := 2, b := 10, md := 0x3, ok := fun f => mdN f 0 2 == 1 }
  | .trapretKill _ => some { unit := .control, forW := false, forP := true, d := .uni, a := 2, b := 10, md := 0x3, ok := fun f => mdN f 0 2 == 2 }
  | .csrr _ => some { unit := .control, forQ := true, d := .uni, b := 10, bq := 10, imm := .own 0xFFFF, ok := fun f => csrNumOk f }
  | .csrw _ => some { unit := .control, forW := false, forP := true, a := 10, b := 10, imm := .own 0xFFFF, ok := fun f => csrNumOk f && csrWritable f }
  | .tlbinvAddr _ => some { unit := .control, forW := false, forP := true, a := 10, b := 10, md := 0x1F, ok := fun f => mdN f 3 2 == 0 && mdN f 0 3 ≤ 5 }
  | .tlbinvAsid _ => some { unit := .control, forW := false, forP := true, b := 10, md := 0x1F, ok := fun f => mdN f 3 2 == 1 && mdN f 0 3 ≤ 5 }
  | .tlbinvAll _ => some { unit := .control, forW := false, forP := true, md := 0x1F, ok := fun f => mdN f 3 2 == 2 && mdN f 0 3 ≤ 5 }
  | .pgref _ => some { unit := .control, forW := false, forP := true, d := .uni, a := 2, b := 6, md := 0x7, imm := .operand, ok := fun f => mdN f 0 3 ≤ 5 }
  | .ptw _ => some { unit := .control, forW := false, forP := true, d := .uni, a := 2, b := 2, c := 2, md := 0xF, ok := fun f => mdN f 0 3 ≤ 5 }
  | .vsave _ => some { unit := .memory, d := .uni, a := 10, c := 1, md := 0xFF, imm := .own 0xFFFFFFFF }
  | .vrest _ => some { unit := .memory, d := .uni, a := 10, c := 1, md := 0xFF, imm := .own 0xFFFFFFFF }
  | .accsv _ => some { unit := .memory, d := .uni, a := 10, md := 0x1, imm := .own 0xFFFFFFFF, ok := fun f => regionOk f }
  | .accrs _ => some { unit := .memory, d := .uni, a := 10, md := 0x1, imm := .own 0xFFFFFFFF, ok := fun f => regionOk f }
  | .tsv _ => some { unit := .memory, d := .uni, e := .tile, a := 10, md := 0x3F, imm := .own 0xFFFFFFFF, ok := fun f => f.e.toNat + mdN f 0 6 ≤ 63 }
  | .trs _ => some { unit := .memory, d := .uni, e := .tile, a := 10, md := 0x3F, imm := .own 0xFFFFFFFF, ok := fun f => f.e.toNat + mdN f 0 6 ≤ 63 }
  | .pcsv _ => some { unit := .memory, d := .uni, a := 10, imm := .own 0xFFFFFFFF }
  | .pcrs _ => some { unit := .memory, a := 10, imm := .own 0xFFFFFFFF }
  | .lnkq _ => some { unit := .control, forW := false, forP := true, d := .uni, imm := .own 0x7F, ok := fun f => bitsN (immN f) 4 3 ≤ 6 }
  | .halt _ => some { unit := .control, forW := false, forP := true }
  | .delayExpiry _ => none
  | .sleepExpiry _ _ => none
  | .starvationCount _ => none
  | .resultReturn _ _ => none
  | .hoopAge _ _ => none
  | .hoopDraw _ _ => none
  | .swapOut _ => none
  | .swapIn _ => none
  | .migrateLand _ => none
  | .waitRecheck _ => none
  | .copyInLanded _ => none
  | .copyOutAccepted _ => none
  | .capCopyComplete _ => none
  | .matrixComplete _ _ => none
  | .matrixFetchFault _ _ => none
  | .pageWalk _ _ _ _ => none
  | .intake _ => none
  | .lctailAppend _ _ _ => none
  | .lcheadRetry _ _ _ => none
  | .lcheadDropOne _ _ _ => none
  | .lcheadDropAll _ _ _ => none
  | .dispatch _ => none
  | .stagingComplete _ _ => none
  | .launchComplete _ => none
  | .bucketRefill _ => none
  | .preempt _ => none
  | .migratedWarpReturn _ => none
  | .preEmpted _ => none
  | .hardwareSave _ => none
  | .programFaultDelivery _ => none
  | .workgroupFaultEnd _ => none
  | .serviceRingPost _ => none
  | .storeError _ _ => none
  | .powerWindow _ => none
  | .thermalThrottle _ _ => none
  | .pwrctlWrite _ _ => none
  | .flitReceive _ _ _ _ _ => none
  | .nak _ _ _ => none
  | .laneRetire _ _ => none
  | .rateFallback _ => none
  | .lnkctlRetrain _ _ => none
  | .trainingAttempt _ _ => none
  | .hbmTemperature _ _ _ _ => none
  | .hbmWidthChange _ _ _ => none
  | .fabricPacketReceive _ _ _ => none
  | .fabricResend _ _ _ _ => none
  | .readMiss _ _ => none
  | .writeGrant _ _ _ _ => none
  | .injectionOffer _ _ _ => none
  | .l2WriteBack _ _ => none
  | .firstWriteRetry _ => none
  | .amopDiscard _ _ => none
  | .amopPin _ _ => none
  | .amopUnpin _ _ => none
  | .amopLost _ _ => none
  | .dieReset _ => none
  | .snpinv _ _ => none
  | .snpdata _ _ => none
  | .hostRead _ _ _ _ => none
  | .hostWrite _ _ _ _ => none
  | .biasopToDevice _ _ => none
  | .biasopToHost _ _ _ => none
  | .backfillAccept _ => none
  | .batchAge _ => none
  | .batchEmit _ => none
  | .bfcfgWrite _ _ => none
  | .scrubCheck _ => none
  | .alarm _ _ => none
  | .alarmcfgWrite _ _ => none
  | .attcmd _ => none
  | .counterEvent _ _ => none
  | .cntvalWrite _ _ _ => none
  | .bringUp _ => none
  | .registerWrite _ _ _ _ _ => none
  | .fabricPortLinkChange _ _ _ => none
  | .dieLeavesReset _ => none
  | .powerLoss _ => none

/-- The fields of an instruction word; `none` for the other steps of the machine. -/
def fieldsOf : Instr → Option Fields
  | .nop f => some f
  | .bra f => some f
  | .brx f => some f
  | .call f => some f
  | .callx f => some f
  | .ret f => some f
  | .exit f => some f
  | .reform f => some f
  | .yield f => some f
  | .sleep f => some f
  | .trap f => some f
  | .brk f => some f
  | .sadd f => some f
  | .ssub f => some f
  | .smul f => some f
  | .smulh f => some f
  | .sdiv f => some f
  | .srem f => some f
  | .smin f => some f
  | .smax f => some f
  | .sand f => some f
  | .sor f => some f
  | .sxor f => some f
  | .sshl f => some f
  | .sshr f => some f
  | .ssra f => some f
  | .smov f => some f
  | .smovh f => some f
  | .scmp f => some f
  | .ssel f => some f
  | .sbfx f => some f
  | .spopc f => some f
  | .sclz f => some f
  | .vadd f => some f
  | .vsub f => some f
  | .vmul f => some f
  | .vmulh f => some f
  | .vmad f => some f
  | .vmadw f => some f
  | .vdot f => some f
  | .vabsd f => some f
  | .vmin f => some f
  | .vmax f => some f
  | .vabs f => some f
  | .vneg f => some f
  | .vand f => some f
  | .vor f => some f
  | .vxor f => some f
  | .vnot f => some f
  | .vlop3 f => some f
  | .vshl f => some f
  | .vshr f => some f
  | .vsra f => some f
  | .vrotl f => some f
  | .vbfx f => some f
  | .vbfi f => some f
  | .vpopc f => some f
  | .vclz f => some f
  | .vcmp f => some f
  | .vsel f => some f
  | .vmov f => some f
  | .vmovi f => some f
  | .vfadd f => some f
  | .vfsub f => some f
  | .vfmul f => some f
  | .vfma f => some f
  | .vfmin f => some f
  | .vfmax f => some f
  | .vfabs f => some f
  | .vfneg f => some f
  | .vfcmp f => some f
  | .vfclass f => some f
  | .vfscale f => some f
  | .vfrnd f => some f
  | .vfclamp f => some f
  | .vfdot2 f => some f
  | .vcvt f => some f
  | .vtag f => some f
  | .vtagq f => some f
  | .vpack f => some f
  | .vunpack f => some f
  | .vgen f => some f
  | .vbsc f => some f
  | .vexp2 f => some f
  | .vexp f => some f
  | .vlog2 f => some f
  | .vln f => some f
  | .vsin f => some f
  | .vcos f => some f
  | .vatan2 f => some f
  | .vtanh f => some f
  | .vsigm f => some f
  | .vsilu f => some f
  | .vgelu f => some f
  | .vsqrt f => some f
  | .vrsqrt f => some f
  | .vrcp f => some f
  | .vdiv f => some f
  | .vred f => some f
  | .vscan f => some f
  | .vshfl f => some f
  | .vbcast f => some f
  | .vperm f => some f
  | .vrotx f => some f
  | .vvote f => some f
  | .vmatch f => some f
  | .pand f => some f
  | .por f => some f
  | .pxor f => some f
  | .pnot f => some f
  | .pmov f => some f
  | .ppopc f => some f
  | .ld f => some f
  | .st f => some f
  | .ldb f => some f
  | .stb f => some f
  | .ldu f => some f
  | .stu f => some f
  | .ldnf f => some f
  | .pf f => some f
  | .cflu f => some f
  | .cinv f => some f
  | .atom f => some f
  | .acas f => some f
  | .red f => some f
  | .atomu f => some f
  | .acasu f => some f
  | .fence f => some f
  | .tdef f => some f
  | .tacq f => some f
  | .trdy f => some f
  | .trel f => some f
  | .tstat f => some f
  | .acopyIn f => some f
  | .acopyOut f => some f
  | .acopygIn f => some f
  | .acopygOut f => some f
  | .waitz f => some f
  | .apf f => some f
  | .aev f => some f
  | .shopen f => some f
  | .publ f => some f
  | .kvsum f => some f
  | .mcfg f => some f
  | .mldw f => some f
  | .mswap f => some f
  | .mmul f => some f
  | .mzero f => some f
  | .mrsum f => some f
  | .mcsum f => some f
  | .mload f => some f
  | .mdrain f => some f
  | .smxi f => some f
  | .smxu f => some f
  | .smxm f => some f
  | .smxf f => some f
  | .smxs f => some f
  | .smxl f => some f
  | .attn f => some f
  | .conftTop f => some f
  | .conftMrg f => some f
  | .bfq f => some f
  | .bar f => some f
  | .barm f => some f
  | .barv f => some f
  | .wait f => some f
  | .launch f => some f
  | .migrate f => some f
  | .regdon f => some f
  | .pgrant f => some f
  | .trapret f => some f
  | .trapretSkip f => some f
  | .trapretKill f => some f
  | .csrr f => some f
  | .csrw f => some f
  | .tlbinvAddr f => some f
  | .tlbinvAsid f => some f
  | .tlbinvAll f => some f
  | .pgref f => some f
  | .ptw f => some f
  | .vsave f => some f
  | .vrest f => some f
  | .accsv f => some f
  | .accrs f => some f
  | .tsv f => some f
  | .trs f => some f
  | .pcsv f => some f
  | .pcrs f => some f
  | .lnkq f => some f
  | .halt f => some f
  | .delayExpiry _ => none
  | .sleepExpiry _ _ => none
  | .starvationCount _ => none
  | .resultReturn _ _ => none
  | .hoopAge _ _ => none
  | .hoopDraw _ _ => none
  | .swapOut _ => none
  | .swapIn _ => none
  | .migrateLand _ => none
  | .waitRecheck _ => none
  | .copyInLanded _ => none
  | .copyOutAccepted _ => none
  | .capCopyComplete _ => none
  | .matrixComplete _ _ => none
  | .matrixFetchFault _ _ => none
  | .pageWalk _ _ _ _ => none
  | .intake _ => none
  | .lctailAppend _ _ _ => none
  | .lcheadRetry _ _ _ => none
  | .lcheadDropOne _ _ _ => none
  | .lcheadDropAll _ _ _ => none
  | .dispatch _ => none
  | .stagingComplete _ _ => none
  | .launchComplete _ => none
  | .bucketRefill _ => none
  | .preempt _ => none
  | .migratedWarpReturn _ => none
  | .preEmpted _ => none
  | .hardwareSave _ => none
  | .programFaultDelivery _ => none
  | .workgroupFaultEnd _ => none
  | .serviceRingPost _ => none
  | .storeError _ _ => none
  | .powerWindow _ => none
  | .thermalThrottle _ _ => none
  | .pwrctlWrite _ _ => none
  | .flitReceive _ _ _ _ _ => none
  | .nak _ _ _ => none
  | .laneRetire _ _ => none
  | .rateFallback _ => none
  | .lnkctlRetrain _ _ => none
  | .trainingAttempt _ _ => none
  | .hbmTemperature _ _ _ _ => none
  | .hbmWidthChange _ _ _ => none
  | .fabricPacketReceive _ _ _ => none
  | .fabricResend _ _ _ _ => none
  | .readMiss _ _ => none
  | .writeGrant _ _ _ _ => none
  | .injectionOffer _ _ _ => none
  | .l2WriteBack _ _ => none
  | .firstWriteRetry _ => none
  | .amopDiscard _ _ => none
  | .amopPin _ _ => none
  | .amopUnpin _ _ => none
  | .amopLost _ _ => none
  | .dieReset _ => none
  | .snpinv _ _ => none
  | .snpdata _ _ => none
  | .hostRead _ _ _ _ => none
  | .hostWrite _ _ _ _ => none
  | .biasopToDevice _ _ => none
  | .biasopToHost _ _ _ => none
  | .backfillAccept _ => none
  | .batchAge _ => none
  | .batchEmit _ => none
  | .bfcfgWrite _ _ => none
  | .scrubCheck _ => none
  | .alarm _ _ => none
  | .alarmcfgWrite _ _ => none
  | .attcmd _ => none
  | .counterEvent _ _ => none
  | .cntvalWrite _ _ _ => none
  | .bringUp _ => none
  | .registerWrite _ _ _ _ _ => none
  | .fabricPortLinkChange _ _ _ => none
  | .dieLeavesReset _ => none
  | .powerLoss _ => none

/-- The opcode of an instruction word (R66); 0x7FF, an unused opcode, for the other steps. -/
def opcodeOf : Instr → Nat
  | .nop _ => 0x000
  | .bra _ => 0x001
  | .brx _ => 0x002
  | .call _ => 0x003
  | .callx _ => 0x004
  | .ret _ => 0x005
  | .exit _ => 0x006
  | .reform _ => 0x007
  | .yield _ => 0x008
  | .sleep _ => 0x009
  | .trap _ => 0x00A
  | .brk _ => 0x00B
  | .sadd _ => 0x080
  | .ssub _ => 0x081
  | .smul _ => 0x082
  | .smulh _ => 0x083
  | .sdiv _ => 0x084
  | .srem _ => 0x085
  | .smin _ => 0x086
  | .smax _ => 0x087
  | .sand _ => 0x088
  | .sor _ => 0x089
  | .sxor _ => 0x08A
  | .sshl _ => 0x08B
  | .sshr _ => 0x08C
  | .ssra _ => 0x08D
  | .smov _ => 0x08E
  | .smovh _ => 0x08F
  | .scmp _ => 0x090
  | .ssel _ => 0x091
  | .sbfx _ => 0x092
  | .spopc _ => 0x093
  | .sclz _ => 0x094
  | .vadd _ => 0x100
  | .vsub _ => 0x101
  | .vmul _ => 0x102
  | .vmulh _ => 0x103
  | .vmad _ => 0x104
  | .vmadw _ => 0x105
  | .vdot _ => 0x106
  | .vabsd _ => 0x107
  | .vmin _ => 0x108
  | .vmax _ => 0x109
  | .vabs _ => 0x10A
  | .vneg _ => 0x10B
  | .vand _ => 0x180
  | .vor _ => 0x181
  | .vxor _ => 0x182
  | .vnot _ => 0x183
  | .vlop3 _ => 0x184
  | .vshl _ => 0x185
  | .vshr _ => 0x186
  | .vsra _ => 0x187
  | .vrotl _ => 0x188
  | .vbfx _ => 0x189
  | .vbfi _ => 0x18A
  | .vpopc _ => 0x18B
  | .vclz _ => 0x18C
  | .vcmp _ => 0x18D
  | .vsel _ => 0x18E
  | .vmov _ => 0x18F
  | .vmovi _ => 0x190
  | .vfadd _ => 0x200
  | .vfsub _ => 0x201
  | .vfmul _ => 0x202
  | .vfma _ => 0x203
  | .vfmin _ => 0x204
  | .vfmax _ => 0x205
  | .vfabs _ => 0x206
  | .vfneg _ => 0x207
  | .vfcmp _ => 0x208
  | .vfclass _ => 0x209
  | .vfscale _ => 0x20A
  | .vfrnd _ => 0x20B
  | .vfclamp _ => 0x20C
  | .vfdot2 _ => 0x20D
  | .vcvt _ => 0x280
  | .vtag _ => 0x281
  | .vtagq _ => 0x282
  | .vpack _ => 0x283
  | .vunpack _ => 0x284
  | .vgen _ => 0x285
  | .vbsc _ => 0x286
  | .vexp2 _ => 0x300
  | .vexp _ => 0x301
  | .vlog2 _ => 0x302
  | .vln _ => 0x303
  | .vsin _ => 0x304
  | .vcos _ => 0x305
  | .vatan2 _ => 0x306
  | .vtanh _ => 0x307
  | .vsigm _ => 0x308
  | .vsilu _ => 0x309
  | .vgelu _ => 0x30A
  | .vsqrt _ => 0x30B
  | .vrsqrt _ => 0x30C
  | .vrcp _ => 0x30D
  | .vdiv _ => 0x30E
  | .vred _ => 0x340
  | .vscan _ => 0x341
  | .vshfl _ => 0x380
  | .vbcast _ => 0x381
  | .vperm _ => 0x382
  | .vrotx _ => 0x383
  | .vvote _ => 0x384
  | .vmatch _ => 0x385
  | .pand _ => 0x386
  | .por _ => 0x387
  | .pxor _ => 0x388
  | .pnot _ => 0x389
  | .pmov _ => 0x38A
  | .ppopc _ => 0x38B
  | .ld _ => 0x400
  | .st _ => 0x401
  | .ldb _ => 0x402
  | .stb _ => 0x403
  | .ldu _ => 0x404
  | .stu _ => 0x405
  | .ldnf _ => 0x406
  | .pf _ => 0x407
  | .cflu _ => 0x408
  | .cinv _ => 0x409
  | .atom _ => 0x480
  | .acas _ => 0x481
  | .red _ => 0x482
  | .atomu _ => 0x483
  | .acasu _ => 0x484
  | .fence _ => 0x485
  | .tdef _ => 0x500
  | .tacq _ => 0x501
  | .trdy _ => 0x502
  | .trel _ => 0x503
  | .tstat _ => 0x504
  | .acopyIn _ => 0x505
  | .acopyOut _ => 0x505
  | .acopygIn _ => 0x506
  | .acopygOut _ => 0x506
  | .waitz _ => 0x507
  | .apf _ => 0x508
  | .aev _ => 0x509
  | .shopen _ => 0x50A
  | .publ _ => 0x50B
  | .kvsum _ => 0x50C
  | .mcfg _ => 0x580
  | .mldw _ => 0x581
  | .mswap _ => 0x582
  | .mmul _ => 0x583
  | .mzero _ => 0x584
  | .mrsum _ => 0x585
  | .mcsum _ => 0x586
  | .mload _ => 0x587
  | .mdrain _ => 0x588
  | .smxi _ => 0x600
  | .smxu _ => 0x601
  | .smxm _ => 0x602
  | .smxf _ => 0x603
  | .smxs _ => 0x604
  | .smxl _ => 0x605
  | .attn _ => 0x606
  | .conftTop _ => 0x607
  | .conftMrg _ => 0x607
  | .bfq _ => 0x608
  | .bar _ => 0x680
  | .barm _ => 0x681
  | .barv _ => 0x682
  | .wait _ => 0x683
  | .launch _ => 0x684
  | .migrate _ => 0x685
  | .regdon _ => 0x686
  | .pgrant _ => 0x687
  | .trapret _ => 0x700
  | .trapretSkip _ => 0x700
  | .trapretKill _ => 0x700
  | .csrr _ => 0x701
  | .csrw _ => 0x702
  | .tlbinvAddr _ => 0x703
  | .tlbinvAsid _ => 0x703
  | .tlbinvAll _ => 0x703
  | .pgref _ => 0x704
  | .ptw _ => 0x705
  | .vsave _ => 0x706
  | .vrest _ => 0x707
  | .accsv _ => 0x708
  | .accrs _ => 0x709
  | .tsv _ => 0x70A
  | .trs _ => 0x70B
  | .pcsv _ => 0x70C
  | .pcrs _ => 0x70D
  | .lnkq _ => 0x70E
  | .halt _ => 0x70F
  | .delayExpiry _ => 0x7FF
  | .sleepExpiry _ _ => 0x7FF
  | .starvationCount _ => 0x7FF
  | .resultReturn _ _ => 0x7FF
  | .hoopAge _ _ => 0x7FF
  | .hoopDraw _ _ => 0x7FF
  | .swapOut _ => 0x7FF
  | .swapIn _ => 0x7FF
  | .migrateLand _ => 0x7FF
  | .waitRecheck _ => 0x7FF
  | .copyInLanded _ => 0x7FF
  | .copyOutAccepted _ => 0x7FF
  | .capCopyComplete _ => 0x7FF
  | .matrixComplete _ _ => 0x7FF
  | .matrixFetchFault _ _ => 0x7FF
  | .pageWalk _ _ _ _ => 0x7FF
  | .intake _ => 0x7FF
  | .lctailAppend _ _ _ => 0x7FF
  | .lcheadRetry _ _ _ => 0x7FF
  | .lcheadDropOne _ _ _ => 0x7FF
  | .lcheadDropAll _ _ _ => 0x7FF
  | .dispatch _ => 0x7FF
  | .stagingComplete _ _ => 0x7FF
  | .launchComplete _ => 0x7FF
  | .bucketRefill _ => 0x7FF
  | .preempt _ => 0x7FF
  | .migratedWarpReturn _ => 0x7FF
  | .preEmpted _ => 0x7FF
  | .hardwareSave _ => 0x7FF
  | .programFaultDelivery _ => 0x7FF
  | .workgroupFaultEnd _ => 0x7FF
  | .serviceRingPost _ => 0x7FF
  | .storeError _ _ => 0x7FF
  | .powerWindow _ => 0x7FF
  | .thermalThrottle _ _ => 0x7FF
  | .pwrctlWrite _ _ => 0x7FF
  | .flitReceive _ _ _ _ _ => 0x7FF
  | .nak _ _ _ => 0x7FF
  | .laneRetire _ _ => 0x7FF
  | .rateFallback _ => 0x7FF
  | .lnkctlRetrain _ _ => 0x7FF
  | .trainingAttempt _ _ => 0x7FF
  | .hbmTemperature _ _ _ _ => 0x7FF
  | .hbmWidthChange _ _ _ => 0x7FF
  | .fabricPacketReceive _ _ _ => 0x7FF
  | .fabricResend _ _ _ _ => 0x7FF
  | .readMiss _ _ => 0x7FF
  | .writeGrant _ _ _ _ => 0x7FF
  | .injectionOffer _ _ _ => 0x7FF
  | .l2WriteBack _ _ => 0x7FF
  | .firstWriteRetry _ => 0x7FF
  | .amopDiscard _ _ => 0x7FF
  | .amopPin _ _ => 0x7FF
  | .amopUnpin _ _ => 0x7FF
  | .amopLost _ _ => 0x7FF
  | .dieReset _ => 0x7FF
  | .snpinv _ _ => 0x7FF
  | .snpdata _ _ => 0x7FF
  | .hostRead _ _ _ _ => 0x7FF
  | .hostWrite _ _ _ _ => 0x7FF
  | .biasopToDevice _ _ => 0x7FF
  | .biasopToHost _ _ _ => 0x7FF
  | .backfillAccept _ => 0x7FF
  | .batchAge _ => 0x7FF
  | .batchEmit _ => 0x7FF
  | .bfcfgWrite _ _ => 0x7FF
  | .scrubCheck _ => 0x7FF
  | .alarm _ _ => 0x7FF
  | .alarmcfgWrite _ _ => 0x7FF
  | .attcmd _ => 0x7FF
  | .counterEvent _ _ => 0x7FF
  | .cntvalWrite _ _ _ => 0x7FF
  | .bringUp _ => 0x7FF
  | .registerWrite _ _ _ _ _ => 0x7FF
  | .fabricPortLinkChange _ _ _ => 0x7FF
  | .dieLeavesReset _ => 0x7FF
  | .powerLoss _ => 0x7FF

/-- Whether a source fits the classes of `mask`; unused positions hold zero (R49, R52). -/
def srcOk (mask : Nat) (isPred : Bool) (s : Src) : Bool :=
  match s with
  | .v n => if mask == 0 then n == 0 else mask % 2 == 1 && (!isPred || n.toNat < 8)
  | .u _ => mask / 2 % 2 == 1
  | .imm => mask / 4 % 2 == 1
  | .sp _ => mask / 8 % 2 == 1

/-- Whether D or E holds a number of its class (R52). -/
def regOk (k : RegK) (isSeq : Bool) (n : BitVec 8) : Bool :=
  match k with
  | .unused => n == 0
  | .vec => true
  | .vec4 => n.toNat % 4 == 0
  | .uni => n.toNat < 64
  | .pred => n.toNat < 8
  | .tile => n.toNat < 64
  | .link => !isSeq || n.toNat < 64

def isVec (mask : Nat) (isPred : Bool) (s : Src) : Bool :=
  match s with
  | .v _ => mask != 0 && !isPred
  | _ => false

/-- Whether some operand position of the entry holds a vector register. -/
def hasVec (sp : OpSpec) (f : Fields) : Bool :=
  isVec sp.a sp.pa f.a || isVec sp.b sp.pb f.b || isVec sp.c false f.c

/-- MOD: no bit outside the entry's fields, and FMT by R97 and R98. -/
def modOk (sp : OpSpec) (f : Fields) : Bool :=
  let fm := mdN f 5 5
  match sp.fmt with
  | .unused => (f.md.toNat &&& sp.md) == f.md.toNat
  | .ifNoVec => (f.md.toNat &&& (sp.md ||| 0x3E0)) == f.md.toNat && (if hasVec sp f then fm == 0 else fmtCodeOk fm)
  | .listed => (f.md.toNat &&& (sp.md ||| 0x3E0)) == f.md.toNat && (if hasVec sp f then fm < 0x14 else fmtCodeOk fm)
  | .required => (f.md.toNat &&& (sp.md ||| 0x3E0)) == f.md.toNat && fmtCodeOk fm

/-- IMM by R50. -/
def immOk (sp : OpSpec) (f : Fields) : Bool :=
  match sp.imm with
  | .unused => f.imm == 0
  | .operand => isImm f.a || isImm f.b || isImm f.c || f.imm == 0
  | .own mask => (immN f &&& mask) == immN f

/-- `%lane` and `%tid` are not uniform: group 0x1 refuses them in a warp (R89). -/
def uniSpecialOk (op : Nat) (f : Fields) : Bool :=
  op / 128 != 1 ||
    !([f.a, f.b, f.c].any fun s => match s with | .sp c => c == 1 || c == 3 | _ => false)

/-- Checks 2 and 3 of R67 on the word alone, for a vector warp or for a quad sequencer. -/
def wfFor (isSeq : Bool) (i : Instr) : Bool :=
  match opSpec i, fieldsOf i with
  | some sp, some f =>
    (if isSeq then sp.forQ else sp.forW || sp.forP) && (sp.ch || f.ch == 0)
      && regOk sp.d isSeq f.d && regOk sp.e isSeq f.e
      && srcOk (if isSeq then sp.aq else sp.a) sp.pa f.a && srcOk (if isSeq then sp.bq else sp.b) sp.pb f.b
      && srcOk (if isSeq then sp.cq else sp.c) false f.c
      && modOk sp f && immOk sp f && sp.ok f && (!isSeq || sp.okq f)
      && (isSeq || uniSpecialOk (opcodeOf i) f)
  | _, _ => false

/-- A word that some agent of the machine may issue. -/
def wf (i : Instr) : Bool := wfFor false i || wfFor true i

end Sys2Proof
end

