-- ==== Sys2Proof/Decode.lean ====
section
/-! DEFINITION. Decoding and encoding of the 128-bit instruction word (R44-R49, R66). -/
namespace Sys2Proof

/-- Why a word is no instruction (R67): each raises ILLOP. -/
inductive DecodeError where
  | opcode       -- group 0xF, an unused opcode, or a MOD selector no row of the table has
  | operand      -- an operand field that its class does not allow (R49)
  | encoding     -- a reserved bit or a field value that the entry's table makes a fault
  deriving DecidableEq, Repr

/-- The digits of a number for a list of widths, the lowest first. -/
def digits : List Nat → Nat → List Nat
  | [], _ => []
  | w :: ws, x => x % 2 ^ w :: digits ws (x / 2 ^ w)

/-- The number with the given digits: the inverse of `digits`. -/
def undigits : List Nat → List Nat → Nat
  | w :: ws, d :: ds => d + 2 ^ w * undigits ws ds
  | _, _ => 0

/-- The widths of the word's fields from bit 0 up (R44): OP; GA index, negate; GB index, negate; SW; DLY; CH; D; A; B; C;
E; CLS.A; CLS.B; CLS.C; MOD; IMM. -/
def fieldWidths : List Nat := [11, 3, 1, 3, 1, 1, 3, 2, 8, 8, 8, 8, 8, 2, 2, 2, 25, 32]

/-- An operand field under its class (R49). -/
def decodeSrc (cls field : Nat) : Option Src :=
  match cls with
  | 0 => some (.v (BitVec.ofNat 8 field))
  | 1 => if field < 64 then some (.u (BitVec.ofNat 6 field)) else none
  | 2 => if field = 0 then some .imm else none
  | _ => if field < 16 then some (.sp (BitVec.ofNat 4 field)) else none

def srcClass : Src → Nat
  | .v _ => 0
  | .u _ => 1
  | .imm => 2
  | .sp _ => 3

def srcField : Src → Nat
  | .v n => n.toNat
  | .u n => n.toNat
  | .imm => 0
  | .sp c => c.toNat

/-- The instruction of an opcode (R66); where MOD selects between rows of the table, by that selector. -/
def mkInstr (op : Nat) (f : Fields) : Option Instr :=
  match op with
  | 0x000 => some (.nop f)
  | 0x001 => some (.bra f)
  | 0x002 => some (.brx f)
  | 0x003 => some (.call f)
  | 0x004 => some (.callx f)
  | 0x005 => some (.ret f)
  | 0x006 => some (.exit f)
  | 0x007 => some (.reform f)
  | 0x008 => some (.yield f)
  | 0x009 => some (.sleep f)
  | 0x00A => some (.trap f)
  | 0x00B => some (.brk f)
  | 0x080 => some (.sadd f)
  | 0x081 => some (.ssub f)
  | 0x082 => some (.smul f)
  | 0x083 => some (.smulh f)
  | 0x084 => some (.sdiv f)
  | 0x085 => some (.srem f)
  | 0x086 => some (.smin f)
  | 0x087 => some (.smax f)
  | 0x088 => some (.sand f)
  | 0x089 => some (.sor f)
  | 0x08A => some (.sxor f)
  | 0x08B => some (.sshl f)
  | 0x08C => some (.sshr f)
  | 0x08D => some (.ssra f)
  | 0x08E => some (.smov f)
  | 0x08F => some (.smovh f)
  | 0x090 => some (.scmp f)
  | 0x091 => some (.ssel f)
  | 0x092 => some (.sbfx f)
  | 0x093 => some (.spopc f)
  | 0x094 => some (.sclz f)
  | 0x100 => some (.vadd f)
  | 0x101 => some (.vsub f)
  | 0x102 => some (.vmul f)
  | 0x103 => some (.vmulh f)
  | 0x104 => some (.vmad f)
  | 0x105 => some (.vmadw f)
  | 0x106 => some (.vdot f)
  | 0x107 => some (.vabsd f)
  | 0x108 => some (.vmin f)
  | 0x109 => some (.vmax f)
  | 0x10A => some (.vabs f)
  | 0x10B => some (.vneg f)
  | 0x180 => some (.vand f)
  | 0x181 => some (.vor f)
  | 0x182 => some (.vxor f)
  | 0x183 => some (.vnot f)
  | 0x184 => some (.vlop3 f)
  | 0x185 => some (.vshl f)
  | 0x186 => some (.vshr f)
  | 0x187 => some (.vsra f)
  | 0x188 => some (.vrotl f)
  | 0x189 => some (.vbfx f)
  | 0x18A => some (.vbfi f)
  | 0x18B => some (.vpopc f)
  | 0x18C => some (.vclz f)
  | 0x18D => some (.vcmp f)
  | 0x18E => some (.vsel f)
  | 0x18F => some (.vmov f)
  | 0x190 => some (.vmovi f)
  | 0x200 => some (.vfadd f)
  | 0x201 => some (.vfsub f)
  | 0x202 => some (.vfmul f)
  | 0x203 => some (.vfma f)
  | 0x204 => some (.vfmin f)
  | 0x205 => some (.vfmax f)
  | 0x206 => some (.vfabs f)
  | 0x207 => some (.vfneg f)
  | 0x208 => some (.vfcmp f)
  | 0x209 => some (.vfclass f)
  | 0x20A => some (.vfscale f)
  | 0x20B => some (.vfrnd f)
  | 0x20C => some (.vfclamp f)
  | 0x20D => some (.vfdot2 f)
  | 0x280 => some (.vcvt f)
  | 0x281 => some (.vtag f)
  | 0x282 => some (.vtagq f)
  | 0x283 => some (.vpack f)
  | 0x284 => some (.vunpack f)
  | 0x285 => some (.vgen f)
  | 0x286 => some (.vbsc f)
  | 0x300 => some (.vexp2 f)
  | 0x301 => some (.vexp f)
  | 0x302 => some (.vlog2 f)
  | 0x303 => some (.vln f)
  | 0x304 => some (.vsin f)
  | 0x305 => some (.vcos f)
  | 0x306 => some (.vatan2 f)
  | 0x307 => some (.vtanh f)
  | 0x308 => some (.vsigm f)
  | 0x309 => some (.vsilu f)
  | 0x30A => some (.vgelu f)
  | 0x30B => some (.vsqrt f)
  | 0x30C => some (.vrsqrt f)
  | 0x30D => some (.vrcp f)
  | 0x30E => some (.vdiv f)
  | 0x340 => some (.vred f)
  | 0x341 => some (.vscan f)
  | 0x380 => some (.vshfl f)
  | 0x381 => some (.vbcast f)
  | 0x382 => some (.vperm f)
  | 0x383 => some (.vrotx f)
  | 0x384 => some (.vvote f)
  | 0x385 => some (.vmatch f)
  | 0x386 => some (.pand f)
  | 0x387 => some (.por f)
  | 0x388 => some (.pxor f)
  | 0x389 => some (.pnot f)
  | 0x38A => some (.pmov f)
  | 0x38B => some (.ppopc f)
  | 0x400 => some (.ld f)
  | 0x401 => some (.st f)
  | 0x402 => some (.ldb f)
  | 0x403 => some (.stb f)
  | 0x404 => some (.ldu f)
  | 0x405 => some (.stu f)
  | 0x406 => some (.ldnf f)
  | 0x407 => some (.pf f)
  | 0x408 => some (.cflu f)
  | 0x409 => some (.cinv f)
  | 0x480 => some (.atom f)
  | 0x481 => some (.acas f)
  | 0x482 => some (.red f)
  | 0x483 => some (.atomu f)
  | 0x484 => some (.acasu f)
  | 0x485 => some (.fence f)
  | 0x500 => some (.tdef f)
  | 0x501 => some (.tacq f)
  | 0x502 => some (.trdy f)
  | 0x503 => some (.trel f)
  | 0x504 => some (.tstat f)
  | 0x505 => if mdB f 0 then some (.acopyOut f) else some (.acopyIn f)
  | 0x506 => if mdB f 0 then some (.acopygOut f) else some (.acopygIn f)
  | 0x507 => some (.waitz f)
  | 0x508 => some (.apf f)
  | 0x509 => some (.aev f)
  | 0x50A => some (.shopen f)
  | 0x50B => some (.publ f)
  | 0x50C => some (.kvsum f)
  | 0x580 => some (.mcfg f)
  | 0x581 => some (.mldw f)
  | 0x582 => some (.mswap f)
  | 0x583 => some (.mmul f)
  | 0x584 => some (.mzero f)
  | 0x585 => some (.mrsum f)
  | 0x586 => some (.mcsum f)
  | 0x587 => some (.mload f)
  | 0x588 => some (.mdrain f)
  | 0x600 => some (.smxi f)
  | 0x601 => some (.smxu f)
  | 0x602 => some (.smxm f)
  | 0x603 => some (.smxf f)
  | 0x604 => some (.smxs f)
  | 0x605 => some (.smxl f)
  | 0x606 => some (.attn f)
  | 0x607 => if mdB f 0 then some (.conftMrg f) else some (.conftTop f)
  | 0x608 => some (.bfq f)
  | 0x680 => some (.bar f)
  | 0x681 => some (.barm f)
  | 0x682 => some (.barv f)
  | 0x683 => some (.wait f)
  | 0x684 => some (.launch f)
  | 0x685 => some (.migrate f)
  | 0x686 => some (.regdon f)
  | 0x687 => some (.pgrant f)
  | 0x700 => if mdN f 0 2 = 0 then some (.trapret f) else if mdN f 0 2 = 1 then some (.trapretSkip f)
      else if mdN f 0 2 = 2 then some (.trapretKill f) else none
  | 0x701 => some (.csrr f)
  | 0x702 => some (.csrw f)
  | 0x703 => if mdN f 3 2 = 0 then some (.tlbinvAddr f) else if mdN f 3 2 = 1 then some (.tlbinvAsid f)
      else if mdN f 3 2 = 2 then some (.tlbinvAll f) else none
  | 0x704 => some (.pgref f)
  | 0x705 => some (.ptw f)
  | 0x706 => some (.vsave f)
  | 0x707 => some (.vrest f)
  | 0x708 => some (.accsv f)
  | 0x709 => some (.accrs f)
  | 0x70A => some (.tsv f)
  | 0x70B => some (.trs f)
  | 0x70C => some (.pcsv f)
  | 0x70D => some (.pcrs f)
  | 0x70E => some (.lnkq f)
  | 0x70F => some (.halt f)
  | _ => none

/-- The fields of a word, or `none` where an operand field is out of its class's range. -/
def unpack (w : Nat) : Option (Nat × Fields) :=
  match digits fieldWidths w with
  | [op, gai, gan, gbi, gbn, sw, dly, ch, d, a, b, c, e, ca, cb, cc, md, imm] =>
    match decodeSrc ca a, decodeSrc cb b, decodeSrc cc c with
    | some sa, some sb, some sc =>
      some (op, { ga := ⟨gan == 1, BitVec.ofNat 3 gai⟩, gb := ⟨gbn == 1, BitVec.ofNat 3 gbi⟩, sw := sw == 1,
                  dly := BitVec.ofNat 3 dly, ch := BitVec.ofNat 2 ch, d := BitVec.ofNat 8 d, a := sa, b := sb, c := sc,
                  e := BitVec.ofNat 8 e, md := BitVec.ofNat 25 md, imm := BitVec.ofNat 32 imm })
    | _, _, _ => none
  | _ => none

/-- The word of an opcode and fields (R44). -/
def pack (op : Nat) (f : Fields) : Nat :=
  undigits fieldWidths [op, f.ga.idx.toNat, f.ga.neg.toNat, f.gb.idx.toNat, f.gb.neg.toNat, f.sw.toNat, f.dly.toNat,
    f.ch.toNat, f.d.toNat, srcField f.a, srcField f.b, srcField f.c, f.e.toNat, srcClass f.a, srcClass f.b,
    srcClass f.c, f.md.toNat, f.imm.toNat]

/-- Decoding of a word (R67, checks 1 to 3 as far as no issuer is known): total, refusing by name. -/
def decode (w : BitVec 128) : Except DecodeError Instr :=
  match unpack w.toNat with
  | none => .error .operand
  | some (op, f) =>
    match mkInstr op f with
    | none => .error .opcode
    | some i => if wf i then .ok i else .error .encoding

/-- The word of a well-formed instruction; `none` for the steps that are no instruction words. -/
def encode (i : Instr) : Option (BitVec 128) :=
  match fieldsOf i with
  | some f => if wf i then some (BitVec.ofNat 128 (pack (opcodeOf i) f)) else none
  | none => none

/-- The 16 bytes of a word, lowest address first (R45). -/
def wordBytes (w : BitVec 128) : List Byte := (List.range 16).map fun k => w.extractLsb' (8 * k) 8

/-- The word of 16 bytes, lowest address first (R45). -/
def bytesWord (bs : List Byte) : BitVec 128 :=
  BitVec.ofNat 128 (undigits (List.replicate 16 8) (bs.map BitVec.toNat))

/-- The instruction this decoder reads from a word whose bits are `w`: its 16 bytes laid out as memory holds them (R45)
and read back. -/
def decodeTableWord (_nbits w : Nat) : Option Instr :=
  match decode (bytesWord (wordBytes (BitVec.ofNat 128 w))) with
  | .ok i => some i
  | .error _ => none

end Sys2Proof
end

