-- ==== Sys2Proof/Machine/State.lean ====
section
/-! DEFINITION. The state of a KH7 pod: plain data, holding every piece of state that the spec names.
Packages, dies, cores, quads and links are numbered; a component that no entry lists is as reset leaves it.
Numbering: a core is `pkg * 256 + 32 * die + core` (R272), a die `pkg * 8 + die`, a quad `pkg * 64 + 8 * die + quad`,
a link `pkg * 16 + n` (R222). -/
namespace Sys2Proof.Machine

/-- Why a step stops with a fault of the model (not of the machine: the KH7's own faults are next states). -/
inductive Fault where
  /-- `exec` was asked to run an instruction word while no agent of the machine is issuing. Raised by every meaning of an
  instruction; `step` never raises it, because it sets the issuing agent first. Safe: nothing is claimed of such a state. -/
  | noIssuer
  deriving DecidableEq, Repr

/-- Why a step is refused. -/
inductive Refusal where
  /-- The instruction has no meaning in this model. Raised by no arm. Safe. -/
  | notModelled (mnemonic : String)
  deriving DecidableEq, Repr

/-- Shape tag of a vector register (R61), with the stride of an affine one (R249). -/
inductive Shape where
  | general
  | uniform
  | affine (t : BitVec 32)
  deriving DecidableEq, Repr

/-- A vector register: format tag (R59), shape (R61) and 64 bits in each of 32 lanes (R53). -/
structure VReg where
  tag : BitVec 5
  shape : Shape
  lanes : List Word
  deriving DecidableEq, Repr

/-- What holds a lane in HOLD (R240). -/
inductive Hold where
  | bar (scope id : Nat)   -- at a `bar` or `barm` of this scope and ID (R211)
  | sleep (stop : Nat)     -- R87: until this cycle of the warp's `clk`; the counter is already past the `sleep`
  | wait (key phase : Nat)  -- at a `wait`, on the object at this memory key, for the end of this phase (R214)
  | waitz                  -- R177
  | regdon                 -- R218
  | migrate                -- R217
  | reform                 -- R85, R253
  | tile                   -- a tile not in the state it needs (R169)
  | bucket                 -- an empty token bucket (R276)
  | counter                -- a bound completion counter not zero (R56)
  | room (pkg set mark : Nat)  -- a first write that finds no way (R363): the set, and its count of tag changes
  | copies                 -- `tlbinv` and `ptw` while a copy that uses the translation runs on (R176, R226)
  | queue                  -- a full request queue (R208) or chain (R264)
  | interlock              -- a matrix instruction that shares state with one executing (R187)
  | grant                  -- `pgrant` waiting for its grants (R219)
  | reset                  -- an access to a set of a die that is in reset (R370)
  deriving DecidableEq, Repr

/-- State of a lane (R240). PARK holds the fault code, the TCODE of R88 and the handle of the posting (0: none). -/
inductive LaneSt where
  | run
  | hold (why : Hold)
  | park (code : Nat) (tcode : BitVec 16) (handle : Nat)
  | exited
  deriving DecidableEq, Repr

/-- A delivery record (R437): the saved counter with bit 0 as PARKED, FCODE and TCODE. -/
structure Delivery where
  counter : Word
  fcode : BitVec 8
  tcode : BitVec 16
  deriving DecidableEq, Repr

/-- A lane of a warp, or the one lane of a sequencer. -/
structure Lane where
  pc : Word
  st : LaneSt
  tid : BitVec 16
  delivery : Option Delivery
  deriving DecidableEq, Repr

/-- One register write of a result that has not returned (R244): bits `mask` of each lane take `val`. -/
inductive RegWrite where
  | v (n : Nat) (mask val : List Word) (tag : BitVec 5) (shape : Shape)
  | u (n : Nat) (val : Word)
  | q (n : Nat) (mask val : List PBits)
  deriving DecidableEq, Repr

/-- A register as a fixed-latency write found it (R245). -/
inductive OldReg where
  | v (n : Nat) (r : VReg)
  | u (n : Nat) (x : Word)
  | q (n : Nat) (x : List PBits)
  | flags (x : BitVec 5)        -- float flags that a read of FSTAT may still miss (R29)
  deriving DecidableEq, Repr

/-- What becomes of an outstanding register write when its result returns (R246). -/
inductive Fate where
  | sure                        -- it takes effect
  | contested                   -- a later write was not ordered after it: the register ends with either value
  | lost                        -- it collided with a write of the same cycle, whose value the register ends with
  | over (old : OldReg)         -- it collided likewise, and the register ends with its value, over what was there before both
  deriving DecidableEq, Repr

/-- A tile table entry (R281) with its four flag arrays. -/
structure Tile where
  defd : Bool
  state : BitVec 2              -- 0 EMPTY, 1 FILLING, 2 READY, 3 DRAINING
  psn : Bool
  scl : Bool
  sct : BitVec 6
  swz : BitVec 3
  fmt : BitVec 5
  core : BitVec 2
  rowb : BitVec 8               -- row bytes / 32 - 1
  pitch : BitVec 8              -- pitch / 32 - 1
  rows : BitVec 8               -- rows - 1
  base : BitVec 12              -- scratchpad offset / 256
  nanRow : BitVec 256
  infRow : BitVec 256
  nanCol : BitVec 256
  infCol : BitVec 256
  deriving DecidableEq, Repr

/-- A change of a tile table entry (R237). -/
inductive TileAct where
  | define (t : Tile)
  | enter (st : BitVec 2)
  deriving DecidableEq, Repr

/-- A variable-latency result outstanding for a warp (R244): the cycle of its issue on the warp's `clk`, its writes, each with
its fate (R246), the float flags it raises when it returns (R30), and the change that it makes to a tile table entry (R237). -/
structure Flight where
  id : Nat
  born : Nat
  writes : List (RegWrite × Fate)
  flags : BitVec 5
  tile : Option (Nat × TileAct)
  deriving DecidableEq, Repr

/-- A write that some reader may still read early (R245): reads are ordered from cycle `due` on. The result of a
variable-latency producer that no switch marker has ordered has the due cycle `Recent.never`. -/
structure Recent where
  due : Nat
  born : Nat                    -- cycle of the producer's issue, on the warp's `clk`
  old : OldReg
  deriving DecidableEq, Repr

/-- The context CSRs (R325, R436, R444). -/
structure Ctx where
  asid : BitVec 16
  ptbase : Word
  ctxbase : Word
  utrapvec : Word
  errqbase : Word
  deriving DecidableEq, Repr

/-- What a warp slot holds: a user warp, a service warp (R442) or, for a quad, its sequencer (R250). -/
inductive WarpKind where
  | user
  | service
  | seq
  deriving DecidableEq, Repr

/-- Where a warp stands with respect to its trap handlers (R430, R432, R438). -/
inductive Handler where
  | none
  | fault        -- entered at offset 0x00, until `pcrs` or `exit`
  | preempt      -- entered at offset 0x10
  | returned     -- entered at offset 0x20, until `pcrs`
  deriving DecidableEq, Repr

/-- The second counter of a selection (R241): the unit class of the instruction that issued at PC0, PC1, and the lanes that
held PC1 at the selection. -/
structure PairOffer where
  unit : Nat
  pc : Word
  lanes : LaneMask
  deriving DecidableEq, Repr

/-- Where a migrating warp goes (R217): the first core of a die with a free landing slot, or a core that an entry names. -/
inductive Goal where
  | die (d : Nat)
  | core (c : Nat)
  deriving DecidableEq, Repr

/-- A warp or sequencer. Vector registers `v0` upward are the list `vregs`, whose length is the budget (R54). -/
structure Warp where
  kind : WarpKind
  gid : Nat                     -- its placement unit (0 for a service warp)
  wg : Nat                      -- index of its workgroup within the unit
  wid : Nat                     -- `%wid`
  role : Nat                    -- `%role` (R51)
  core : Nat                    -- the core it runs on
  slot : Nat                    -- warp slot 0-31, landing slot 32-33, service slot 34, sequencer 40
  lanes : List Lane
  vregs : List VReg
  uregs : List Word             -- s0-s63
  preds : List (List PBits)     -- q0-q7, 16 bits per lane
  bound : AMap Nat              -- bound completion counters and their counts (R56)
  fstat : BitVec 5              -- FSTAT: NV, DZ, OF, UF, NX from bit 0 (R29)
  clk : Nat                     -- the least number of core cycles that have passed for the warp (R244)
  dly : Nat                     -- delay still to pass (R47)
  swPark : Bool                 -- parked by the switch marker (R47)
  recent : List Recent
  flights : List Flight
  pair : Option PairOffer       -- PC1 of the selection just made, while it may still issue in the same cycle (R241)
  starve : AMap Nat             -- starvation count per program counter (R242)
  first : Option Nat            -- the counter that the next selection takes as PC0 (R242)
  replay : List Nat             -- counters of restored parked lanes, which re-execute before any other lane moves on (R231)
  drawn : Bool                  -- drawn from a hoop (R230)
  handler : Handler
  asks : List (Nat × Nat × Word)  -- held instructions: tile, the state each needs (R284: 3 is READY without references), address
  pendingFault : Bool           -- a program-level fault waits for its delivery (R437)
  owes : List Nat               -- after `yield`: the warps of the core that go first (R86)
  away : Option Nat             -- the die it has migrated to (R217); the home slot is the warp's key
  goal : Option Goal            -- the target of a `migrate` that waits for its landing slot (R217)
  ctx : Ctx
  deriving DecidableEq, Repr

/-- The matrix configuration (R185, R190): bits [17:0] of the MOD of `mcfg`. -/
abbrev MatCfg := BitVec 18

/-- A row state of the accumulator store (R185, R289): m, l, the flags and ROWSUM; equal in the W cores. -/
structure RowState where
  m : BitVec 32
  l : BitVec 96
  nan : Bool
  empty : Bool
  rowsum : Word
  deriving DecidableEq, Repr

/-- An accumulator element with its SP bit (R289, R290). -/
structure AccEl where
  v : BitVec 96
  sp : Bool
  deriving DecidableEq, Repr

/-- A weight plane (R185): record and weights; weight (t, c) at key 128 t + c, an unlisted one is zero. -/
structure Plane where
  valid : Bool
  half : BitVec 2               -- 0 ONE, 1 LO, 2 HI
  k : Nat
  n : Nat
  special : BitVec 128
  scale : List Byte             -- weight scale bytes recorded at `mldw` (R193)
  w : AMap (BitVec 16)
  deriving DecidableEq, Repr

/-- The matrix state of one core of a quad group (R185). An accumulator element (r, c) stands at key 256 r + c. -/
structure MatCore where
  acc : AMap AccEl
  colsum : AMap Word
  plane0 : Plane
  plane1 : Plane
  active : Bool                 -- the active plane is plane 1
  deriving DecidableEq, Repr

/-- The matrix state that an instruction touches (R187, R288): rows, columns of their elements, the rows' softmax state, and
what it reads and writes of the weight planes 0 and 1 (bits 0, 1) and their pointers (bit 2), and the row and column sums.
Ranges are first and past the last. -/
structure Foot where
  rows : Nat × Nat
  cols : List (Nat × Nat)
  rowSt : Bool
  rd : BitVec 3
  wr : BitVec 3
  rsum : List (Nat × Nat) := []   -- rows whose row sums it touches
  csum : List (Nat × Nat) := []   -- global columns whose column sums it touches
  deriving DecidableEq, Repr

/-- A byte's place (R322): the target of a translation. -/
inductive Place where
  | mem (key : Nat)             -- a byte of memory, by its key (below)
  | mmio (pkg page off : Nat)
  deriving DecidableEq, Repr

/-- Who makes an access. -/
structure Who where
  core : Nat
  asid : BitVec 16
  ptbase : Word
  user : Bool
  gid : Nat
  wg : Nat
  lid : Nat
  away : Bool
  bkt : Nat
  errq : Word
  wgIndex : Nat
  ch : Nat                      -- the cache hint of the access (R48)
  apf : Bool                    -- an `apf` write: THR is taken as 1 (R363)
  deriving DecidableEq, Repr

/-- A leaf entry as a translation gives it. -/
structure Leaf where
  lo : Word
  hi : Word
  level : Nat
  vsel : Bool
  deriving DecidableEq, Repr

/-- A page of an attention walk, as far as it has been read (R304): its block table entry, its row-state word, its scale bytes and
the 32-byte sectors of its rows. Sector `j` of token `k`'s K row is number `32 * k + j`, of its V row `32 * k + 16 + j`. -/
structure PageRead where
  entry : Option Nat := none
  word : Option Nat := none
  scales : Option (List Byte) := none
  rows : AMap (List Byte) := []
  deriving DecidableEq, Repr

/-- A matrix, softmax or attention instruction that has issued and not completed (R187). -/
structure MOp where
  id : Nat
  instr : Instr
  src : List Nat                -- tiles it holds read references on (R284)
  dst : Option Nat              -- destination tile, FILLING
  ctr : Option Nat              -- counter that falls at completion (R206)
  out : List (Nat × Byte)       -- bytes to write into the destination tile: scratchpad offset of the tile's core, byte
  desc : List Byte              -- the KV descriptor an `attn` read at issue (R205)
  granted : Bool                -- power grant given (R278)
  fed : Bool                    -- its array occupancy has ended: its sources and its plane are fetched (R284, R293)
  pc : Word                     -- the instruction's address
  foot : Foot
  seen : List Host.Cell         -- the quad's scratchpad bytes as its fetches find them, while it has sources (R285)
  was : List MatCore × List RowState  -- the cores and rows on which its sources act, as they stood before it
  regs : List Nat               -- its register operands
  access : Option (Who × List (Nat × Place × Option Leaf)) := none  -- an `smxs` or `smxl`: its agent, and the translations of its issue
  left : List (Nat × Byte) := []      -- an `smxs`: bytes that it has still to store, by address
  reads : AMap (List Byte) := []      -- an `smxl`: the sectors of its records that it has read, by their number
  walk : AMap PageRead := []          -- an `attn`: the pages that it has read something of, by their table index
  deriving DecidableEq, Repr

/-- A workgroup of a placement unit (R6, R236). -/
structure Wg where
  index : Nat                   -- linear index g in the grid (R261)
  core : Nat                    -- the core it is placed on
  spad : Nat                    -- first byte of its scratchpad allocation
  regs : Nat                    -- register allocation (R251)
  slots : List Nat              -- warp slots it holds, slot of warp w at position w
  staged : Bool                 -- every kind-3 slice has landed (R270)
  ended : Bool
  gifts : List (Nat × Nat × Nat)  -- what the `regdon`s of this rendezvous name: warp, recipient, units (R218)
  landed : Nat                  -- kind-3 slices that have landed, in entry order (R271)
  errs : List Nat               -- staging postings outstanding (R271)
  deriving DecidableEq, Repr

/-- Stage of a placement unit's life. -/
inductive Phase where
  | staging                     -- R270
  | running
  | stopping                    -- chosen as a pre-emption victim, PREEMPT not yet delivered (R449)
  | preempting                  -- PREEMPT delivered, the routines run (R430)
  | preempted                   -- left its core by its own routine (R431)
  | saved                       -- left its core by the hardware save of R451
  | swapped                     -- swapped out for waiting (R258)
  | stopped                     -- stopped at its fourth matrix fetch fault (R448)
  | killed                      -- killed on a matrix fetch fault, to be placed again (R447, R448)
  | ended
  deriving DecidableEq, Repr

/-- What a warp of a swapped unit awaits (R258): a change of the line at a memory key, whose bytes it holds as a number, or
the end of a barrier phase, by the network's code and its parity, for a warp by its number within the unit. -/
inductive Watch where
  | line (key bytes : Nat)
  | bar (warp code parity : Nat)
  deriving DecidableEq, Repr

/-- A placement unit: a quad group (R273) or a workgroup placed alone (R272), with its matrix state (R185). -/
structure Group where
  lid : Nat                     -- its launch
  pkg : Nat
  quad : Nat                    -- quad of the package, 0-63
  isQuad : Bool
  wgs : List Wg
  phase : Phase
  faulted : Bool                -- ended through a fault no user trap entry handled
  tiles : List Tile
  seq : Option Nat              -- key of its sequencer while that program runs
  cfg : MatCfg
  rows : List RowState
  cores : List MatCore
  mops : List MOp
  grants : Nat                  -- held power grants (R219)
  grantReq : Option Nat         -- outstanding `pgrant`: the number of its result (R219)
  relaunches : Nat              -- matrix fetch faults counted (R448)
  shopens : List (Nat × Nat)    -- pages its `shopen` opened: ptbase and virtual page address (R447)
  watch : List Watch            -- what the warps of a swapped unit await (R258)
  due : Bool                    -- it has come, and the unit is due for swap-in (R258)
  victim : Bool                 -- chosen for pre-emption while its staging runs (R277)
  kept : List (Nat × Handler × List (Option Delivery))  -- handlers and delivery records of a swapped unit's warps (R258)
  out : List Nat                -- unexited warps of a swapped unit: 32 * workgroup + warp index; its sequencer is 1024
  seqSaved : Bool               -- the sequencer's state stands in the matrix section (R449)
  deriving DecidableEq, Repr

/-- A thread filed in a hoop: id, the bits of its vector registers, its predicates (R85). -/
structure FiledThread where
  tid : BitVec 16
  vals : List Word
  preds : List PBits
  deriving DecidableEq, Repr

/-- A hoop (R85, R253): its key, its threads in filing order, the uniform registers of the first one's warp, the OR of
FSTAT, the AGE that holds for it, and whether it is due. -/
structure Hoop where
  gid : Nat
  wg : Nat
  role : Nat
  pc : Word
  tags : List (BitVec 5)
  threads : List FiledThread
  uregs : List Word
  fstat : BitVec 5
  ctx : Ctx
  age : BitVec 16
  due : Bool
  seqNo : Nat                   -- order of first filing, for "oldest"
  deriving DecidableEq, Repr

/-- A cached translation (R332): `bits` is 16 for a page, 20 for a run of 16 pages, 27 for a 128 MiB page. -/
structure TlbEntry where
  asid : BitVec 16
  base : Nat
  bits : Nat
  lo : Word
  hi : Word
  vsel : Bool
  deriving DecidableEq, Repr

/-- An event counter (R466). -/
structure Counter where
  en : Bool
  ovi : Bool
  src : BitVec 8
  count : BitVec 48
  deriving DecidableEq, Repr

/-- A core: its CSRs, hoops, L1 TLB, counters 0-7 and the issue slots' round-robin points. -/
structure Core where
  reformage : BitVec 16
  swapthr : BitVec 32
  hoops : List Hoop
  tlb : List TlbEntry
  cnt : List Counter
  lastSel : List Nat            -- per issue slot, the warp slot it selected last (R243)
  deriving DecidableEq, Repr

/-- A record waiting to be posted to a service ring (R319, R441). -/
structure Post where
  handle : Nat
  addr : Word
  pc : Word
  ptbase : Word
  lanes : BitVec 32
  asid : BitVec 16
  code : Nat
  kind : Nat
  deriving DecidableEq, Repr

/-- What a handle names (R225). -/
inductive Target where
  | warp (key : Nat)
  | seqOf (gid : Nat)
  | staging (gid wg : Nat)
  | stoppedGroup (gid : Nat)
  | chain (pkg p : Nat)         -- a launch chain whose record cannot be read (R266)
  | backfill (pkg : Nat)        -- the backfill engine of a package, whose template cannot be read (R313)
  | other
  deriving DecidableEq, Repr

/-- A posting that is outstanding: its handle is the key of the map that holds it. -/
structure Posting where
  target : Target
  lanes : BitVec 32
  deriving DecidableEq, Repr

/-- A request at a power manager (R278, R458). -/
structure GrantReq where
  gid : Nat
  mop : Option Nat              -- the waiting instruction, or `none` for a `pgrant`
  n : Nat
  units : Nat
  prio : Nat
  deriving DecidableEq, Repr

/-- One HBM4E stack (R390, R391). -/
structure Hbm where
  half : BitVec 32
  lflt : BitVec 32
  ncnt : Word
  hot : Bool
  deriving DecidableEq, Repr

/-- A line held in an L2 (R352, R356, R402): dirty sectors, last writer, exclusive ownership, and for a HOST line the
state of its four granules (0 I, 1 S, 2 E, 3 M). -/
structure L2Line where
  owned : Bool
  dirty : BitVec 8
  asid : BitVec 16
  bkt : Nat                     -- bucket class of the last writer's launch, 16 for none (R276)
  gran : List (BitVec 2)
  ord : Int                     -- place in the order of eviction, the lowest first (R48)
  deriving DecidableEq, Repr

/-- A compute die. -/
structure Die where
  trapvec : Word
  svcq : Word
  postN : Nat                   -- records posted to the ring so far (R318)
  postq : List Post             -- faults waiting, in detection order (R441)
  tlb : List TlbEntry
  walkCache : List (Nat × Nat × Nat)  -- non-leaf entries cached: ASID, table base va, table address (R332)
  l2 : AMap L2Line              -- by line: memory key / 256
  cnt : List Counter            -- counters 8-23
  scrbctl : Word
  scrbptb : Word
  scrubAt : Nat                 -- virtual page the scrubber visits next (R344)
  hbm : List Hbm
  halted : Bool                 -- R224
  inReset : Bool
  landRR : Nat                  -- core that took the last landed warp (R217)
  pmE : Nat                     -- effective watts of the running window (R457-R459)
  pmCharged : Nat
  pmQueue : List GrantReq
  pmHot : Bool                  -- sensor at or above 105 degrees, until below 95 (R459)
  deriving DecidableEq, Repr

/-- A launch record as intake reads it (R261). -/
structure LRec where
  wgentry : Word
  sqentry : Word
  args : Word
  gx : Nat
  gy : Nat
  gz : Nat
  warps : Nat
  flags : BitVec 16
  bregs : Nat
  ncopy : Nat
  nepi : Nat
  cregs : Nat
  eregs : Nat
  spad : Nat
  tiles : Nat
  coop : Nat
  bucket : Nat
  prio : Nat
  sab : Word
  str : Nat
  utrap : Nat
  asid : BitVec 16
  nrange : Nat
  ranges : List (Nat × Nat × Nat × Nat)  -- base, length, kind, stage offset / 256
  sstride : Nat
  zero : Bool                   -- every reserved byte and every unused range entry is zero
  deriving DecidableEq, Repr

/-- A launch in the window (R265). -/
structure Launch where
  pkg : Nat
  chain : Nat
  num : BitVec 32
  addr : Nat                    -- physical address of the record
  record : LRec
  cause : Nat                   -- refusal cause of R267, 0 for a launch that runs
  deps : List Nat               -- launches it depends on (R268)
  placed : Nat                  -- workgroups placed so far
  endedWgs : Nat
  faulted : Bool
  order : Nat                   -- intake order
  userAsid : Option (BitVec 16) -- ASID of the user warp that appended it (R267 cause 0x0B)
  bfSlot : Option Nat           -- slot of the backfill engine that emitted it (R313)
  deriving DecidableEq, Repr

/-- A launch chain (R262): the three CSRs, and what the switch die keeps of the appended records. -/
structure Chain where
  stop : Bool
  head : Word
  tail : Word
  next : BitVec 32
  done : BitVec 32
  taken : BitVec 32             -- number that intake gives the next record it takes in
  fin : List (BitVec 32)        -- completed numbers above DONE (R275)
  users : AMap Nat              -- number of a waiting record to the ASID of the user warp that appended it
  slots : AMap Nat              -- number of a waiting record to the backfill slot it came from
  deriving DecidableEq, Repr

/-- A backfill request (R208, R311). -/
structure BfReq where
  page : Word
  seqNo : BitVec 32
  pos : BitVec 32
  layer : BitVec 16
  asid : BitVec 16
  deriving DecidableEq, Repr

/-- A token bucket (R276). -/
structure Bucket where
  depth : BitVec 24
  rate : BitVec 24
  level : Int
  deriving DecidableEq, Repr

/-- The tag record of a page slot (R352). A way that no entry lists is INVALID with the oldest stamp. -/
structure Slot where
  gpn : Nat                     -- 0 when INVALID
  st : BitVec 2                 -- 0 INVALID, 1 REPLICA, 2 MASTER
  pin : Bool
  guard : Bool
  stamp : Nat                   -- when the slot was filled or last served an access: the LRU rank orders these
  valid : BitVec 256
  dirty : BitVec 2048
  lpsn : BitVec 256
  vsel : Bool                   -- the version selector, copied into every slot of both storages (R359)
  deriving DecidableEq, Repr

/-- The location directory's entry of a page (R338, R359, R424), with the line directory of its master (R357, R365).
The level-1 and level-2 entries and their holders are functions of it (Machine/Slots.lean). -/
structure DirEnt where
  master : Option Nat
  replicas : List Nat
  guardAt : Option (Nat × Bool) -- package of the guard replica, and whether it stands in the reserve pool
  dup : Bool
  lost : Bool
  vsel : Bool
  flipping : Bool
  opened : Bool                 -- a `shopen` has opened it and no `publ` has flipped it (R181, R338)
  mask : BitVec 2048
  hostBias : Option Nat         -- the host that holds the page in host bias
  hostLines : AMap (BitVec 1024) -- granules that each host may hold (R425)
  hostDirty : BitVec 2048       -- sectors that the host holds dirty while it has the page in host bias (R427)
  wpkg : Nat
  wcnt : Nat
  lineDir : List (Nat × BitVec 256)  -- R365
  deriving DecidableEq, Repr

/-- A fabric port (R401). -/
structure FPort where
  up : Bool
  resend : BitVec 32
  queued : Nat                  -- bytes queued (R398)
  deriving DecidableEq, Repr

/-- A fabric packet sent and not acknowledged (R400). -/
structure Sent where
  pkt : Packet
  port : Nat                    -- the port that carried it last
  queued : Bool                 -- that copy has not come out of the port's queue
  resends : Nat
  deriving DecidableEq, Repr

/-- What a switch die holds until it can perform it: an append past the limit of R264 or whose line finds no place (R263), a host's
write and the record of a store error whose first write finds no way (R363, R446). -/
inductive Held where
  | append (chain addr : Nat)
  | hostWrite (key : Nat) (bytes : List Byte)
  | storeError (queue : Word) (err : StoreErr)
  deriving DecidableEq, Repr

/-- A package: its switch die. -/
structure Pkg where
  chains : List Chain
  migthr : BitVec 16
  pwrctl : Word
  alarmcfg : Word
  bfcfg : Word
  bfRecs : BitVec 32
  bfDrop : Nat
  bfQueue : List BfReq
  bfOpen : List BfReq
  bfOpenCfg : Word
  bfClosed : List (List BfReq × Word)
  bfSlots : List (Option Nat)   -- launch number emitted from the slot, while busy
  bfStopped : Bool              -- the template could not be read (R313)
  buckets : List Bucket
  ctxtab : Word
  cnt : List Counter            -- counters 24-39
  ways : Nat
  nsets : Nat
  nbr : List Nat
  am : List Nat                 -- AMINJO, AMINJI, AMREFO, AMREFI, AMABND, AMNOAL
  amtagsel : Word
  amBusy : Bool
  amErr : Nat
  slots : AMap Slot             -- by set * 8 + way
  pool : AMap Slot              -- the reserve pool (R364), by pool slot
  injBufs : Nat                 -- injection buffers in use (R362)
  tagN : AMap Nat               -- changes of the tags of each set, and at key 2^32 of the reserve pool (R363)
  tagCache : AMap Nat           -- recent answers of the directory: GPN to master package (R359, R360)
  amop : Word                   -- AMOP and BIASOP as last written; they read zero (R323, R366, R426)
  biasop : Word
  held : List Held              -- what waits at the switch die, oldest first (R263, R363)
  biasBusy : Bool
  biasH : Bool
  biasErr : Nat
  cxlcfg : Word
  cxlRun : Word                 -- the roles that the last bring-up put in force (R394)
  cxlSet : Bool                 -- bring-up has loaded CXLCFG since power-on (R394, R468)
  capBytes : Nat                -- size of the capacity tier (R396)
  ports : List FPort
  sent : List Sent
  txNext : AMap Nat             -- number of the next ordered packet per destination (R399)
  failed : List (Nat × Nat)     -- failed packets of loads whose loads have not faulted yet: destination and line (R400)
  rxNext : AMap Nat             -- next ordered sequence number expected per source package (R399)
  rxHeld : List Packet          -- the reorder buffer
  rxOut : List Packet           -- packets delivered
  locked : Bool
  dbglk : Bool
  attBusy : Bool
  attErr : Nat
  index : Nat                   -- one-time signature index, durable (R463)
  sessionKeys : Bool            -- the session keys are held
  allKeys : Bool                -- the other keys are held
  nonce : List Byte
  attOut : List Byte            -- the attestation at 0x8000 (R465)
  bootStep : Nat
  bootFail : Nat
  lastCore : Nat                -- R272
  lastQuad : Nat                -- R273
  reserve : List (Nat × List Nat)  -- blocked launches and the victims whose resources go to each until it has placed (R277)
  intakeN : Nat
  deriving DecidableEq, Repr

/-- One end of a die-to-die link (R381, R382, R384). -/
structure LinkEnd where
  nextSeq : BitVec 12
  expect : BitVec 12
  buf : List Flit               -- replay buffer, oldest first
  discarding : Bool             -- a flit has been discarded and the expected one has not come (R381)
  nak : Option (BitVec 12)      -- a NAK that this end has sent and the other has not received
  replayFrom : Option (BitVec 12)
  replayAt : BitVec 12          -- the flit that a running replay sends next
  due : List Nat                -- lanes whose parity errors have reached RETHR within a window (R382)
  early : List (BitVec 12)      -- flits delivered over another route, by the tags of this link (R388)
  win : Nat                     -- flits received in the running window
  par : AMap Nat                -- parity errors per lane in the window
  replays : Nat                 -- replays started in the window
  fall : Bool                   -- a window has ended in which they reached 2^FBTHR, and no fallback has followed (R383)
  out : List Flit               -- payloads delivered, in order
  deriving DecidableEq, Repr

/-- A die-to-die link (R378, R380). -/
structure Link where
  rethr : BitVec 16
  fbthr : BitVec 4
  rate : BitVec 4
  autofb : Bool
  down : Bool
  training : Bool
  att : Nat
  runRate : Nat
  width : Nat
  gmap : BitVec 8
  tryRate : Nat                 -- rate of the attempt under way (R384)
  fromRate : Nat                -- rate the retraining starts from
  crc : Word
  replayCount : Word
  retired : BitVec 256
  endA : LinkEnd
  endB : LinkEnd
  deriving DecidableEq, Repr

/-- A 32-byte sector of an asynchronous copy: its virtual address and its place in the tile's scratchpad. -/
structure Sector where
  va : Nat
  spad : Nat
  deriving DecidableEq, Repr

/-- A sector that a copy or an engine has read before its completion: the bytes, whether its line was poisoned or lost, and
which of them have been written (R178). -/
structure SectorPart where
  bytes : List Byte
  bad : Bool
  done : BitVec 32
  deriving DecidableEq, Repr

/-- An asynchronous copy outstanding, with the translations taken at issue (R173-R176). -/
structure Copy where
  gid : Nat
  warp : Nat                    -- key of the issuing warp or sequencer
  ctr : Option Nat              -- bound counter that falls at completion
  isOut : Bool
  tile : Nat
  sectors : List Sector
  who : Who
  lines : List (Nat × Place × Option Leaf)
  parts : AMap SectorPart       -- by position among the sectors
  deriving DecidableEq, Repr

/-- A capacity-tier engine outstanding (R179, R180); `bo` is the memory key of its barrier object, at address `boVa`. -/
structure Engine where
  isApf : Bool
  dst : Nat
  src : Nat
  len : Nat
  bo : Nat
  boVa : Nat
  who : Who
  parts : AMap SectorPart       -- by sector of the range
  deriving DecidableEq, Repr

/-- A `publ` outstanding: the page addresses that it has not reached, and its result's number (R183). -/
structure Publish where
  warp : Nat
  who : Who
  pages : List Nat
  deriving DecidableEq, Repr

/-- A `kvsum` outstanding (R184, R341): the warp and register of its result, whose number is its key, the memory key of the leaf
entry, the frame that it sums, and the sectors that it has read. -/
structure Ksum where
  warp : Nat
  reg : Nat
  who : Who
  entry : Nat
  live : Nat
  parts : AMap (List Byte)
  deriving DecidableEq, Repr

/-- What an agent may do before the event that ends its work: move bytes of one sector of a copy or of an engine (R178), write
one byte of a matrix instruction's destination or fetch one 32-byte sector of its sources anew (R285), end the array occupancy of
an `mmul` (R284), flip the next page of a `publ` (R183), read a sector of the page of a `kvsum`, or write its sum (R184, R341), load a sector of the records
of an `smxl` or store bytes of one of an `smxs` (R187), read one more thing that an attention walk needs (R304). -/
inductive Mover where
  | copy (id sector : Nat) (bytes : BitVec 32)
  | engine (id sector : Nat) (bytes : BitVec 32)
  | matByte (gid idx n : Nat)
  | matSector (gid idx sector : Nat)
  | occupancy (gid idx : Nat)
  | publish (id : Nat)
  | ksum (id sector : Nat)
  | records (gid idx sector : Nat) (bytes : BitVec 32)
  | walk (gid idx n : Nat)
  deriving DecidableEq, Repr

/-- An open phase of a hardware barrier (R211). -/
structure BarPhase where
  count : Option Nat            -- `some n` for a phase opened by `barm`
  away : List (Nat × Nat)       -- arrived warps of swapped units: unit, 32 * workgroup + warp index (R258)
  deriving DecidableEq, Repr

/-- Which agent moves next. -/
inductive Pick where
  | issue (key : Nat)           -- the warp or sequencer is selected and issues PC0 (R241)
  | pair (key : Nat)            -- its PC1 issues in the same cycle (R241)
  | offer (key pc : Nat)        -- its lanes held by the instruction at this address are offered again (R284)
  | event (i : Instr)           -- an agent other than a warp moves
  | count (core idx : Nat)      -- a counter counts an event of its source (R467): COUNTER_EVENT
  | move (m : Mover)            -- part of an agent's work
  deriving DecidableEq, Repr

/-- The instruction being issued: agent, issuing lane set and address (R77). -/
structure Issue where
  key : Nat
  lanes : LaneMask
  pc : Word
  paired : Bool
  deriving DecidableEq, Repr

/-- The pod. -/
structure State where
  podN : Nat                    -- packages are 0 to podN - 1 (R359)
  mem : List Host.Cell          -- every byte of memory that differs from what an unlisted address reads as
  warps : AMap Warp             -- by the key of the home slot: core * 64 + slot
  groups : AMap Group
  launches : AMap Launch
  copies : AMap Copy
  engines : AMap Engine
  publs : AMap Publish          -- by the number of the `publ`'s result
  ksums : AMap Ksum             -- by the number of the `kvsum`'s result
  postings : AMap Posting       -- by handle
  phases : AMap BarPhase
  cores : AMap Core
  dies : AMap Die
  pkgs : AMap Pkg
  links : AMap Link
  dir : AMap DirEnt             -- by GPN
  hostAns : List Bool           -- the hosts' next answers to load misses: shared (R402)
  tries : AMap (Nat × Nat × Nat)  -- agents whose first write waits: package, set and its count of tag changes (R363)
  dead : List Nat               -- packages without power
  lostPkgs : List Nat           -- packages declared lost (R371)
  parities : AMap Nat           -- phases completed per hardware barrier (R453)
  nextId : Nat                  -- fresh numbers for units, launches, copies, engines, flights
  nextHandle : Nat              -- fresh handles (R319)
  freeN : Nat                   -- counter that indexes the free values (model's own)
  rr : Nat                      -- round-robin point of the default order of agents (model's own)
  turns : Nat                   -- rounds of the default order (model's own)
  agenda : List Pick            -- the agents that move next, in order (model's own)
  cur : Option Issue            -- the instruction being issued (model's own)
  deriving DecidableEq, Repr

/-! ### Reset values -/

def VReg.void : VReg := { tag := 0, shape := .general, lanes := List.replicate 32 0 }

def Ctx.reset : Ctx := { asid := 0, ptbase := 0, ctxbase := 0, utrapvec := 0, errqbase := 0 }

def Counter.reset : Counter := { en := false, ovi := false, src := 0, count := 0 }

def Core.reset : Core :=
  { reformage := 256, swapthr := 20000, hoops := [], tlb := [], cnt := List.replicate 8 Counter.reset,
    lastSel := [0, 0, 0, 0] }

def Hbm.reset : Hbm := { half := 0, lflt := 0, ncnt := 0, hot := false }

def Die.reset : Die :=
  { trapvec := 0, svcq := 0, postN := 0, postq := [], tlb := [], walkCache := [], l2 := [],
    cnt := List.replicate 16 Counter.reset, scrbctl := 0, scrbptb := 0, scrubAt := 0,
    hbm := List.replicate 2 Hbm.reset, halted := false, inReset := false, landRR := 0, pmE := 330, pmCharged := 0,
    pmQueue := [], pmHot := false }

def Chain.reset : Chain :=
  { stop := false, head := 0, tail := 0, next := 1, done := 0, taken := 1, fin := [], users := [], slots := [] }

def Bucket.reset : Bucket := { depth := 0, rate := 0, level := 0 }

def FPort.reset : FPort := { up := false, resend := 0, queued := 0 }

def Pkg.reset : Pkg :=
  { chains := List.replicate 16 Chain.reset, migthr := 4,
    pwrctl := BitVec.ofNat 64 (330 * 2 ^ 32 + 4000 * 2 ^ 16),
    alarmcfg := BitVec.ofNat 64 (3 * 64 + 1 * 16 + 2 * 4 + 2),
    bfcfg := BitVec.ofNat 64 (0x7F * 2 ^ 56 + 4), bfRecs := 0, bfDrop := 0, bfQueue := [], bfOpen := [], bfOpenCfg := 0,
    bfClosed := [], bfSlots := List.replicate 8 none, bfStopped := false,
    buckets := List.replicate 16 Bucket.reset, ctxtab := 0, cnt := List.replicate 16 Counter.reset,
    ways := 0, nsets := 0, nbr := [0, 0, 0, 0], am := [0, 0, 0, 0, 0, 0], amtagsel := 0, amBusy := false, amErr := 0,
    slots := [], pool := [], injBufs := 0, tagN := [], tagCache := [], amop := 0, biasop := 0, held := [], biasBusy := false, biasH := false, biasErr := 0,
    cxlcfg := 0, cxlRun := 0, cxlSet := false, capBytes := 0, ports := List.replicate 16 FPort.reset, sent := [], txNext := [], failed := [], rxNext := [],
    rxHeld := [], rxOut := [], locked := false, dbglk := false, attBusy := false, attErr := 0, index := 0,
    sessionKeys := true, allKeys := true, nonce := List.replicate 32 0, attOut := [], bootStep := 0, bootFail := 0,
    lastCore := 255, lastQuad := 63, reserve := [], intakeN := 0 }

def LinkEnd.reset : LinkEnd :=
  { nextSeq := 0, expect := 0, buf := [], discarding := false, nak := none, replayFrom := none, replayAt := 0, due := [], early := [],
    win := 0, par := [], replays := 0, fall := false, out := [] }

def Link.reset : Link :=
  { rethr := 64, fbthr := 10, rate := 0, autofb := true, down := false, training := false, att := 0, runRate := 0,
    width := 8, gmap := 0xFF, tryRate := 0, fromRate := 0, crc := 0, replayCount := 0, retired := 0, endA := LinkEnd.reset, endB := LinkEnd.reset }

def DirEnt.reset : DirEnt :=
  { master := none, replicas := [], guardAt := none, dup := false, lost := false, vsel := false, flipping := false, opened := false,
    mask := 0, hostBias := none, hostLines := [], hostDirty := 0, wpkg := 0, wcnt := 0, lineDir := [] }

/-- The machine right after power-on, before bring-up has run (R12, R468): every register at its Reset value, no warp, no
launch, no page anywhere in the pod, memory with nothing listed. -/
def State.reset : State :=
  { podN := 1, mem := [], warps := [], groups := [], launches := [], copies := [], engines := [], publs := [], ksums := [], postings := [],
    phases := [], cores := [], dies := [], pkgs := [], links := [], dir := [], hostAns := [], tries := [], dead := [], lostPkgs := [],
    parities := [], nextId := 1, nextHandle := 1, freeN := 0, rr := 0, turns := 0, agenda := [], cur := none }

end Sys2Proof.Machine
end

