-- ==== Sys2Proof/Machine/Assoc.lean ====
section
/-! DEFINITION. Association lists kept sorted by key, lists of a fixed length, and the one list of memory bytes. -/
namespace Sys2Proof.Machine

/-- The entry of a key. -/
def aget {α : Type} : AMap α → Nat → Option α
  | [], _ => none
  | (k', v) :: m, k => if k' = k then some v else aget m k

/-- Set the entry of a key, keeping the keys in rising order. -/
def aset {α : Type} : AMap α → Nat → α → AMap α
  | [], k, v => [(k, v)]
  | (k', v') :: m, k, v =>
    if k < k' then (k, v) :: (k', v') :: m
    else if k = k' then (k, v) :: m
    else (k', v') :: aset m k v

/-- Drop the entry of a key. -/
def adel {α : Type} (m : AMap α) (k : Nat) : AMap α := m.filter fun e => e.1 != k

/-- Change a key's entry where there is one. -/
def amod {α : Type} (m : AMap α) (k : Nat) (g : α → α) : AMap α :=
  match aget m k with
  | some v => aset m k (g v)
  | none => m

/-- What an address that no cell lists reads as: zero. For the homeless space this is R352 and R355; for the other
memories it is the model's choice (log entry 1). -/
def unlistedByte : Byte := 0

/-- One byte of memory. -/
def memGet (m : List Host.Cell) (k : Nat) : Byte := (aget m k).getD unlistedByte

/-- Write one byte, keeping the canonical form. -/
def memSet (m : List Host.Cell) (k : Nat) (b : Byte) : List Host.Cell :=
  if b = unlistedByte then adel m k else aset m k b

/-- Write a list of (address, byte) pairs in order. -/
def memSetAll (m : List Host.Cell) : List (Nat × Byte) → List Host.Cell
  | [] => m
  | (k, b) :: r => memSetAll (memSet m k b) r

/-- The canonical form: addresses strictly rising, no cell equal to what an unlisted address reads as. -/
def Memory.wf : List Host.Cell → Bool
  | [] => true
  | [(_, b)] => b != unlistedByte
  | (k, b) :: (k', b') :: m => b != unlistedByte && decide (k < k') && Memory.wf ((k', b') :: m)

/-- The little-endian number of a list of bytes (R7). -/
def leNat : List Byte → Nat
  | [] => 0
  | b :: bs => b.toNat + 256 * leNat bs

/-- The `n` bytes of a number, lowest first (R7). -/
def leBytes : Nat → Nat → List Byte
  | 0, _ => []
  | n + 1, x => BitVec.ofNat 8 x :: leBytes n (x / 256)

/-- Pair bytes with consecutive addresses from `k` up. -/
def atAddrs (k : Nat) : List Byte → List (Nat × Byte)
  | [] => []
  | b :: bs => (k, b) :: atAddrs (k + 1) bs

/-- Bits [lo + n - 1 : lo] of a word. -/
def wbits (x : Word) (lo n : Nat) : Nat := bitsN x.toNat lo n

/-- Sign extension of an n-bit field to an integer (R16). -/
def sextN (x n : Nat) : Int := if x % 2 ^ n < 2 ^ (n - 1) then (x % 2 ^ n : Nat) else ((x % 2 ^ n : Nat) : Int) - 2 ^ n

/-- The number of set bits of the low `n` bits of `x`. -/
def popN : Nat → Nat → Nat
  | 0, _ => 0
  | n + 1, x => x % 2 + popN n (x / 2)

/-- All lane numbers of a warp (R6). -/
def allLanes : List Nat := List.range 32

/-- The lanes of a mask, in ascending order. -/
def lanesOf (m : LaneMask) : List Nat := allLanes.filter fun l => m.getLsbD l

/-- The mask of a list of lanes. -/
def maskOf (ls : List Nat) : LaneMask := ls.foldl (fun m l => m ||| ((1 : LaneMask) <<< l)) 0

end Sys2Proof.Machine
end

