-- ==== Sys2Proof/Machine/Numbers.lean ====
section
/-! DEFINITION. Number formats and rounding (R19-R43): integer fit, the binary floats, L6 and SC8, and the flags that
`round` raises. Values are exact until a named rounding. -/
namespace Sys2Proof.Machine

/-! ### Formats -/

/-- Sub-elements per lane (R19). -/
def nSub (t : Nat) : Nat := if t == 0x0E then 10 else if fmtWidth t == 0 then 0 else 64 / fmtWidth t

/-- Formats read as two's complement (R20, R36); ADDR has the arithmetic of I64. -/
def fmtSigned (t : Nat) : Bool := t == 2 || t == 4 || t == 6 || t == 8 || t == 0x0A || t == 0x0B || t == 0x0F

/-- U4-U64 and I4-I64. -/
def fmtInt (t : Nat) : Bool := 1 ≤ t && t ≤ 0x0A

def fmtIntAddr (t : Nat) : Bool := 1 ≤ t && t ≤ 0x0B

/-- The formats of kind float (R59). -/
def fmtFloat (t : Nat) : Bool := t == 0x0C || t == 0x0D || (0x10 ≤ t && t ≤ 0x13)

/-- F16, BF16, F32, F64. -/
def fmtFloat16up (t : Nat) : Bool := 0x10 ≤ t && t ≤ 0x13

/-- The integer format of a width and signedness. -/
def intFmt (w : Nat) (signed : Bool) : Nat :=
  (if w == 4 then 1 else if w == 8 then 3 else if w == 16 then 5 else if w == 32 then 7 else 9) + signed.toNat

/-- Sub-element `j` of a lane in format `t` (R19). -/
def subEl (t : Nat) (x : Word) (j : Nat) : Nat := bitsN x.toNat (fmtWidth t * j) (fmtWidth t)

/-- A sub-element's bits read as an integer of format `t`. -/
def toInt (t : Nat) (x : Nat) : Int := if fmtSigned t then sextN x (fmtWidth t) else (x : Int)

/-- `wrap` and `sat` of R16: the n-bit pattern of an exact integer. -/
def wrapN (x : Int) (n : Nat) : Nat := (x % (2 ^ n : Nat)).toNat

def satInt (x : Int) (n : Nat) (signed : Bool) : Int :=
  if signed then max (-(2 ^ (n - 1) : Nat)) (min x ((2 ^ (n - 1) : Nat) - 1)) else max 0 (min x ((2 ^ n : Nat) - 1))

/-- R21: one wrap or saturation of an exact integer into format `t`. -/
def fitInt (t : Nat) (sat : Bool) (x : Int) : Nat :=
  if sat then wrapN (satInt x (fmtWidth t) (fmtSigned t)) (fmtWidth t) else wrapN x (fmtWidth t)

/-! ### Flags of FSTAT (R29) -/

def fNV : BitVec 5 := 1
def fDZ : BitVec 5 := 2
def fOF : BitVec 5 := 4
def fUF : BitVec 5 := 8
def fNX : BitVec 5 := 16

/-! ### Binary floats (R22) -/

/-- A binary format: exponent bits, fraction bits, and whether it has infinities. -/
structure FF where
  eb : Nat
  fb : Nat
  hasInf : Bool
  deriving DecidableEq, Repr

def ffF64 : FF := ⟨11, 52, true⟩
def ffF32 : FF := ⟨8, 23, true⟩
def ffF16 : FF := ⟨5, 10, true⟩
def ffBF16 : FF := ⟨8, 7, true⟩
def ffE5M2 : FF := ⟨5, 2, true⟩
def ffE4M3 : FF := ⟨4, 3, false⟩
def ffAF96 : FF := ⟨15, 80, true⟩

/-- The binary format of a tag. -/
def ffOf (t : Nat) : FF :=
  if t == 0x0C then ffE4M3 else if t == 0x0D then ffE5M2 else if t == 0x10 then ffF16
  else if t == 0x11 then ffBF16 else if t == 0x12 then ffF32 else ffF64

def ffBias (p : FF) : Nat := 2 ^ (p.eb - 1) - 1
def ffBits (p : FF) : Nat := 1 + p.eb + p.fb
/-- The exponent of the least normal value. -/
def ffEmin (p : FF) : Int := 1 - (ffBias p : Int)
/-- The bits of the largest finite magnitude. -/
def ffMaxBits (p : FF) : Nat :=
  if p.hasInf then (2 ^ p.eb - 1) * 2 ^ p.fb - 1 else (2 ^ p.eb - 1) * 2 ^ p.fb + 2 ^ p.fb - 2
def ffInfBits (p : FF) : Nat := (2 ^ p.eb - 1) * 2 ^ p.fb
/-- The canonical NaN (R22, R39). -/
def ffNan (p : FF) : Nat :=
  if p.hasInf then (2 ^ p.eb - 1) * 2 ^ p.fb + 2 ^ (p.fb - 1) else 2 ^ (p.eb + p.fb) - 1
def ffSign (p : FF) (neg : Bool) : Nat := if neg then 2 ^ (p.eb + p.fb) else 0

/-- A decoded value: a NaN, an infinity, or the exact `m * 2 ^ e` with a sign. -/
inductive FVal where
  | nan (signalling : Bool)
  | inf (neg : Bool)
  | fin (neg : Bool) (m : Nat) (e : Int)
  deriving DecidableEq, Repr

/-- The value of an encoding (R22, R24). -/
def ffDecode (p : FF) (x : Nat) : FVal :=
  let neg := bitsN x (p.eb + p.fb) 1 == 1
  let ex := bitsN x p.fb p.eb
  let fr := x % 2 ^ p.fb
  if p.hasInf && ex == 2 ^ p.eb - 1 then
    if fr == 0 then .inf neg else .nan (bitsN fr (p.fb - 1) 1 == 0)
  else if !p.hasInf && ex == 2 ^ p.eb - 1 && fr == 2 ^ p.fb - 1 then .nan false
  else if ex == 0 then .fin neg fr (ffEmin p - p.fb)
  else .fin neg (fr + 2 ^ p.fb) ((ex : Int) - ffBias p - p.fb)

/-- The infinity of a sign; the canonical NaN where the format has none (R26, R32). -/
def ffInf (p : FF) (neg : Bool) : Nat := if p.hasInf then ffSign p neg + ffInfBits p else ffNan p

def ffMax (p : FF) (neg : Bool) : Nat := ffSign p neg + ffMaxBits p

/-- Rounds `n / d` (d > 0) to an integer magnitude by mode `rnd` for a value of the given sign (R25); `lsbEven` says
whether the truncated magnitude counts as even. -/
def roundMag (rnd : Nat) (neg : Bool) (n d : Nat) : Nat :=
  let q := n / d
  let r := n % d
  let up :=
    if r == 0 then false
    else if rnd == 0 then 2 * r > d || (2 * r == d && q % 2 == 1)
    else if rnd == 1 then false
    else if rnd == 2 then neg
    else if rnd == 3 then !neg
    else 2 * r ≥ d
  if up then q + 1 else q

/-- floor(log2 (n / d)) for positive n and d. -/
def ilog2 (n d : Nat) : Int :=
  let k : Int := (n.log2 : Int) - d.log2
  -- n / d lies in (2 ^ (k - 1), 2 ^ (k + 1))
  if k ≥ 0 then (if n ≥ d * 2 ^ k.toNat then k else k - 1) else (if n * 2 ^ (-k).toNat ≥ d then k else k - 1)

/-- An infinite result under SAT (R27). -/
def ffInfSat (p : FF) (sat neg : Bool) : Nat × BitVec 5 := if sat then (ffMax p neg, fNX) else (ffInf p neg, 0)

/-- `round` of R26 and its flags (R28) for the exact non-zero magnitude `n / d * 2 ^ e`, with SAT by R27. -/
def ffRoundPos (p : FF) (rnd : Nat) (sat neg : Bool) (n d : Nat) (e : Int) : Nat × BitVec 5 :=
  let lg := ilog2 n d + e
  let ex := max lg (ffEmin p)
  let sh := e - (ex - p.fb)                       -- the magnitude in units of 2 ^ (ex - fb) is n / d * 2 ^ sh
  let num := if sh ≥ 0 then n * 2 ^ sh.toNat else n
  let den := if sh ≥ 0 then d else d * 2 ^ (-sh).toNat
  let q := roundMag rnd neg num den
  let inexact := num % den != 0
  let bits := ((ex + ffBias p - 1).toNat) * 2 ^ p.fb + q
  if bits > ffMaxBits p then
    let toInf := rnd == 0 || rnd == 4 || (rnd == 2 && neg) || (rnd == 3 && !neg)
    if toInf && !sat then (ffInf p neg, fOF ||| fNX) else (ffMax p neg, fOF ||| fNX)
  else
    (ffSign p neg + bits, (if inexact then fNX else 0) ||| (if inexact && lg < ffEmin p then fUF else 0))

/-- `round` of an exact value, a zero keeping its sign. -/
def ffRound (p : FF) (rnd : Nat) (sat neg : Bool) (n d : Nat) (e : Int) : Nat × BitVec 5 :=
  if n == 0 then (ffSign p neg, 0) else ffRoundPos p rnd sat neg n d e

/-- An exact sum: sign, magnitude and exponent; `zneg` is the sign of an exact zero. -/
def addExact (n1 : Bool) (m1 : Nat) (e1 : Int) (n2 : Bool) (m2 : Nat) (e2 : Int) (rdn : Bool) : Bool × Nat × Int :=
  let e := min e1 e2
  let a : Int := (if n1 then -1 else 1) * ((m1 * 2 ^ (e1 - e).toNat : Nat) : Int)
  let b : Int := (if n2 then -1 else 1) * ((m2 * 2 ^ (e2 - e).toNat : Nat) : Int)
  let s := a + b
  if s == 0 then ((if m1 == 0 && m2 == 0 && n1 == n2 then n1 else rdn), 0, e)
  else (s < 0, s.natAbs, e)

def isSNan : FVal → Bool
  | .nan s => s
  | _ => false

def isNan : FVal → Bool
  | .nan _ => true
  | _ => false

def isInf : FVal → Bool
  | .inf _ => true
  | _ => false

/-- NV when an operand is a signalling NaN (R24). -/
def snanFlag (xs : List FVal) : BitVec 5 := if xs.any isSNan then fNV else 0

def fneg : FVal → FVal
  | .nan s => .nan s
  | .inf n => .inf (!n)
  | .fin n m e => .fin (!n) m e

/-- a + b (R101). -/
def fAdd (p : FF) (rnd : Nat) (sat : Bool) (a b : FVal) : Nat × BitVec 5 :=
  match a, b with
  | .fin n1 m1 e1, .fin n2 m2 e2 =>
    let r := addExact n1 m1 e1 n2 m2 e2 (rnd == 2)
    ffRound p rnd sat r.1 r.2.1 1 r.2.2
  | .inf n1, .inf n2 => if n1 == n2 then ffInfSat p sat n1 else (ffNan p, fNV)
  | .inf n1, .fin _ _ _ => ffInfSat p sat n1
  | .fin _ _ _, .inf n2 => ffInfSat p sat n2
  | _, _ => (ffNan p, snanFlag [a, b])

/-- a * b as an exact value; `none` for an invalid product. -/
def fMulExact (a b : FVal) : Option FVal :=
  match a, b with
  | .fin n1 m1 e1, .fin n2 m2 e2 => some (.fin (n1 != n2) (m1 * m2) (e1 + e2))
  | .inf n1, .inf n2 => some (.inf (n1 != n2))
  | .inf n1, .fin n2 m2 _ => if m2 == 0 then none else some (.inf (n1 != n2))
  | .fin n1 m1 _, .inf n2 => if m1 == 0 then none else some (.inf (n1 != n2))
  | _, _ => some (.nan false)

/-- a * b (R101). -/
def fMul (p : FF) (rnd : Nat) (sat : Bool) (a b : FVal) : Nat × BitVec 5 :=
  if isNan a || isNan b then (ffNan p, snanFlag [a, b]) else
  match fMulExact a b with
  | none => (ffNan p, fNV)
  | some (.fin n m e) => ffRound p rnd sat n m 1 e
  | some (.inf n) => ffInfSat p sat n
  | some (.nan _) => (ffNan p, 0)

/-- a * b + c with a single rounding (R111). -/
def fFma (p : FF) (rnd : Nat) (sat : Bool) (a b c : FVal) : Nat × BitVec 5 :=
  if isNan a || isNan b then (ffNan p, snanFlag [a, b, c] ||| (if (fMulExact a b).isNone then fNV else 0)) else
  match fMulExact a b with
  | none => (ffNan p, fNV)
  | some x => if isNan c then (ffNan p, snanFlag [c]) else fAdd p rnd sat x c

/-- Order of two finite or infinite values with -0 below +0 (R113): true when a comes before b. -/
def fLess (zeros : Bool) (a b : FVal) : Bool :=
  match a, b with
  | .inf n1, .inf n2 => n1 && !n2
  | .inf n1, .fin _ _ _ => n1
  | .fin _ _ _, .inf n2 => !n2
  | .fin n1 m1 e1, .fin n2 m2 e2 =>
    if m1 == 0 && m2 == 0 then zeros && n1 && !n2
    else
      let e := min e1 e2
      let x : Int := (if n1 then -1 else 1) * ((m1 * 2 ^ (e1 - e).toNat : Nat) : Int)
      let y : Int := (if n2 then -1 else 1) * ((m2 * 2 ^ (e2 - e).toNat : Nat) : Int)
      decide (x < y)
  | _, _ => false

/-- The smaller or larger of two encodings by R113, with its flag. -/
def fMinMax (p : FF) (isMax : Bool) (x y : Nat) : Nat × BitVec 5 :=
  let a := ffDecode p x
  let b := ffDecode p y
  if isSNan a || isSNan b then (ffNan p, fNV)
  else if isNan a && isNan b then (ffNan p, 0)
  else if isNan a then (y, 0)
  else if isNan b then (x, 0)
  else if isMax then (if fLess true a b then y else x, 0)
  else (if fLess true b a then y else x, 0)

/-! ### L6 (R33, R34) and SC8 (R36) -/

/-- The L6 linear table in Q1.31 (R33). -/
def l6T (f : Nat) : Nat :=
  if f == 0 then 0x80000000 else if f == 1 then 0x9837F052 else if f == 2 then 0xB504F334 else 0xD744FCCB

/-- The logarithm field of an L6 code. -/
def l6E (x : Nat) : Int := sextN x 5

def l6Zero (x : Nat) : Bool := x % 32 == 16

/-- The exact value of an L6 code (R33). -/
def l6Val (x : Nat) : FVal :=
  let neg := bitsN x 5 1 == 1
  if l6Zero x then .fin neg 0 0
  else .fin neg (l6T (Int.toNat (l6E x % 4))) (l6E x / 4 - 31)

/-- The magnitude of logarithm `e` in units of 2 ^ -35. -/
def l6Mag (e : Int) : Nat := l6T (Int.toNat (e % 4)) * 2 ^ (e / 4 + 4).toNat

/-- `round(x, L6, rnd)` of R34 for the exact magnitude `n / d * 2 ^ e`, with its flags. -/
def l6Round (rnd : Nat) (neg : Bool) (n d : Nat) (e : Int) : Nat × BitVec 5 :=
  let s := if neg then 32 else 0
  if n == 0 then (s + 16, 0) else
  -- the magnitude in units of 2 ^ -35 is num / den
  let num := if e + 35 ≥ 0 then n * 2 ^ (e + 35).toNat else n
  let den := if e + 35 ≥ 0 then d else d * 2 ^ (-(e + 35)).toNat
  if num > l6Mag 15 * den then (s + 15, fOF ||| fNX) else
  -- the largest code value at or below the magnitude, and the next above it
  let below := (List.range 31).filter fun k => l6Mag (Int.ofNat k - 15) * den ≤ num
  let k := below.length                            -- codes e = -15 .. k - 16 lie at or below
  let lo := if k == 0 then 0 else l6Mag ((k : Int) - 16)
  let loCode := if k == 0 then 16 else wrapN ((k : Int) - 16) 5
  if num == lo * den then (s + loCode, 0) else
  let hi := l6Mag ((k : Int) - 15)
  let hiCode := wrapN ((k : Int) - 15) 5
  let dl := num - lo * den
  let dh := hi * den - num
  let up :=
    if rnd == 0 then dl > dh || (dl == dh && loCode % 2 == 1)
    else if rnd == 1 then false
    else if rnd == 2 then neg
    else if rnd == 3 then !neg
    else dl ≥ dh
  (s + (if up then hiCode else loCode), fNX ||| (if k == 0 then fUF else 0))

/-- The factor 2 ^ (k / 4) of an SC8 scale as mantissa and exponent: T[f] * 2 ^ (i - 31) (R37). -/
def sc8Factor (k : Int) : Nat × Int := (l6T (Int.toNat (k % 4)), k / 4 - 31)

/-! ### Conversion (R31, R32, R118) -/

/-- The exact value of a sub-element of any format but SC8. -/
def fmtValue (t : Nat) (x : Nat) : FVal :=
  if t == 0x0E then l6Val x
  else if fmtFloat t then ffDecode (ffOf t) x
  else .fin (decide (toInt t x < 0)) (toInt t x).natAbs 0

/-- `round(x, fmt, rnd)` of an exact value into a float format or L6, with SAT and flags. -/
def roundTo (t rnd : Nat) (sat : Bool) (neg : Bool) (n d : Nat) (e : Int) : Nat × BitVec 5 :=
  if t == 0x0E then l6Round rnd neg n d e else ffRound (ffOf t) rnd sat neg n d e

/-- The exact value rounded to an integer by a mode: magnitude and whether it was inexact (R31). -/
def toIntegral (rnd : Nat) (neg : Bool) (m : Nat) (e : Int) : Nat × Bool :=
  if e ≥ 0 then (m * 2 ^ e.toNat, false) else (roundMag rnd neg m (2 ^ (-e).toNat), m % 2 ^ (-e).toNat != 0)

/-- `convert` of R118: source format and bits to result format. -/
def convert (ts td rnd : Nat) (sat : Bool) (x : Nat) : Nat × BitVec 5 :=
  if fmtIntAddr td then
    if fmtIntAddr ts then (fitInt td sat (toInt ts x), 0)
    else match fmtValue ts x with
      | .nan _ => (0, fNV)
      | .inf neg =>
        (wrapN (if neg then satInt (-(2 ^ 80)) (fmtWidth td) (fmtSigned td)
                else satInt (2 ^ 80) (fmtWidth td) (fmtSigned td)) (fmtWidth td), fNV)
      | .fin neg m e =>
        let r := toIntegral rnd neg m e
        let y : Int := if neg then -(r.1 : Int) else r.1
        let outside := satInt y (fmtWidth td) (fmtSigned td) != y
        (fitInt td sat y, (if r.2 then fNX else 0) ||| (if outside then fNV else 0))
  else if td == 0x0E then
    match fmtValue ts x with
    | .nan _ => (16, fNV)
    | .inf neg => ((if neg then 32 else 0) + 15, fOF ||| fNX)
    | .fin neg m e => l6Round rnd neg m 1 e
  else
    match fmtValue ts x with
    | .nan s => (ffNan (ffOf td), if s then fNV else 0)
    | .inf neg =>
      if sat then (ffMax (ffOf td) neg, fNX)
      else if (ffOf td).hasInf then (ffInf (ffOf td) neg, 0) else (ffNan (ffOf td), fNV)
    | .fin neg m e => ffRound (ffOf td) rnd sat neg m 1 e

/-- An exact integer brought into an operand format (R51): wrap, or round to nearest even. L6, which is logarithmic, counts as a
float format and takes the rounding of R34, and SC8, a scale byte, as an integer one that wraps; a rounding of an operand sets no
float flag (DESIGN CHOICE, log entry 116). -/
def specialInto (t : Nat) (x : Int) : Nat :=
  if t == 0x0E then (l6Round 0 (decide (x < 0)) x.natAbs 1 0).1
  else if fmtFloat t then (ffRound (ffOf t) 0 false (decide (x < 0)) x.natAbs 1 0).1
  else wrapN x (fmtWidth t)

/-- The value of an immediate in an operand format (R50); `none` where the content faults with ILLOP. An F32 NaN that is widened to
F64 becomes the canonical quiet NaN (DESIGN CHOICE, log entry 93). -/
def immInto (t : Nat) (imm : Nat) : Option Nat :=
  let w := fmtWidth t
  if w < 32 then
    if imm / 2 ^ w == 0 then some imm
    else if (fmtSigned t) && bitsN imm (w - 1) 1 == 1 && imm / 2 ^ w == 2 ^ (32 - w) - 1 then some (imm % 2 ^ w)
    else none
  else if w == 32 then some imm
  else if t == 0x13 then some (convert 0x12 0x13 0 false imm).1
  else if t == 9 then some imm
  else some (wrapN (sextN imm 32) 64)

end Sys2Proof.Machine
end

