-- ==== Sys2Proof/Machine/Cordic.lean ====
section
/-! DEFINITION. The CORDIC unit and the transcendental functions (R126-R138, R198). The tables hold the constants of R127,
computed from their definitions outside Lean (log entry 20). A real is a pair (m, e) standing for m * 2 ^ e. -/
namespace Sys2Proof.Machine

/-- e(circular, i) for i = 0, 1, ... (R127), in units of 2 ^ -62. -/
def cordicCirc : List Nat :=
  [0x3243F6A8885A308D, 0x1DAC670561BB4F69, 0x0FADBAFC96406EB1, 0x07F56EA6AB0BDB72,
   0x03FEAB76E59FBD39, 0x01FFD55BBA97624B, 0x00FFFAAADDDB94D6, 0x007FFF5556EEEA5D,
   0x003FFFEAAAB7776E, 0x001FFFFD5555BBBC, 0x000FFFFFAAAAADDE, 0x0007FFFFF555556F,
   0x0003FFFFFEAAAAAB, 0x0001FFFFFFD55555, 0x0000FFFFFFFAAAAB, 0x00007FFFFFFF5555,
   0x00003FFFFFFFEAAB, 0x00001FFFFFFFFD55, 0x00000FFFFFFFFFAB, 0x000007FFFFFFFFF5,
   0x000003FFFFFFFFFF, 0x0000020000000000, 0x0000010000000000, 0x0000008000000000,
   0x0000004000000000, 0x0000002000000000, 0x0000001000000000, 0x0000000800000000,
   0x0000000400000000, 0x0000000200000000, 0x0000000100000000, 0x0000000080000000,
   0x0000000040000000, 0x0000000020000000, 0x0000000010000000, 0x0000000008000000,
   0x0000000004000000, 0x0000000002000000, 0x0000000001000000, 0x0000000000800000,
   0x0000000000400000, 0x0000000000200000, 0x0000000000100000, 0x0000000000080000,
   0x0000000000040000, 0x0000000000020000, 0x0000000000010000, 0x0000000000008000]

/-- e(hyperbolic, i) for i = 0 (unused), 1, 2, ... (R127). -/
def cordicHyp : List Nat :=
  [0x0000000000000000, 0x2327D4F55A06152F, 0x1058AEFA811451A7, 0x080AC48E4F577BB5,
   0x04015622B4DD6B37, 0x02002AB11235DC49, 0x01000555888AD1CA, 0x008000AAAC4448D7,
   0x004000155562222B, 0x00200002AAAB1111, 0x0010000055555889, 0x000800000AAAAAC4,
   0x0004000001555556, 0x00020000002AAAAB, 0x0001000000055555, 0x000080000000AAAB,
   0x0000400000001555, 0x00002000000002AB, 0x0000100000000055, 0x000008000000000B,
   0x0000040000000001, 0x0000020000000000, 0x0000010000000000, 0x0000008000000000,
   0x0000004000000000, 0x0000002000000000, 0x0000001000000000, 0x0000000800000000,
   0x0000000400000000, 0x0000000200000000, 0x0000000100000000, 0x0000000080000000,
   0x0000000040000000, 0x0000000020000000, 0x0000000010000000, 0x0000000008000000,
   0x0000000004000000, 0x0000000002000000, 0x0000000001000000, 0x0000000000800000,
   0x0000000000400000, 0x0000000000200000, 0x0000000000100000, 0x0000000000080000,
   0x0000000000040000, 0x0000000000020000, 0x0000000000010000, 0x0000000000008000]

/-- kc[n] for n = 8 to 48 (R127). -/
def cordicKc : List Nat :=
  [0x26DD5552E1641DEF, 0x26DD41E4454DA117, 0x26DD3D089DFA47C8, 0x26DD3BD1B42095CF,
   0x26DD3B83F9A9DB96, 0x26DD3B708B0C282C, 0x26DD3B6BAF64BB04, 0x26DD3B6A787ADFB5,
   0x26DD3B6A2AC068E1, 0x26DD3B6A1751CB2C, 0x26DD3B6A127623BE, 0x26DD3B6A113F39E3,
   0x26DD3B6A10F17F6C, 0x26DD3B6A10DE10CF, 0x26DD3B6A10D93527, 0x26DD3B6A10D7FE3D,
   0x26DD3B6A10D7B083, 0x26DD3B6A10D79D14, 0x26DD3B6A10D79839, 0x26DD3B6A10D79702,
   0x26DD3B6A10D796B4, 0x26DD3B6A10D796A0, 0x26DD3B6A10D7969C, 0x26DD3B6A10D7969A,
   0x26DD3B6A10D7969A, 0x26DD3B6A10D7969A, 0x26DD3B6A10D7969A, 0x26DD3B6A10D7969A,
   0x26DD3B6A10D7969A, 0x26DD3B6A10D7969A, 0x26DD3B6A10D7969A, 0x26DD3B6A10D7969A,
   0x26DD3B6A10D7969A, 0x26DD3B6A10D7969A, 0x26DD3B6A10D7969A, 0x26DD3B6A10D7969A,
   0x26DD3B6A10D7969A, 0x26DD3B6A10D7969A, 0x26DD3B6A10D7969A, 0x26DD3B6A10D7969A,
   0x26DD3B6A10D7969A]

/-- kh[n] for n = 8 to 48 (R127). -/
def cordicKh : List Nat :=
  [0x4D476E3940D89F12, 0x4D4794DD14F020FB, 0x4D479E86095B7176, 0x4D47A0F0466C9C9E,
   0x4D47A18AD5B04CD9, 0x4D47A1B179812F3F, 0x4D47A1BB2275673D, 0x4D47A1C4CB69A071,
   0x4D47A1C735A6AEB5, 0x4D47A1C7D035F245, 0x4D47A1C7F6D9C329, 0x4D47A1C80082B762,
   0x4D47A1C802ECF470, 0x4D47A1C8038783B4, 0x4D47A1C803AE2785, 0x4D47A1C803B7D079,
   0x4D47A1C803BA3AB6, 0x4D47A1C803BAD545, 0x4D47A1C803BAFBE9, 0x4D47A1C803BB0592,
   0x4D47A1C803BB07FC, 0x4D47A1C803BB0897, 0x4D47A1C803BB08BD, 0x4D47A1C803BB08C7,
   0x4D47A1C803BB08CA, 0x4D47A1C803BB08CA, 0x4D47A1C803BB08CA, 0x4D47A1C803BB08CA,
   0x4D47A1C803BB08CA, 0x4D47A1C803BB08CA, 0x4D47A1C803BB08CA, 0x4D47A1C803BB08CA,
   0x4D47A1C803BB08CA, 0x4D47A1C803BB08CA, 0x4D47A1C803BB08CA, 0x4D47A1C803BB08CA,
   0x4D47A1C803BB08CA, 0x4D47A1C803BB08CA, 0x4D47A1C803BB08CA, 0x4D47A1C803BB08CA,
   0x4D47A1C803BB08CA]

/-- rne62 of ln 2 (R127). -/
def cLN2 : Int := 0x2C5C85FDF473DE6B

/-- rne62 of log2 e (R127). -/
def cLOG2E : Int := 0x5C551D94AE0BF85E

/-- rne62 of pi / 2 (R127). -/
def cPIO2 : Int := 0x6487ED5110B4611A

/-- rne62 of pi (R127). -/
def cPI : Int := 0xC90FDAA22168C235

/-- rne62 of 1.702 (R127). -/
def cGELUK : Int := 0x6CED916872B020C5

/-- 2 / pi rounded to nearest with 1,152 fractional bits (R127). -/
def cTWOOVERPI : Int := 0xA2F9836E4E441529FC2757D1F534DDC0DB6295993C439041FE5163ABDEBBC561B7246E3A424DD2E006492EEA09D1921CFE1DEB1CB129A73EE88235F52EBB4484E99C7026B45F7E413991D639835339F49C845F8BBDF9283B1FF897FFDE05980FEF2F118B5A0A6D1F6D367ECF27CB09B74F463F669E5FEA2D7527BAC7EBE5F17B3D0739F78A5292EA6BFB5FB11F8D5D08


/-- The real `m * 2 ^ e` in units of 2 ^ -62, nearest even: `rne62` (R126). -/
def rne62 (m e : Int) : Int :=
  if e + 62 ≥ 0 then m * 2 ^ (e + 62).toNat
  else
    let d : Int := 2 ^ (-(e + 62)).toNat
    let q := m / d
    let r := m % d
    if 2 * r > d || (2 * r == d && q % 2 == 1) then q + 1 else q

/-- floor of the real `m * 2 ^ e`. -/
def floorR (m e : Int) : Int := if e ≥ 0 then m * 2 ^ e.toNat else m / 2 ^ (-e).toNat

/-- The real rounded to an integer, ties to even. -/
def rneInt (m e : Int) : Int :=
  if e ≥ 0 then m * 2 ^ e.toNat
  else
    let d : Int := 2 ^ (-e).toNat
    let q := m / d
    let r := m % d
    if 2 * r > d || (2 * r == d && q % 2 == 1) then q + 1 else q

inductive CMode where
  | circ
  | hyp
  | lin
  deriving DecidableEq, Repr

/-- The hyperbolic step sequence: 1, 2, ... with 4, 13 and 40 repeated (R126). -/
def hypSeq : List Nat :=
  [1, 2, 3, 4, 4, 5, 6, 7, 8, 9, 10, 11, 12, 13, 13, 14, 15, 16, 17, 18, 19, 20, 21, 22, 23, 24, 25, 26, 27, 28, 29, 30,
   31, 32, 33, 34, 35, 36, 37, 38, 39, 40, 40, 41, 42, 43, 44, 45]

def cordicSeq (m : CMode) (n : Nat) : List Nat :=
  match m with
  | .hyp => hypSeq.take n
  | _ => List.range n

/-- e(mode, i) of R127. -/
def cordicE (m : CMode) (i : Nat) : Int :=
  match m with
  | .circ => (cordicCirc.getD i 0 : Nat)
  | .hyp => (cordicHyp.getD i 0 : Nat)
  | .lin => 2 ^ (62 - i)

/-- One pass of R126 over the given steps. Its integers do not wrap: where an argument takes x past 2 - 2^-62, as `vatan2` of two
nearly equal magnitudes does, it grows past 64 bits (DESIGN CHOICE, log entry 95). -/
def cordicRun (m : CMode) (rotate : Bool) : List Nat → Int × Int × Int → Int × Int × Int
  | [], r => r
  | i :: is, (x, y, z) =>
    let d : Int := if rotate then (if z ≥ 0 then 1 else -1) else (if y < 0 then 1 else -1)
    let xs := x / 2 ^ i
    let ys := y / 2 ^ i
    let mm : Int := match m with | .circ => 1 | .hyp => -1 | .lin => 0
    cordicRun m rotate is (x - mm * d * ys, y + d * xs, z - d * cordicE m i)

def cordic (m : CMode) (rotate : Bool) (x y z : Int) (n : Nat) : Int × Int × Int :=
  cordicRun m rotate (cordicSeq m n) (x, y, z)

def kcN (n : Nat) : Int := (cordicKc.getD (n - 8) 0 : Nat)
def khN (n : Nat) : Int := (cordicKh.getD (n - 8) 0 : Nat)

/-- exp_core (R132) of the real `m * 2 ^ e`: (q, m). The integer part is clamped to -20,000 to 20,000, which lies far
outside every format the value is rounded to, so no rounded result depends on the clamp. -/
def expCore (n : Nat) (m e : Int) : Int × Int :=
  let q := floorR m e
  let f := if e ≥ 0 then 0 else rne62 (m - q * 2 ^ (-e).toNat) e
  let one : Int := 2 ^ 62
  let q' := if f == one then q + 1 else q
  let qc := max (-20000) (min 20000 q')
  if f == one || f == 0 then (qc, one)
  else
    let r := cordic .hyp true (khN n) 0 (rne62 (f * cLN2) (-124)) n
    (qc, r.1 + r.2.1)

/-- The value of exp_core as an F32, e2 of R198, for an exact real. -/
def e2Fin (m e : Int) : Nat :=
  let r := expCore 24 m e
  (ffRound ffF32 0 false false r.2.toNat 1 (r.1 - 62)).1

/-- The operand as a signed mantissa. -/
def smant (neg : Bool) (m : Nat) : Int := if neg then -(m : Int) else m

/-- Normalise a positive mantissa: the exponent k with m * 2 ^ e = g * 2 ^ k, 1 ≤ g < 2. -/
def expOf (m : Nat) (e : Int) : Int := (m.log2 : Int) + e

/-- The real m * 2 ^ (e - k) as an integer multiple of 2 ^ -62, by rne62. -/
def scaled62 (m e k : Int) : Int := rne62 m (e - k)

/-- vlog2 and vln (R133): the value as (m, e). -/
def logVal (isLn : Bool) (n m : Nat) (e : Int) : Int × Int :=
  -- g * 2 ^ k with 0.75 ≤ g < 1.5
  let k0 := expOf m e
  let k := if 2 * m ≥ 3 * 2 ^ m.log2 then k0 + 1 else k0
  -- (g + 1) / 2 and (g - 1) / 2, exact
  let g : Int := m                              -- g = m * 2 ^ (e - k)
  let den : Int := 2 ^ (k - e).toNat
  let up := (k - e) ≥ 0
  let x := if up then rne62 (g + den) (e - k - 1) else rne62 (g * 2 ^ (e - k).toNat + 1) (-1)
  let y := if up then rne62 (g - den) (e - k - 1) else rne62 (g * 2 ^ (e - k).toNat - 1) (-1)
  let r := cordic .hyp false x y 0 n
  if isLn then (k * cLN2 + 2 * r.2.2, -62)
  else (k * 2 ^ 124 + 2 * r.2.2 * cLOG2E, -124)

/-- vsin and vcos (R134). -/
def sinCosVal (isCos : Bool) (n : Nat) (m e : Int) : Int × Int :=
  let um := m * cTWOOVERPI
  let ue := e - 1152
  let j := rneInt um ue
  -- u - j as (um - j * 2 ^ -ue) * 2 ^ ue, with ue < 0, or zero
  let dm := if ue ≥ 0 then 0 else um - j * 2 ^ (-ue).toNat
  let z := rne62 (dm * cPIO2) (ue - 62)
  let r := cordic .circ true (kcN n) 0 z n
  let q := (j % 4).toNat
  let v :=
    if isCos then (if q == 0 then r.1 else if q == 1 then -r.2.1 else if q == 2 then -r.1 else r.2.1)
    else (if q == 0 then r.2.1 else if q == 1 then r.1 else if q == 2 then -r.2.1 else -r.1)
  (v, -62)

/-- vatan2 (R135) of finite a = (na, ma, ea), b = (nb, mb, eb), not both zero. -/
def atan2Val (n : Nat) (na : Bool) (ma : Nat) (ea : Int) (nb : Bool) (mb : Nat) (eb : Int) : Int × Int :=
  let ta := if ma == 0 then none else some (expOf ma ea + 1)
  let tb := if mb == 0 then none else some (expOf mb eb + 1)
  -- 0.5 ≤ max * 2 ^ t < 1, so -t is the larger exponent plus 1
  let s := match ta, tb with
    | some x, some y => max x y
    | some x, none => x
    | none, some y => y
    | none, none => 0
  let x := rne62 (mb : Int) (eb - s)
  let y := rne62 (smant na ma) (ea - s)
  let r := cordic .circ false x y 0 n
  if !nb then (r.2.2, -62)
  else ((if na then -cPI else cPI) - r.2.2, -62)

/-- vsqrt's pass (R136): x * kh[n] as (m, e) without the factor 2 ^ k, and k. -/
def sqrtCore (n m : Nat) (e : Int) : Int × Int × Int :=
  -- 0.25 ≤ g < 1 with a = g * 2 ^ (2k)
  let p := expOf m e                            -- 2 ^ p ≤ a < 2 ^ (p + 1)
  let k := (p + 2) / 2                          -- g = a * 2 ^ (-2k), p - 2k in {-2, -1}
  let ge := e - 2 * k
  let quarter : Int := 2 ^ 60
  let g := rne62 (m : Int) ge                   -- exact: at most 53 fraction bits below 2 ^ -2
  let r := cordic .hyp false (g + quarter) (g - quarter) 0 n
  (r.1 * khN n, -124, k)

/-- The linear division pass (R136): z for gb / 2 and ga / 2. -/
def divPass (n : Nat) (x y : Int) : Int := (cordic .lin false x y 0 n).2.2

/-- vdiv (R136) on magnitudes: the value as (m, e). -/
def divVal (n ma : Nat) (ea : Int) (mb : Nat) (eb : Int) : Int × Int :=
  let ka := expOf ma ea
  let kb := expOf mb eb
  let z := divPass n (rne62 mb (eb - kb - 1)) (rne62 ma (ea - ka - 1))
  (z, ka - kb - 62)

/-- vrsqrt (R136). -/
def rsqrtVal (n m : Nat) (e : Int) : Int × Int :=
  let s := sqrtCore n m e
  let w := rne62 s.1 s.2.1                      -- value divided by 2 ^ k
  let d := divVal n 1 0 w.toNat (-62)
  (d.1, d.2 - s.2.2)

/-- w of R137: rne62 of exp_core's value for the exact real. -/
def expW (n : Nat) (m e : Int) : Int :=
  let r := expCore n m e
  rne62 r.2 (r.1 - 62)

/-- vsigm's z (R137) for an exact real argument `m * 2 ^ e`. -/
def sigmZ (n : Nat) (m e : Int) : Int :=
  let w := expW n (-(m.natAbs : Int) * cLOG2E) (e - 62)
  let one : Int := 2 ^ 62
  divPass n (rne62 (one + w) (-63)) (if m ≥ 0 then rne62 one (-63) else rne62 w (-63))

/-- vtanh (R137). Where the division pass ends with a negative z, `z with the sign of a` is read as sign(a) times z (DESIGN CHOICE,
log entry 94). -/
def tanhVal (n : Nat) (m e : Int) : Int × Int :=
  let w := expW n (-2 * (m.natAbs : Int) * cLOG2E) (e - 62)
  let one : Int := 2 ^ 62
  let z := divPass n (rne62 (one + w) (-63)) (rne62 (one - w) (-63))
  (if m ≥ 0 then z else -z, -62)

/-- The functions of group 0x6 with one operand, and the pair functions. -/
inductive TFun where
  | exp2 | exp | log2 | ln | sin | cos | atan2 | tanh | sigm | silu | gelu | sqrt | rsqrt | rcp | div
  deriving DecidableEq, Repr

/-- Whether a finite magnitude is a power of two, and which. -/
def pow2? (m : Nat) (e : Int) : Option Int := if m != 0 && m == 2 ^ m.log2 then some (expOf m e) else none

/-- An exact value delivered as a special result: `round` of it, or the format's infinity or NaN (R130). -/
def tSpecial (p : FF) (rnd : Nat) (sat : Bool) (v : FVal) (fl : BitVec 5) : Nat × BitVec 5 :=
  match v with
  | .nan _ => (ffNan p, fl)
  | .inf neg => let r := ffInfSat p sat neg; (r.1, r.2 ||| fl)
  | .fin neg m e => let r := ffRound p rnd sat neg m 1 e; (r.1, r.2 ||| fl)

/-- A computed result (R130): rounded, NX always set. -/
def tComputed (p : FF) (rnd : Nat) (sat : Bool) (v : Int × Int) : Nat × BitVec 5 :=
  let r := ffRound p rnd sat (decide (v.1 < 0)) v.1.natAbs 1 v.2
  (r.1, r.2 ||| fNX)

/-- pi * c / 4 rounded, with a sign (R131). -/
def tPi (p : FF) (rnd : Nat) (sat neg : Bool) (c : Nat) : Nat × BitVec 5 :=
  tComputed p rnd sat ((if neg then -1 else 1) * cPI * c, -64)

/-- One sub-element of a transcendental instruction (R130-R137): operands a and b (b = a where there is none). -/
def tEval (fn : TFun) (p : FF) (rnd : Nat) (sat : Bool) (n : Nat) (a b : FVal) : Nat × BitVec 5 :=
  let sp := tSpecial p rnd sat
  let cp := tComputed p rnd sat
  let pair := fn == .atan2 || fn == .div
  if isNan a || (pair && isNan b) then (ffNan p, if pair then snanFlag [a, b] else snanFlag [a]) else
  match fn, a with
  | .exp2, .inf neg => sp (if neg then .fin false 0 0 else .inf false) 0
  | .exp2, .fin neg m e =>
    if m == 0 || e ≥ 0 || (m : Int) % 2 ^ (-e).toNat == 0 then
      sp (.fin false 1 (max (-20000) (min 20000 (floorR (smant neg m) e)))) 0
    else let r := expCore n (smant neg m) e; cp (r.2, r.1 - 62)
  | .exp, .inf neg => sp (if neg then .fin false 0 0 else .inf false) 0
  | .exp, .fin neg m e =>
    if m == 0 then sp (.fin false 1 0) 0
    else let r := expCore n (smant neg m * cLOG2E) (e - 62); cp (r.2, r.1 - 62)
  | .log2, .inf neg => if neg then sp (.nan false) fNV else sp (.inf false) 0
  | .log2, .fin neg m e =>
    if m == 0 then sp (.inf true) fDZ
    else if neg then sp (.nan false) fNV
    else match pow2? m e with
      | some k => sp (.fin (decide (k < 0)) k.natAbs 0) 0
      | none => cp (logVal false n m e)
  | .ln, .inf neg => if neg then sp (.nan false) fNV else sp (.inf false) 0
  | .ln, .fin neg m e =>
    if m == 0 then sp (.inf true) fDZ
    else if neg then sp (.nan false) fNV
    else if pow2? m e == some 0 then sp (.fin false 0 0) 0
    else cp (logVal true n m e)
  | .sin, .inf _ => sp (.nan false) fNV
  | .sin, .fin neg m e => if m == 0 then sp (.fin neg 0 0) 0 else cp (sinCosVal false n (smant neg m) e)
  | .cos, .inf _ => sp (.nan false) fNV
  | .cos, .fin neg m e => if m == 0 then sp (.fin false 1 0) 0 else cp (sinCosVal true n (smant neg m) e)
  | .tanh, .inf neg => sp (.fin neg 1 0) 0
  | .tanh, .fin neg m e => if m == 0 then sp (.fin neg 0 0) 0 else cp (tanhVal n (smant neg m) e)
  | .sigm, .inf neg => sp (if neg then .fin false 0 0 else .fin false 1 0) 0
  | .sigm, .fin neg m e => cp (sigmZ n (smant neg m) e, -62)
  | .silu, .inf neg => sp (if neg then .fin true 0 0 else .inf false) 0
  | .silu, .fin neg m e =>
    if m == 0 then sp (.fin neg 0 0) 0 else cp (smant neg m * sigmZ n (smant neg m) e, e - 62)
  | .gelu, .inf neg => sp (if neg then .fin true 0 0 else .inf false) 0
  | .gelu, .fin neg m e =>
    if m == 0 then sp (.fin neg 0 0) 0
    else cp (smant neg m * sigmZ n (smant neg m * cGELUK) (e - 62), e - 62)
  | .sqrt, .inf neg => if neg then sp (.nan false) fNV else sp (.inf false) 0
  | .sqrt, .fin neg m e =>
    if m == 0 then sp (.fin neg 0 0) 0
    else if neg then sp (.nan false) fNV
    else let s := sqrtCore n m e; cp (s.1, s.2.1 + s.2.2)
  | .rsqrt, .inf neg => if neg then sp (.nan false) fNV else sp (.fin false 0 0) 0
  | .rsqrt, .fin neg m e =>
    if m == 0 then sp (.inf neg) fDZ
    else if neg then sp (.nan false) fNV
    else cp (rsqrtVal n m e)
  | .rcp, .inf neg => sp (.fin neg 0 0) 0
  | .rcp, .fin neg m e =>
    if m == 0 then sp (.inf neg) fDZ
    else let r := divVal n 1 0 m e; cp (if neg then -r.1 else r.1, r.2)
  | .div, .inf na =>
    match b with
    | .fin nb _ _ => sp (.inf (na != nb)) 0
    | _ => sp (.nan false) fNV
  | .div, .fin na ma ea =>
    match b with
    | .inf nb => sp (.fin (na != nb) 0 0) 0
    | .fin nb mb eb =>
      if mb == 0 then (if ma == 0 then sp (.nan false) fNV else sp (.inf (na != nb)) fDZ)
      else if ma == 0 then sp (.fin (na != nb) 0 0) 0
      else let r := divVal n ma ea mb eb; cp (if na != nb then -r.1 else r.1, r.2)
    | .nan _ => (ffNan p, 0)
  | .atan2, .inf na =>
    match b with
    | .inf nb => tPi p rnd sat na (if nb then 3 else 1)
    | _ => tPi p rnd sat na 2
  | .atan2, .fin na ma ea =>
    match b with
    | .inf nb => if nb then tPi p rnd sat na 4 else sp (.fin na 0 0) 0
    | .fin nb mb eb =>
      if ma == 0 then (if nb then tPi p rnd sat na 4 else sp (.fin na 0 0) 0)
      else cp (atan2Val n na ma ea nb mb eb)
    | .nan _ => (ffNan p, 0)
  | _, .nan _ => (ffNan p, 0)

end Sys2Proof.Machine
end

