-- ==== Sys2Proof/Config.lean ====
section
/-! DEFINITION. The free values: what the spec leaves open. None of them has a body, so no proof can rest on a value.
Every use is applied to a counter held in State or to the operands the value depends on (log entries 4, 5 and 6). -/
namespace Sys2Proof.Config

/-- Which of the allowed outcomes an early read (R245), an unordered pair of writes (R246) or a colliding pair of
writes (R246) takes: the argument is a fresh number, the result is reduced modulo the number of outcomes. -/
opaque freePick : Nat → Nat

/-- One byte of the XMSS signature of a message under a device's identity key (R462, R463): arguments are the package, the
one-time index, the byte's position and the message. The key is a secret of the device. -/
opaque xmssByte : Nat → Nat → Nat → List Byte → Byte

/-- One byte of the SHAKE256 digest of firmware image `k` (R465): arguments are the image and the byte's position. -/
opaque firmwareDigest : Nat → Nat → Byte

/-- ADDR of a posted record whose fault has no failing byte (R319): a fault of a decode check, of a barrier's launch
condition and the like. The argument is a fresh number (log entry 17). -/
opaque faultAddr : Nat → Word

/-- A byte that only a lost dirty line held: what the reset of its die leaves there (R370). Arguments: a fresh number and
the byte's place in the line (log entry 18). -/
opaque lostByte : Nat → Nat → Byte

end Sys2Proof.Config
end

