-- ==== Sys2Proof/Machine/Ops.lean ====
section
/-! DEFINITION. The named operations over the machine's components, the register files and lanes of a warp, the commitment
of an issued instruction, and taking a fault: the one operation by which an instruction's lanes park (R154, R345, R435). -/
namespace Sys2Proof.Machine

/-! ### Components and their keys -/

def dieOf (core : Nat) : Nat := core / 32
def pkgOfCore (core : Nat) : Nat := core / 256
def pkgOfDie (die : Nat) : Nat := die / 8
def quadOf (core : Nat) : Nat := core / 4

def State.core (s : State) (k : Nat) : Core := (aget s.cores k).getD Core.reset
def State.die (s : State) (k : Nat) : Die := (aget s.dies k).getD Die.reset
def State.pkg (s : State) (k : Nat) : Pkg := (aget s.pkgs k).getD Pkg.reset
def State.link (s : State) (k : Nat) : Link := (aget s.links k).getD Link.reset
def State.dirEnt (s : State) (g : Nat) : DirEnt := (aget s.dir g).getD DirEnt.reset

def State.setCore (s : State) (k : Nat) (c : Core) : State := { s with cores := aset s.cores k c }
def State.setDie (s : State) (k : Nat) (d : Die) : State := { s with dies := aset s.dies k d }
def State.setPkg (s : State) (k : Nat) (p : Pkg) : State := { s with pkgs := aset s.pkgs k p }
def State.setLink (s : State) (k : Nat) (l : Link) : State := { s with links := aset s.links k l }
def State.setDir (s : State) (g : Nat) (e : DirEnt) : State := { s with dir := aset s.dir g e }
def State.setWarp (s : State) (k : Nat) (w : Warp) : State := { s with warps := aset s.warps k w }
def State.setGroup (s : State) (k : Nat) (g : Group) : State := { s with groups := aset s.groups k g }
def State.setLaunch (s : State) (k : Nat) (l : Launch) : State := { s with launches := aset s.launches k l }
def State.modWarp (s : State) (k : Nat) (g : Warp → Warp) : State := { s with warps := amod s.warps k g }
def State.modGroup (s : State) (k : Nat) (g : Group → Group) : State := { s with groups := amod s.groups k g }
def State.modLaunch (s : State) (k : Nat) (g : Launch → Launch) : State := { s with launches := amod s.launches k g }
def State.modCore (s : State) (k : Nat) (g : Core → Core) : State := s.setCore k (g (s.core k))
def State.modDie (s : State) (k : Nat) (g : Die → Die) : State := s.setDie k (g (s.die k))
def State.modPkg (s : State) (k : Nat) (g : Pkg → Pkg) : State := s.setPkg k (g (s.pkg k))
def State.modLink (s : State) (k : Nat) (g : Link → Link) : State := s.setLink k (g (s.link k))
def State.modDir (s : State) (g : Nat) (h : DirEnt → DirEnt) : State := s.setDir g (h (s.dirEnt g))

/-- A fresh free value, one of `n` (Config.freePick), and the state that has used it. -/
def State.pick (s : State) (n : Nat) : Nat × State := (Config.freePick (s.freeN * 512) % n, { s with freeN := s.freeN + 1 })

/-! ### Memory -/

/-- Bytes of memory from a key upward. -/
def State.bytes (s : State) (k : Nat) : Nat → List Byte
  | 0 => []
  | n + 1 => memGet s.mem k :: s.bytes (k + 1) n

def State.le (s : State) (k n : Nat) : Nat := leNat (s.bytes k n)

def State.write (s : State) (ws : List (Nat × Byte)) : State := { s with mem := memSetAll s.mem ws }

def State.writeLe (s : State) (k n x : Nat) : State := s.write (atAddrs k (leBytes n x))

/-- Key of a byte of a package's capacity tier. -/
def capKey (pkg off : Nat) : Nat := 2 ^ 60 + pkg * 2 ^ 56 + off

/-- Key of a byte of a core's scratchpad (1 MiB each). -/
def spadKey (core off : Nat) : Nat := 2 ^ 80 + core * 2 ^ 20 + off % 2 ^ 20

def isSpadKey (k : Nat) : Bool := 2 ^ 80 ≤ k

def isCapKey (k : Nat) : Bool := 2 ^ 60 ≤ k && k < 2 ^ 80

/-- The enabled ports of a role, as the last bring-up put them in force (R394). -/
def Pkg.cxlPorts (p : Pkg) (expander : Bool) : List Nat :=
  (List.range 12).filter fun i => p.cxlRun.getLsbD i && p.cxlRun.getLsbD (16 + i) == expander

/-- The port and the device offset of a CAP offset (R396): granules of 256 bytes go round the enabled expander ports. -/
def Pkg.capPlace (p : Pkg) (o : Nat) : Nat × Nat :=
  let es := p.cxlPorts true
  (es.getD (o / 256 % max es.length 1) 0, o / 256 / max es.length 1 * 256 + o % 256)

/-- The CAP offset that a port and a device offset stand for. -/
def Pkg.capOffset (p : Pkg) (port d : Nat) : Nat :=
  let es := p.cxlPorts true
  (d / 256 * max es.length 1 + (es.findIdx? (· == port)).getD 0) * 256 + d % 256

/-- The physical address of a memory key (R322). -/
def State.physAddr (s : State) (k : Nat) : Nat :=
  if isSpadKey k then 3 * 2 ^ 54 + k % 2 ^ 20
  else if isCapKey k then 2 ^ 54 + (s.pkg ((k - 2 ^ 60) / 2 ^ 56)).capOffset (k % 2 ^ 56 / 2 ^ 52) (k % 2 ^ 52)
  else k

/-- The physical address of a byte of a register page (R322). -/
def mmioAddr (page off : Nat) : Nat := 3 * 2 ^ 54 + page * 2 ^ 16 + off

/-- A unit of a phase holds its cores' resources. -/
def Phase.resident : Phase → Bool
  | .staging | .running | .stopping | .preempting | .stopped => true
  | _ => false

/-! ### Lists by position -/

def mapFrom {α β : Type} (n : Nat) (g : Nat → α → β) : List α → List β
  | [] => []
  | a :: as => g n a :: mapFrom (n + 1) g as

def zipWith3 {α β γ δ : Type} (g : α → β → γ → δ) : List α → List β → List γ → List δ
  | a :: as, b :: bs, c :: cs => g a b c :: zipWith3 g as bs cs
  | _, _, _ => []

def modAt {α : Type} (l : List α) (n : Nat) (g : α → α) : List α := mapFrom 0 (fun i a => if i = n then g a else a) l

/-! ### Events of counters (R466) -/

/-- An event of a source occurs at a core (level 0), at its die (1) or at its package's switch die (2): each counter there
that is enabled for the source counts it next (R467), but for one counter that `skip` names. -/
def State.occurs (s : State) (core level src : Nat) (skip : Option Nat := none) : State :=
  let cs := if level = 0 then (s.core core).cnt else if level = 1 then (s.die (dieOf core)).cnt else (s.pkg (pkgOfCore core)).cnt
  let base := if level = 0 then 0 else if level = 1 then 8 else 24
  let hits := (mapFrom base (fun i c => (i, c)) cs).filter fun (p : Nat × Counter) => p.2.en && p.2.src.toNat == src && some p.1 != skip
  { s with agenda := hits.map (fun p => Pick.count core p.1) ++ s.agenda }

/-! ### Lanes -/

def Lane.none : Lane := { pc := 0, st := .exited, tid := 0, delivery := Option.none }

def Warp.lane (w : Warp) (l : Nat) : Lane := w.lanes.getD l Lane.none

/-- Change the lanes of a mask. -/
def Warp.updLanes (w : Warp) (m : LaneMask) (g : Nat → Lane → Lane) : Warp :=
  { w with lanes := mapFrom 0 (fun i x => if m.getLsbD i then g i x else x) w.lanes }

def Lane.isRun (x : Lane) : Bool := match x.st with | .run => true | _ => false
def Lane.isHold (x : Lane) : Bool := match x.st with | .hold _ => true | _ => false
def Lane.isPark (x : Lane) : Bool := match x.st with | .park _ _ _ => true | _ => false
def Lane.sleeps (x : Lane) : Bool := match x.st with | .hold (.sleep _) => true | _ => false
def Lane.isExit (x : Lane) : Bool := match x.st with | .exited => true | _ => false

/-- The lanes that satisfy a test. -/
def Warp.which (w : Warp) (p : Lane → Bool) : LaneMask :=
  maskOf ((mapFrom 0 (fun i x => (i, x)) w.lanes).filterMap fun e => if p e.2 then some e.1 else none)

def Warp.allExited (w : Warp) : Bool := w.lanes.all Lane.isExit

/-- Move the issuing lanes that are still in RUN to the next word (R77). -/
def Warp.advance (w : Warp) (m : LaneMask) : Warp :=
  w.updLanes m fun _ x => if x.isRun then { x with pc := x.pc + 16 } else x

def Warp.hold (w : Warp) (m : LaneMask) (h : Hold) : Warp :=
  w.updLanes m fun _ x => if x.isRun then { x with st := .hold h } else x

/-! ### Register files (R53) -/

def allOnes16 : PBits := 0xFFFF

def Warp.v (w : Warp) (n : Nat) : VReg := w.vregs.getD n VReg.void
def Warp.u (w : Warp) (n : Nat) : Word := w.uregs.getD n 0
def Warp.q (w : Warp) (n : Nat) : List PBits :=
  if n = 0 then List.replicate 32 allOnes16 else w.preds.getD n (List.replicate 32 0)

def mergeWord (mask val old : Word) : Word := (old &&& ~~~mask) ||| (val &&& mask)
def mergeBits (mask val old : PBits) : PBits := (old &&& ~~~mask) ||| (val &&& mask)

def VReg.patch (r : VReg) (mask val : List Word) (tag : BitVec 5) (shape : Shape) : VReg :=
  { tag := tag, shape := shape, lanes := zipWith3 mergeWord mask val r.lanes }

/-- The register that a write names: its file and number. -/
def RegWrite.name : RegWrite → Nat × Nat
  | .v n _ _ _ _ => (0, n)
  | .u n _ => (1, n)
  | .q n _ _ => (2, n)

/-- A write that changes nothing: a predicate write that reaches no bit. A vector write gives its register a tag and a shape
even where it reaches no bit (R60); the meanings make none under an all-zero guard (R46). -/
def RegWrite.nothing : RegWrite → Bool
  | .v _ _ _ _ _ => false
  | .u _ _ => false
  | .q _ mask _ => mask.all (· == 0)

/-- The float flags that an entry holds. -/
def OldReg.flagBits : OldReg → BitVec 5
  | .flags x => x
  | _ => 0

def OldReg.name : OldReg → Nat × Nat
  | .v n _ => (0, n)
  | .u n _ => (1, n)
  | .q n _ => (2, n)
  | .flags _ => (3, 0)

/-- One code per register for the free values: vector registers 0-255, uniform registers 256-319, predicates 320-327. -/
def regCode : Nat × Nat → Nat
  | (0, n) => n
  | (1, n) => 256 + n
  | (_, n) => 320 + n

/-- Write a register. A write to `q0` is discarded (R57). -/
def Warp.put (w : Warp) : RegWrite → Warp
  | .v n mask val tag shape => { w with vregs := w.vregs.set n ((w.v n).patch mask val tag shape) }
  | .u n val => { w with uregs := w.uregs.set n val }
  | .q n mask val =>
    if n = 0 then w else { w with preds := w.preds.set n (zipWith3 mergeBits mask val (w.q n)) }

/-- The register a write names, as it stands. -/
def Warp.old (w : Warp) : RegWrite → OldReg
  | .v n _ _ _ _ => .v n (w.v n)
  | .u n _ => .u n (w.u n)
  | .q n _ _ => .q n (w.q n)

def Warp.restoreReg (w : Warp) : OldReg → Warp
  | .v n r => { w with vregs := w.vregs.set n r }
  | .u n x => { w with uregs := w.uregs.set n x }
  | .q n x => if n = 0 then w else { w with preds := w.preds.set n x }
  | .flags _ => w

/-- One of the outcomes allowed for an early read (R245): a free choice when there are several. -/
def choose {α : Type} (free code : Nat) (xs : List α) (d : α) : α :=
  match xs with
  | [x] => x
  | xs => xs.getD (Config.freePick (free * 512 + code) % xs.length) d

/-- The states of a vector register that a read may see: as it stands, as an unordered write found it, and as an
outstanding result will leave it (R245). -/
def Warp.seenV (w : Warp) (n : Nat) : List VReg :=
  w.v n :: (w.recent.filterMap fun r => match r.old with | .v m x => if m = n then some x else none | _ => none)
    ++ w.flights.flatMap fun g => g.writes.filterMap fun p =>
        match p.1 with | .v m mask val tag sh => if m = n then some ((w.v n).patch mask val tag sh) else none | _ => none

def Warp.seenU (w : Warp) (n : Nat) : List Word :=
  w.u n :: (w.recent.filterMap fun r => match r.old with | .u m x => if m = n then some x else none | _ => none)
    ++ w.flights.flatMap fun g => g.writes.filterMap fun p =>
        match p.1 with | .u m x => if m = n then some x else none | _ => none

def Warp.seenQ (w : Warp) (n : Nat) : List (List PBits) :=
  w.q n :: (if n = 0 then [] else
    (w.recent.filterMap fun r => match r.old with | .q m x => if m = n then some x else none | _ => none)
    ++ w.flights.flatMap fun g => g.writes.filterMap fun p =>
        match p.1 with | .q m mask val => if m = n then some (zipWith3 mergeBits mask val (w.q n)) else none | _ => none)

/-- Due cycle of a result that only a switch marker orders. -/
def Recent.never : Nat := 2 ^ 64

/-- Class latencies (R244). -/
def latInt : Nat := 4
def latFloat : Nat := 6
def latCross : Nat := 8

/-- Change the fates of the outstanding writes of a register, in the flights that satisfy a test. -/
def Warp.refate (w : Warp) (name : Nat × Nat) (which : Flight → Bool) (g : Fate → Fate) : Warp :=
  { w with flights := w.flights.map fun x =>
      if which x then { x with writes := x.writes.map fun p => if p.1.name = name then (p.1, g p.2) else p } else x }

/-- Mark the outstanding writes of a register as overwritten by a later write (R246). -/
def Warp.contest (w : Warp) (name : Nat × Nat) : Warp :=
  w.refate name (fun _ => true) fun x => if x = .lost then .lost else .contested

/-- The register as it stood before a fixed-latency write of PC0 in the cycle that PC1 issues in. -/
def Warp.before (w : Warp) (name : Nat × Nat) : Option OldReg :=
  (w.recent.find? fun r => r.born == w.clk && r.old.name == name).map Recent.old

/-- Whether PC0 has an outstanding write of a register that it issued in the cycle that PC1 issues in. -/
def Warp.besideFly (w : Warp) (name : Nat × Nat) : Bool :=
  w.flights.any fun g => g.born == w.clk && g.writes.any fun p => p.1.name == name

/-- Of two writes of one register in one cycle, the register ends with PC1's rather than PC0's (R246): a free choice. -/
def pc1Wins (free : Nat) (name : Nat × Nat) : Bool := Config.freePick (free * 512 + 400 + name.2) % 2 == 1

/-- A write of a register that ends its binding as a completion counter, when it has one (R56). -/
def Warp.unbind (w : Warp) : RegWrite → Warp
  | .u n _ => { w with bound := adel w.bound n }
  | _ => w

/-- A fixed-latency write (R245, R246). When PC1 writes a register that PC0 writes in the same cycle, the register ends with
the value of one of the two: PC1's over what was there before both, or PC0's. -/
def Warp.fixed (w : Warp) (lat free : Nat) (paired : Bool) (rw : RegWrite) : Warp :=
  if rw.nothing then w else
  let mark (w : Warp) : Warp := { w with recent := { due := w.clk + lat, born := w.clk, old := w.old rw } :: w.recent }
  let last := paired && !pc1Wins free rw.name
  if paired && w.besideFly rw.name then
    if last then (mark w).unbind rw
    else ((mark w).refate rw.name (fun g => g.born == w.clk) (fun _ => .lost)).contest rw.name |>.unbind rw |>.put rw
  else
    let w1 := ((mark w).contest rw.name).unbind rw
    match (if paired then w.before rw.name else none) with
    | none => w1.put rw
    | some old => if last then w1 else (w1.restoreReg old).put rw

/-- The fate of a result that PC1 issues (R246): it collides with a write of PC0, or does not. -/
def Warp.fate (w : Warp) (free : Nat) (paired : Bool) (name : Nat × Nat) : Fate :=
  if !paired then .sure
  else
    match w.before name with
    | some old => if pc1Wins free name then .over old else .lost
    | none => if w.besideFly name && !pc1Wins free name then .lost else .sure

/-- What an outstanding result does, as it is issued, to the register that it names: older outstanding writes of it are no
longer ordered before its last write, a colliding one of PC0 is lost if PC1's is the value that stays, and a binding ends. -/
def Warp.aim (w : Warp) (free : Nat) (paired : Bool) (rw : RegWrite) : Warp :=
  let w1 := if paired && w.besideFly rw.name then
      (if pc1Wins free rw.name then w.refate rw.name (fun g => g.born == w.clk) (fun _ => .lost) else w)
    else w.contest rw.name
  w1.unbind rw

/-- A variable-latency result: outstanding until it returns (R244, R246), with a change of a tile table entry where it makes
one (R237). -/
def Warp.fly (w : Warp) (id free : Nat) (writes : List RegWrite) (flags : BitVec 5) (paired : Bool)
    (tile : Option (Nat × TileAct) := none) : Warp :=
  let rws := writes.filter fun rw => !rw.nothing
  let w1 := rws.foldl (fun w rw => w.aim free paired rw) w
  { w1 with flights := w1.flights ++
      [{ id := id, born := w.clk, flags := flags, tile := tile, writes := rws.map fun rw => (rw, w.fate free paired rw.name) }] }

/-- A result returns into a register (R246). The register's earlier state stays readable until a switch marker orders it. -/
def Warp.land (w : Warp) (free : Nat) (p : RegWrite × Fate) : Warp :=
  let keep := match p.2 with
    | .lost => true
    | .contested => Config.freePick (free * 512 + regCode p.1.name) % 2 == 1
    | _ => false
  if keep then w
  else
    let w1 := match p.2 with | .over old => w.restoreReg old | _ => w
    { w1.put p.1 with
      recent := { due := Recent.never, born := w.clk, old := w.old p.1 }
                  :: w.recent }

/-- Drop the writes that are ordered, and every older write of a register that an ordered write covers: a read ordered after
a write finds no state from before it (R245, R246). Newest first; `seen` are the registers of the ordered writes passed. -/
def keepRecent (ord : Recent → Bool) (seen : List (Nat × Nat)) : List Recent → List Recent
  | [] => []
  | r :: rs =>
    if ord r then keepRecent ord (r.old.name :: seen) rs
    else if seen.contains r.old.name && r.old.name.1 != 3 then keepRecent ord seen rs
    else r :: keepRecent ord seen rs

/-- A switch marker has parked the warp until its results returned: everything they wrote is ordered (R245). -/
def Warp.ordered (w : Warp) : Warp :=
  { w with swPark := false, recent := keepRecent (fun r => r.due == Recent.never && r.old.flagBits == 0) [] w.recent }

/-- FSTAT with every flag that has been raised, including those a read may still miss. -/
def Warp.allFlags (w : Warp) : BitVec 5 := w.recent.foldl (fun a r => a ||| r.old.flagBits) w.fstat

/-- Raise float flags: by a fixed-latency instruction they stand in FSTAT from its latency on (R29, R30). -/
def Warp.raise (w : Warp) (lat : Nat) (x : BitVec 5) : Warp :=
  if x = 0 then w else { w with recent := { due := w.clk + lat, born := w.clk, old := .flags x } :: w.recent }

/-- Cycle `c` has come: what was due by then is ordered (R245). -/
def Warp.tick (w : Warp) (c : Nat) : Warp :=
  { w with clk := c,
           fstat := w.recent.foldl (fun a r => if r.due ≤ c then a ||| r.old.flagBits else a) w.fstat,
           recent := keepRecent (fun r => r.due ≤ c) [] w.recent }

/-- The count of a completion counter, which the register holds while it is bound (R56, R175). -/
def Warp.setCount (w : Warp) (n c : Nat) : Warp :=
  { w with bound := aset w.bound n c, uregs := w.uregs.set n (BitVec.ofNat 64 c),
           recent := w.recent.filter fun r => r.old.name != (1, n) }

/-- Whether a uniform register is bound as a completion counter that has not reached zero (R56). -/
def Warp.busy (w : Warp) (n : Nat) : Bool :=
  match aget w.bound n with
  | some (_ + 1) => true
  | _ => false

/-! ### The instruction being issued -/

/-- What a meaning reads: the agent, its warp in the cycle of the issue, and that warp as it stays where the instruction is
held, the word's fields, the issuing lane set, the address, and the number that indexes the free values of this issue. -/
structure Env where
  key : Nat
  w : Warp
  w0 : Warp
  f : Fields
  lanes : LaneMask
  pc : Word
  free : Nat
  paired : Bool
  deriving DecidableEq, Repr

def Env.isSeq (e : Env) : Bool := e.w.kind == .seq

/-- Reads of the register files at issue (R244, R245). -/
def Env.v (e : Env) (n : Nat) : VReg := choose e.free n (e.w.seenV n) VReg.void
def Env.u (e : Env) (n : Nat) : Word :=
  match aget e.w.bound n with
  | some c => BitVec.ofNat 64 c
  | none => choose e.free (256 + n) (e.w.seenU n) 0
def Env.q (e : Env) (n : Nat) : List PBits := choose e.free (320 + n) (e.w.seenQ n) []

/-- The guard of each lane (R46). -/
def Env.guardOf (e : Env) : List PBits :=
  let flip (g : Guard) (x : PBits) : PBits := if g.neg then ~~~x else x
  List.zipWith (fun a b => flip e.f.ga a &&& flip e.f.gb b) (e.q e.f.ga.idx.toNat) (e.q e.f.gb.idx.toNat)

def Env.guard (e : Env) (l : Nat) : PBits := e.guardOf.getD l 0

/-- The taking lanes (R77). -/
def Env.taking (e : Env) : LaneMask :=
  let g := e.guardOf
  maskOf ((lanesOf e.lanes).filter fun l => (g.getD l 0).getLsbD 0)

/-- The leading lane (R77). -/
def Env.leading (e : Env) : Option Nat := (lanesOf e.taking).head?

/-- Delay and switch marker of an instruction that has issued (R47). A marker of PC0 with nothing outstanding parks nothing,
even where PC1 starts a variable-latency result in the same cycle (DESIGN CHOICE, log entry 82). -/
def Env.settle (e : Env) (w : Warp) : Warp :=
  let w := { w with dly := if e.paired then max w.dly e.f.dly.toNat else e.f.dly.toNat }
  if e.f.sw then (if w.flights.isEmpty then w.ordered else { w with swPark := true }) else w

/-- The instruction has issued: its lanes move to the next word. -/
def Env.done (e : Env) (s : State) (w : Warp) : State :=
  { s.setWarp e.key (e.settle (w.advance e.lanes)) with cur := none }

/-- The instruction has issued and has set the counters of its lanes itself. -/
def Env.doneAt (e : Env) (s : State) (w : Warp) : State :=
  { s.setWarp e.key (e.settle w) with cur := none }

/-- The instruction holds these lanes; nothing else changes (R240). -/
def Env.holds (e : Env) (s : State) (h : Hold) : State :=
  { s.setWarp e.key (e.w0.hold e.lanes h) with cur := none }

/-! ### Faults -/

def ILLOP : Nat := 0x01
def PRIV : Nat := 0x02
def FMT : Nat := 0x03
def ALIGN : Nat := 0x04
def XLATE : Nat := 0x05
def PERM : Nat := 0x06
def COW : Nat := 0x07
def RLOAD : Nat := 0x08
def POISON : Nat := 0x09
def KVPOIS : Nat := 0x0A
def SCALE : Nat := 0x0B
def TILE : Nat := 0x0C
def DONATE : Nat := 0x0D
def TRAP : Nat := 0x10
def BRK : Nat := 0x11

/-- The memory class of R435. -/
def memoryFault (c : Nat) : Bool := 4 ≤ c && c ≤ 0x0A

/-- The order of the checks of R154, in which one instruction's postings are made (R345); the program-level codes of a
sequencer or a service warp follow. -/
def faultOrder : List Nat :=
  [ALIGN, XLATE, PERM, COW, KVPOIS, POISON, RLOAD, ILLOP, PRIV, FMT, SCALE, TILE, DONATE, TRAP, BRK]

/-- A lane's fault. -/
structure LaneFault where
  lane : Nat
  code : Nat
  addr : Word
  deriving DecidableEq, Repr

/-- Whether a fault goes to a service ring: every memory-class fault, and every fault of a sequencer (R440). Service warps
have no handler either, so theirs all go there (log entry 14). -/
def Warp.posts (w : Warp) (c : Nat) : Bool := memoryFault c || w.kind != .user

/-- The die whose ring takes the faults of a warp (R440). -/
def Warp.ringDie (w : Warp) : Nat :=
  let d := dieOf w.core
  if w.kind == .service then d / 8 * 8 + (d % 8 + 1) % 8 else d

/-- Queue a record at a die (R441). -/
def State.enqueue (s : State) (die : Nat) (p : Post) : State := s.modDie die fun d => { d with postq := d.postq ++ [p] }

/-- Post an event that names no warp (R443). -/
def State.postEvent (s : State) (die : Nat) (code : Nat) (addr ptbase : Word) (asid : BitVec 16) : State :=
  s.enqueue die { handle := 0, addr := addr, pc := 0, ptbase := ptbase, lanes := 0, asid := asid, code := code, kind := 3 }

/-- Park the lanes of one code and post their record (R319, R345). -/
def postOne (s : State) (key : Nat) (pc : Word) (kind : Nat) (tcode : BitVec 16) (fs : List LaneFault) (c : Nat) : State :=
  match aget s.warps key, fs.filter fun x => x.code == c with
  | some w, x :: xs =>
    let m := maskOf ((x :: xs).map LaneFault.lane)
    let h := s.nextHandle
    let s := { s with nextHandle := h + 1,
                      postings := aset s.postings h
                        { target := if w.kind = WarpKind.seq then .seqOf w.gid else .warp key, lanes := m } }
    let s := s.setWarp key (w.updLanes m fun _ y => { y with st := .park c tcode h })
    s.enqueue w.ringDie
      { handle := h, addr := if c = TRAP ∨ c = BRK then tcode.setWidth 64 else x.addr, pc := pc, ptbase := w.ctx.ptbase,
        lanes := m, asid := w.ctx.asid, code := c, kind := kind }
  | _, _ => s

/-- Take the faults of an instruction: each lane parks at the instruction with its code; memory-class faults are posted to
the service ring, one record for each code, the others wait for their delivery to the warp (R435, R437, R440, R345). -/
def takeFaults (s : State) (key : Nat) (pc : Word) (kind : Nat) (tcode : BitVec 16) (fs : List LaneFault) : State :=
  match aget s.warps key with
  | none => s
  | some w =>
    let own := fs.filter fun x => !w.posts x.code
    let out := fs.filter fun x => w.posts x.code
    let w := own.foldl (fun w x => w.updLanes (maskOf [x.lane]) fun _ y => { y with st := .park x.code tcode 0 }) w
    let s := s.setWarp key { w with pendingFault := w.pendingFault || !own.isEmpty }
    faultOrder.foldl (fun s c => postOne s key pc kind tcode out c) s

/-- A fault of every lane of the issuing lane set, as the decode checks raise it (R67, R435). -/
def Env.faultAll (e : Env) (s : State) (c : Nat) : State :=
  { takeFaults s e.key e.pc 3 0 ((lanesOf e.lanes).map fun l => { lane := l, code := c, addr := Config.faultAddr e.free }) with cur := none }

/-- The address of the instruction that a lane in RUN or HOLD would issue next (R430): a held instruction has not
completed; a `sleep` is abandoned and counts as complete, its lanes' counter standing past it already. -/
def Lane.nextPc (x : Lane) : Word := x.pc

/-- Deliver a program-level fault to the whole warp (R437): every lane in RUN or HOLD and every lane parked on a
program-level fault moves to RUN at the entry, with its delivery record. -/
def Warp.deliverFault (w : Warp) : Warp :=
  { w.updLanes (BitVec.allOnes 32) (fun _ x =>
      match x.st with
      | .park c t 0 => { x with pc := w.ctx.utrapvec, st := .run,
                                delivery := some { counter := x.pc ||| 1, fcode := BitVec.ofNat 8 c, tcode := t } }
      | .run | .hold _ => { x with pc := w.ctx.utrapvec, st := .run,
                                   delivery := some { counter := x.nextPc, fcode := 0, tcode := 0 } }
      | _ => x) with
    handler := .fault, pendingFault := false, swPark := false, owes := [], replay := [], asks := [] }

/-- Deliver PREEMPT to a warp (R430): lanes in RUN or HOLD move to RUN at offset 0x10 with their delivery counters. -/
def Warp.deliverPreempt (w : Warp) : Warp :=
  { w.updLanes (BitVec.allOnes 32) (fun _ x =>
      match x.st with
      | .run | .hold _ => { x with pc := w.ctx.utrapvec + 0x10, st := .run,
                                   delivery := some { counter := x.nextPc, fcode := 0, tcode := 0 } }
      | _ => x) with
    handler := .preempt, swPark := false, owes := [], replay := [], asks := [], goal := none }

/-- Resume lanes that a posting parked (R225): replay at the instruction, or skip it. -/
def Warp.resume (w : Warp) (m : LaneMask) (skip : Bool) : Warp :=
  w.updLanes m fun _ x =>
    match x.st with
    | .park _ _ _ => { x with st := .run, pc := if skip then x.pc + 16 else x.pc }
    | _ => x

end Sys2Proof.Machine
end

