-- ==== Sys2Proof/Machine/Operands.lean ====
section
/-! DEFINITION. Issuing an instruction word: the decode checks (R67), the operand classes and special operands (R49-R51),
tag checks (R60, R99), writers of vector, uniform and predicate results (R55, R57, R96), and result shapes (R249). -/
namespace Sys2Proof.Machine

abbrev Out := Host.Outcome State Fault Refusal

/-! ### The decode checks -/

/-- One more than the number of a vector register that a position names; 0 where it names none. -/
def srcTop (used isPred : Bool) (s : Src) : Nat :=
  match s with
  | .v n => if used && !isPred then n.toNat + 1 else 0
  | _ => 0

def regTop (k : RegK) (isSeq : Bool) (n : BitVec 8) : Nat :=
  match k with
  | .vec => n.toNat + 1
  | .vec4 => n.toNat + 4
  | .link => if isSeq then 0 else n.toNat + 1
  | _ => 0

/-- One more than the highest vector register an instruction names (R54): `stb` names four from C on (R160), `vsave` and
`vrest` the range of R232. A quad sequencer has no vector registers, and no source position of its words names one. -/
def vecTop (isSeq : Bool) (i : Instr) (f : Fields) : Nat :=
  match opSpec i with
  | none => 0
  | some sp =>
    let more := match i with
      | .stb _ => 3
      | .vsave g => mdN g 0 8
      | .vrest g => mdN g 0 8
      | _ => 0
    let c := srcTop (!isSeq && sp.c != 0) false f.c
    max (max (regTop sp.d isSeq f.d) (regTop sp.e isSeq f.e))
      (max (max (srcTop (!isSeq && sp.a != 0) sp.pa f.a) (srcTop (!isSeq && sp.b != 0) sp.pb f.b)) (if c = 0 then 0 else c + more))

/-- Checks 1 to 5 of R67: the fault of the first that applies. -/
def decodeFault (w : Warp) (i : Instr) (f : Fields) : Option Nat :=
  let isSeq := w.kind == .seq
  if !wfFor isSeq i then some ILLOP
  else if (match opSpec i with | some sp => sp.forP | none => false) && w.kind == .user then some PRIV
  else if w.vregs.length < vecTop isSeq i f then some ILLOP
  else none

/-- The warp issues at an address: what an instruction held there asked of a tile is asked anew (R284). -/
def Warp.askAnew (w : Warp) (pc : Word) : Warp := { w with asks := w.asks.filter fun a => a.2.2 != pc }

/-- The warp in the cycle that an issue takes (R244). -/
def Issue.warp (c : Issue) (w : Warp) : Warp := let w := w.askAnew c.pc; if c.paired then w else w.tick (w.clk + 1)

/-- What an agent's issue reads: the warp in the cycle that the issue takes, which passes for a held instruction too. -/
def State.issueEnv (s : State) (c : Issue) (w : Warp) (f : Fields) : Env :=
  { key := c.key, w := c.warp w, w0 := c.warp w, f := f, lanes := c.lanes, pc := c.pc, free := s.freeN, paired := c.paired }

/-- The state in which an issue takes effect: the cycle has passed for the warp, the free number is used. -/
def State.issueBase (s : State) (c : Issue) (w : Warp) : State :=
  { s.setWarp c.key (c.warp w) with freeN := s.freeN + 1 }

/-- Issue an instruction for the agent that is issuing: the decode checks, then the effect. -/
def issued (i : Instr) (f : Fields) (s : State) (body : Env → State → State) : Out :=
  match s.cur with
  | none => .fault .noIssuer
  | some c =>
    match aget s.warps c.key with
    | none => .fault .noIssuer
    | some w =>
      match decodeFault w i f with
      | some code => .next ((s.issueEnv c w f).faultAll (s.issueBase c w) code)
      | none => .next (body (s.issueEnv c w f) (s.issueBase c w))

/-- Continue unless a check fails. -/
def Env.check (e : Env) (s : State) (r : Option Nat) (k : State) : State :=
  match r with
  | some c => e.faultAll s c
  | none => k

/-! ### Special operands (R51) -/

/-- Linear index of a workgroup split into its grid indices (R261). -/
def gridIndex (r : LRec) (g : Nat) (axis : Nat) : Nat :=
  if axis = 0 then g % (max r.gx 1) else if axis = 1 then g / (max r.gx 1) % (max r.gy 1)
  else g / (max r.gx 1 * max r.gy 1)

/-- The workgroup of a warp. -/
def State.wgOf (s : State) (w : Warp) : Option Wg :=
  match aget s.groups w.gid with
  | some g => g.wgs[w.wg]?
  | none => none

def State.recOf (s : State) (w : Warp) : Option LRec :=
  match aget s.groups w.gid with
  | some g => (aget s.launches g.lid).map Launch.record
  | none => none

/-- The aperture address of a byte of a core's scratchpad (R324). -/
def apertureVa (core off : Nat) : Nat := 0xFFFFFFFFF0000000 + core % 256 * 2 ^ 20 + off

/-- The value of a special operand in a lane and sub-element (R51). Outside any workgroup, in a service warp, the codes of
the workgroup and the launch read zero but for %tid, which is the lane number, as of a warp 0 (DESIGN CHOICE, log entry 15). -/
def special (s : State) (w : Warp) (c : Nat) (l j : Nat) : Nat :=
  let isSeq := w.kind == .seq
  let wg := s.wgOf w
  let grid (axis : Nat) : Nat :=
    match s.recOf w, wg with
    | some r, some g => gridIndex r g.index axis
    | _, _ => 0
  match c with
  | 1 => if isSeq then 0 else l
  | 2 => if isSeq then 0 else j
  | 3 => if isSeq then 0 else (w.lane l).tid.toNat
  | 4 => if isSeq then 0 else w.wid
  | 5 => grid 0
  | 6 => grid 1
  | 7 => grid 2
  | 8 => w.core % 32
  | 9 => w.core % 32 / 4
  | 10 => dieOf w.core % 8
  | 11 => pkgOfCore w.core
  | 12 => match wg with | some g => apertureVa g.core g.spad | none => 0
  | 13 => match s.recOf w with | some r => r.args.toNat | none => 0
  | 14 => w.role
  | 15 => if isSeq then 0 else match s.recOf w with | some r => r.warps | none => 0
  | _ => 0

/-! ### Sources of vector instructions (R50, R99) -/

def tagADDR : Nat := 0x0B
def tagI32 : Nat := 0x08

/-- The tag of a class-00 source. -/
def Env.tagOf (e : Env) (x : Src) : Option Nat :=
  match x with
  | .v n => some (e.v n.toNat).tag.toNat
  | _ => none

/-- The tags of the class-00 sources among the given positions. -/
def Env.tags (e : Env) (xs : List Src) : List Nat := xs.filterMap e.tagOf

/-- The operand format (R50): the tag of the first class-00 operand, else MOD.FMT. -/
def Env.opFmt (e : Env) (xs : List Src) : Nat := (e.tags xs).headD (mdN e.f 5 5)

/-- What the value of a class 10 or class 11 source of format `t` makes a fault (R50, R51). -/
def Env.valueFault (e : Env) (t : Nat) (x : Src) : Option Nat :=
  match x with
  | .imm => if (immInto t (immN e.f)).isNone then some ILLOP else none
  | .sp c => if (c == 0xC || c == 0xD) && !(t == 9 || t == 0x0A || t == 0x0B) then some FMT else none
  | _ => none

/-- The faults of the sources' values, ILLOP before FMT (R67). -/
def Env.valueFaults (e : Env) (t : Nat) (xs : List Src) : Option Nat :=
  let fs := xs.filterMap (e.valueFault t)
  if fs.contains ILLOP then some ILLOP else fs.head?

/-- The bits of a source in format `t`, lane `l`, sub-element `j` (R50, R51, R55). Under ADDR an I32 register contributes
its sub-element 0 sign-extended (R99). -/
def Env.el (e : Env) (s : State) (t : Nat) (x : Src) : Nat → Nat → Nat :=
  match x with
  | .v n =>
    let r := e.v n.toNat
    if t == tagADDR && r.tag.toNat == tagI32 then fun l _ => wrapN (toInt tagI32 (subEl tagI32 (r.lanes.getD l 0) 0)) 64
    else fun l j => subEl t (r.lanes.getD l 0) j
  | .u n => let y := (e.u n.toNat).toNat % 2 ^ fmtWidth t; fun _ _ => y
  | .imm => let y := (immInto t (immN e.f)).getD 0; fun _ _ => y
  | .sp c => fun l j => specialInto t (special s e.w c.toNat l j)

/-- The 64 bits of a source that a lane reads whole: a register's lane (bits [63:60] zero under L6, R19). -/
def Env.lane64 (e : Env) (n : Nat) (l : Nat) : Word :=
  let r := e.v n
  let x := r.lanes.getD l 0
  if r.tag == 0x0E then BitVec.ofNat 64 (x.toNat % 2 ^ 60) else x

/-- R99: equal tags, or ADDR with I64, or ADDR with I32. -/
def mixOk (ts : List Nat) : Bool :=
  ts.all (fun t => t == ts.headD 0)
    || (ts.all fun t => t == 0x0A || t == tagADDR) || (ts.all fun t => t == tagI32 || t == tagADDR)

/-- The format in which sources are combined: ADDR where an I32 register is mixed with ADDR, else the operand format. -/
def Env.mixFmt (e : Env) (xs : List Src) : Nat :=
  let ts := e.tags xs
  if ts.contains tagADDR && ts.contains tagI32 then tagADDR else e.opFmt xs

/-! ### Result shapes (R249) -/

/-- How the value-preserving rows of the table apply to an instruction. -/
inductive ShapeRule where
  | lanewise
  | add (sub : Bool)
  | mul
  | shl
  | neg
  deriving DecidableEq, Repr

/-- The shape of a source (R51, R61, R249). -/
def Env.shapeOf (e : Env) (t : Nat) (x : Src) : Shape :=
  match x with
  | .v n => (e.v n.toNat).shape
  | .sp 1 => if fmtIntAddr t then .affine 1 else .general
  | .sp 3 => if e.w.drawn then .general else if fmtIntAddr t then .affine 1 else .general
  | _ => .uniform

def isUniform : Shape → Bool
  | .uniform => true
  | _ => false

/-- An affine shape when the stride lies in the signed 32-bit range. -/
def affineIf (t : Int) : Shape :=
  if -(2 ^ 31) ≤ t && t < 2 ^ 31 then .affine (BitVec.ofInt 32 t) else .general

def strideOf : Shape → Option Int
  | .uniform => some 0
  | .affine t => some t.toInt
  | .general => none

/-- Whether a write of a result of `n` sub-elements is partial. -/
def Env.partialWrite (e : Env) (n : Nat) : Bool :=
  e.lanes != BitVec.allOnes 32 ||
    e.guardOf.any fun g => (g.toNat % 2 ^ n) != 2 ^ n - 1

/-- Whether some issuing lane has a guard bit set among its first `n` sub-elements (R46, R96). -/
def Env.acts (e : Env) (n : Nat) : Bool := (lanesOf e.lanes).any fun l => (e.guard l).toNat % 2 ^ n != 0

/-- The uniform source's sub-elements are all equal: its value read in format `t`. -/
def Env.uniformVal (e : Env) (s : State) (t : Nat) (x : Src) : Option Int :=
  let v := e.el s t x 0
  if (List.range (nSub t)).all (fun j => v j == v 0) then some (toInt t (v 0)) else none

/-- The result shape of a lane-wise instruction of groups 0x2-0x6 (R249); `n` is the result's sub-element count, `whole`
that every active sub-element is written. -/
def Env.resultShape (e : Env) (s : State) (rule : ShapeRule) (t n : Nat) (sat whole : Bool) (xs : List Src) : Shape :=
  if e.partialWrite n || !whole then .general
  else if xs.all fun x => isUniform (e.shapeOf t x) then .uniform
  else if sat then .general
  else
    match rule, xs with
    | .add sub, [a, b] =>
      match strideOf (e.shapeOf t a), strideOf (e.shapeOf t b) with
      | some ta, some tb => affineIf (if sub then ta - tb else ta + tb)
      | _, _ => .general
    | .mul, [a, b] =>
      match e.shapeOf t a, e.shapeOf t b with
      | .affine ta, .uniform => match e.uniformVal s t b with | some c => affineIf (ta.toInt * c) | none => .general
      | .uniform, .affine tb => match e.uniformVal s t a with | some c => affineIf (tb.toInt * c) | none => .general
      | _, _ => .general
    | .shl, [a, b] =>
      match e.shapeOf t a, e.shapeOf t b with
      | .affine ta, .uniform =>
        -- the count is unsigned in the format's width (R107)
        match e.uniformVal s t b with
        | some c => affineIf (ta.toInt * 2 ^ (min (wrapN c (fmtWidth t)) 64))
        | none => .general
      | _, _ => .general
    | .neg, [a] => match e.shapeOf t a with | .affine ta => affineIf (-ta.toInt) | _ => .general
    | _, _ => .general

/-! ### Writers -/

/-- A lane's mask and value: sub-element `j` of format `td` takes `val j` where `act j`. -/
def packLane (td : Nat) (act : Nat → Bool) (val : Nat → Nat) : Word × Word :=
  let w := fmtWidth td
  let js := (List.range (nSub td)).filter act
  (BitVec.ofNat 64 (js.foldl (fun a j => a + (2 ^ w - 1) * 2 ^ (w * j)) 0),
   BitVec.ofNat 64 (js.foldl (fun a j => a + (val j % 2 ^ w) * 2 ^ (w * j)) 0))

/-- A vector write of the issuing lanes: sub-element `j` of lane `l` takes `val l j` where its guard bit is set and
`reach j` (R96). -/
def Env.vecWrite (e : Env) (d td : Nat) (shape : Shape) (reach : Nat → Bool) (val : Nat → Nat → Nat) : RegWrite :=
  let g := e.guardOf
  let mv := allLanes.map fun l =>
    if e.lanes.getLsbD l then packLane td (fun j => (g.getD l 0).getLsbD j && reach j) (val l) else (0, 0)
  .v d (mv.map Prod.fst) (mv.map Prod.snd) (BitVec.ofNat 5 td) shape

/-- The vector writes of an instruction: none under a guard that is zero in every sub-element (R46). Where some guard bit is
set the register takes its tag and shape, also when the writing reaches none of the guarded sub-elements (R60). -/
def Env.vecWrites (e : Env) (td : Nat) (ws : List RegWrite) : List RegWrite := if e.acts (nSub td) then ws else []

/-- The flags of every active sub-element (R30). -/
def Env.flagsOf (e : Env) (td : Nat) (reach : Nat → Bool) (fl : Nat → Nat → BitVec 5) : BitVec 5 :=
  let g := e.guardOf
  (lanesOf e.lanes).foldl (fun a l =>
    (List.range (nSub td)).foldl (fun a j => if (g.getD l 0).getLsbD j && reach j then a ||| fl l j else a) a) 0

/-- A fixed-latency vector result, committed (R96, R244). -/
def Env.vecDone (e : Env) (s : State) (lat td : Nat) (shape : Shape) (reach : Nat → Bool) (val : Nat → Nat → Nat)
    (fl : BitVec 5) : State :=
  e.done s (((e.vecWrites td [e.vecWrite e.f.d.toNat td shape reach val]).foldl
    (fun w rw => w.fixed lat e.free e.paired rw) e.w).raise lat fl)

/-- A predicate write of the issuing lanes: `mask l` bits of lane `l` take `val l` (R57). -/
def Env.predWrite (e : Env) (d : Nat) (mask val : Nat → PBits) : RegWrite :=
  .q d (allLanes.map fun l => if e.lanes.getLsbD l then mask l else 0) (allLanes.map val)

/-- The bits of a predicate that a compare of `n` sub-elements writes in a lane of guard `g`: the active ones, and those at
and above `n` where guard bit 0 is set, which it clears (R108). -/
def cmpMask (n : Nat) (g : PBits) : PBits :=
  (g &&& BitVec.ofNat 16 (2 ^ n - 1)) ||| (if g.getLsbD 0 then BitVec.ofNat 16 (2 ^ 16 - 2 ^ n) else 0)

/-- The bits `p j` for `j < n`. -/
def bitsOf (n : Nat) (p : Nat → Bool) : PBits :=
  BitVec.ofNat 16 ((List.range n).foldl (fun a j => if p j then a + 2 ^ j else a) 0)

/-- A compare result, committed. -/
def Env.cmpDone (e : Env) (s : State) (lat n : Nat) (p : Nat → Nat → Bool) (fl : BitVec 5) : State :=
  let g := e.guardOf
  e.done s ((e.w.fixed lat e.free e.paired
    (e.predWrite e.f.d.toNat (fun l => cmpMask n (g.getD l 0)) (fun l => bitsOf n (p l)))).raise lat fl)

/-- A write of a uniform register, held while the register is a bound counter above zero (R56). -/
def Env.uniDone (e : Env) (s : State) (lat d : Nat) (val : Word) : State :=
  if e.w.busy d then e.holds s .counter
  else e.done s (e.w.fixed lat e.free e.paired (.u d val))

/-- A fresh number. -/
def State.fresh (s : State) : Nat × State := (s.nextId, { s with nextId := s.nextId + 1 })

/-- A variable-latency result of an instruction, outstanding from its issue (R244). -/
def Env.flyDone (e : Env) (s : State) (ws : List RegWrite) (fl : BitVec 5) : State :=
  e.done { s with nextId := s.nextId + 1 } (e.w.fly s.nextId e.free ws fl e.paired)

/-- A variable-latency write of a uniform register, held while the register is a bound counter above zero (R56). -/
def Env.uniFly (e : Env) (s : State) (d : Nat) (val : Word) : State :=
  if e.w.busy d then e.holds s .counter else e.flyDone s [.u d val] 0

/-! ### Lane-wise results -/

/-- The decode checks that depend on tags and on the operand formats, for sources each with the format it is read in: a bad
immediate, then the tags, then a special operand (R50, R51, R60, R67). -/
def Env.srcFaults (e : Env) (ok : Bool) (ps : List (Nat × Src)) : Option Nat :=
  let fs := ps.filterMap fun p => if fmtCodeOk p.1 then e.valueFault p.1 p.2 else none
  if fs.contains ILLOP then some ILLOP else if !ok then some FMT else fs.head?

/-- The same for sources of one format. -/
def Env.vecFault (e : Env) (t : Nat) (ok : Bool) (xs : List Src) : Option Nat := e.srcFaults ok (xs.map fun x => (t, x))

/-- A lane-wise integer or logic result of groups 0x2 and 0x3: `g` gives the bits of a sub-element from the bits of the
sources in format `t`. -/
def Env.laneOp (e : Env) (s : State) (rule : ShapeRule) (t td : Nat) (sat : Bool) (xs : List Src)
    (g : List Nat → Nat) : State :=
  let els := xs.map (e.el s t)
  e.vecDone s latInt td (e.resultShape s rule t (nSub td) sat true xs) (fun _ => true)
    (fun l j => g (els.map fun el => el l j)) 0

/-- A lane-wise float result (R101): bits and flags of each sub-element. -/
def Env.laneFloat (e : Env) (s : State) (t td : Nat) (xs : List Src) (g : List Nat → Nat × BitVec 5) : State :=
  let els := xs.map (e.el s t)
  let r (l j : Nat) := g (els.map fun el => el l j)
  e.vecDone s latFloat td (e.resultShape s .lanewise t (nSub td) true true xs) (fun _ => true)
    (fun l j => (r l j).1) (e.flagsOf td (fun _ => true) fun l j => (r l j).2)

end Sys2Proof.Machine
end

