-- ==== Sys2Proof/Machine/Flags.lean ====
section
/-! DEFINITION. Compare outcomes (R93, R108, R114), the class bits of R115, and the float flags as CSR FSTAT shows them
(R29). -/
namespace Sys2Proof.Machine

/-- COND 0-5 of two exact integers (R62). -/
def intCond (c : Nat) (a b : Int) : Bool :=
  match c with
  | 0 => a == b
  | 1 => a != b
  | 2 => decide (a < b)
  | 3 => decide (a ≤ b)
  | 4 => decide (a > b)
  | _ => decide (a ≥ b)

/-- Equality of two values that are no NaN, the sign of a zero ignored. -/
def fEqual (a b : FVal) : Bool := !isNan a && !isNan b && !fLess false a b && !fLess false b a

/-- R114: the outcome and the flag. -/
def floatCond (c : Nat) (a b : FVal) : Bool × BitVec 5 :=
  let un := isNan a || isNan b
  let quiet := snanFlag [a, b]
  let loud := if un then fNV else 0
  match c with
  | 0 => (fEqual a b, quiet)
  | 1 => (!fEqual a b, quiet)
  | 2 => (!un && fLess false a b, loud)
  | 3 => (!un && !fLess false b a, loud)
  | 4 => (!un && fLess false b a, loud)
  | 5 => (!un && !fLess false a b, loud)
  | 6 => (un, quiet)
  | _ => (!un, quiet)

/-- The class bit of a value in format `t` (R115). -/
def classBit (t : Nat) (x : Nat) : Nat :=
  match fmtValue t x with
  | .nan s => if s then 8 else 9
  | .inf neg => if neg then 0 else 7
  | .fin neg m _ =>
    if m == 0 then (if neg then 3 else 4)
    else if t != 0x0E && m < 2 ^ (ffOf t).fb then (if neg then 2 else 5)
    else (if neg then 1 else 6)

/-- A read of FSTAT: the flags, which it clears in one step. A flag of an instruction that may still complete after the
read's snapshot is seen or stays for the next read (R29, R30). -/
def Warp.readFlags (w : Warp) (free : Nat) : BitVec 5 × Warp :=
  let isFlag (r : Recent) : Bool := match r.old with | .flags _ => true | _ => false
  let seen (r : Recent) : Bool := isFlag r && Config.freePick (free * 512 + 480 + r.born % 16) % 2 == 1
  ((w.recent.filter seen).foldl (fun a r => a ||| r.old.flagBits) w.fstat,
   { w with fstat := 0, recent := w.recent.filter fun r => !seen r })

end Sys2Proof.Machine
end

