-- ==== Sys2Proof/Machine/Barrier.lean ====
section
/-! DEFINITION. The hardware barrier networks (R210, R211, R255): participants, arrivals and the completion of a phase. -/
namespace Sys2Proof.Machine

/-- A phase of a hardware barrier: the scope (0 core, 1 quad, 2 die, 3 pkg), the ID and the instance of the network. -/
structure BarKey where
  scope : Nat
  id : Nat
  dom : Nat
  deriving DecidableEq, Repr

def BarKey.code (k : BarKey) : Nat := (k.dom * 8 + k.scope) * 16 + k.id
def barKeyOf (n : Nat) : BarKey := { scope := n / 16 % 8, id := n % 16, dom := n / 128 }

/-- The network that a warp meets at a scope. -/
def State.barDom (s : State) (scope : Nat) (w : Warp) : Nat :=
  let lid := match aget s.groups w.gid with | some g => g.lid | none => 0
  if scope = 0 then w.gid * 4 + w.wg else if scope = 1 then w.gid else if scope = 2 then lid * 8 + dieOf w.core % 8
  else lid

/-- Whether a unit belongs to a network, and for `.core` which of its workgroups. -/
def BarKey.hasGroup (k : BarKey) (gid : Nat) (g : Group) : Bool :=
  if k.scope = 0 then k.dom / 4 == gid
  else if k.scope = 1 then k.dom == gid
  else if k.scope = 2 then k.dom / 8 == g.lid && k.dom % 8 == g.quad / 8
  else k.dom == g.lid

def BarKey.hasWarp (k : BarKey) (w : Warp) : Bool :=
  if k.scope = 0 then w.kind == .user && w.wg == k.dom % 4 else w.kind != .service

/-- Number of a warp within its unit; the sequencer is 1024. -/
def Warp.unitIx (w : Warp) : Nat := if w.kind == .seq then 1024 else 32 * w.wg + w.wid

/-- A warp has arrived when every lane not in EXIT holds at that barrier (R255). -/
def Warp.arrived (w : Warp) (k : BarKey) : Bool :=
  !w.allExited && w.lanes.all fun x =>
    match x.st with
    | .exited => true
    | .hold (.bar sc id) => sc == k.scope && id == k.id
    | _ => false

/-- The resident participants of a phase in one unit (R210). -/
def State.barWarps (s : State) (k : BarKey) (gid : Nat) : List Warp :=
  (s.warps.map Prod.snd).filter fun w =>
    w.kind != .service && w.gid == gid && k.hasWarp w && w.away.isNone && !w.allExited

/-- Threads of a workgroup stand in some hoop (R255). -/
def State.hooped (s : State) (gid wg : Nat) : Bool :=
  s.cores.any fun c => c.2.hoops.any fun h => h.gid == gid && h.wg == wg

/-- Whether every participant of a unit has arrived, and the number of its arrivals. -/
def State.barUnit (s : State) (k : BarKey) (p : BarPhase) (gid : Nat) (g : Group) : Bool × Nat :=
  match g.phase with
  | .swapped =>
    let arr := (p.away.filter fun a => a.1 == gid).map Prod.snd
    (g.out.all fun x => arr.contains x, arr.length)
  | .running | .stopping =>
    let ws := s.barWarps k gid
    (ws.all fun w => w.arrived k, (ws.filter fun w => w.arrived k).length)
  | .preempting =>
    let ws := s.barWarps k gid
    (k.scope < 2 && ws.all fun w => w.arrived k, (ws.filter fun w => w.arrived k).length)
  | .ended => (true, 0)
  | _ => (false, 0)

/-- Workgroups of a launch's grid. -/
def LRec.total (r : LRec) : Nat := r.gx * r.gy * r.gz

/-- Whether a phase completes (R211, R255). -/
def State.barDone (s : State) (k : BarKey) (p : BarPhase) : Bool :=
  let gs := s.groups.filter fun e => k.hasGroup e.1 e.2
  let hoop := gs.any fun e =>
    (mapFrom 0 (fun i _ => i) e.2.wgs).any fun i => (k.scope != 0 || i == k.dom % 4) && s.hooped e.1 i
  let rs := gs.map fun e => s.barUnit k p e.1 e.2
  let placed := k.scope != 3 || (match aget s.launches k.dom with | some l => l.placed == l.record.total | none => true)
  !hoop && match p.count with
    | some n => n ≤ (rs.map Prod.snd).foldl (· + ·) 0
    | none => placed && rs.all Prod.fst

/-- Resume the lanes held at a barrier of a network: they move past it (R211). -/
def State.barRelease (s : State) (k : BarKey) : State :=
  { s with warps := s.warps.map fun e =>
      let g := aget s.groups e.2.gid
      if e.2.kind != .service && k.hasWarp e.2 && (match g with | some g => k.hasGroup e.2.gid g | none => false) then
        (e.1, e.2.updLanes (BitVec.allOnes 32) fun _ x =>
          match x.st with
          | .hold (.bar sc id) => if sc == k.scope && id == k.id then { x with st := .run, pc := x.pc + 16 } else x
          | _ => x)
      else e }

/-- Complete a phase when it can complete: its parity flips, its lanes resume, and the arrivals of swapped units go. -/
def State.barTry (s : State) (n : Nat) : State :=
  match aget s.phases n with
  | none => s
  | some p =>
    let k := barKeyOf n
    if s.barDone k p then
      let s := { s with phases := adel s.phases n, parities := aset s.parities n (((aget s.parities n).getD 0 + 1) % 2) }
      s.barRelease k
    else s

/-- Look at every open phase (a warp has exited, moved or been removed). -/
def State.settleBars (s : State) : State := s.phases.foldl (fun s e => s.barTry e.1) s

end Sys2Proof.Machine
end

