-- ==== Sys2Proof/Machine/Life.lean ====
section
/-! DEFINITION. The ends of warps, workgroups and placement units (R84, R236, R275, R439), roles (R250), and hoops
(R85, R253, R254). -/
namespace Sys2Proof.Machine

/-! ### Roles and budgets (R250) -/

def LRec.general (r : LRec) : Nat := r.warps - r.ncopy - r.nepi

def LRec.roleOf (r : LRec) (w : Nat) : Nat :=
  if w < r.general then 0 else if w < r.general + r.ncopy then 1 else 2

def LRec.budget (r : LRec) (role : Nat) : Nat := if role = 0 then r.bregs else if role = 1 then r.cregs else r.eregs

/-- The register allocation of a workgroup (R251, R452). -/
def LRec.alloc (r : LRec) : Nat := r.bregs * r.general + r.cregs * r.ncopy + r.eregs * r.nepi

def LRec.flag (r : LRec) (i : Nat) : Bool := r.flags.getLsbD i
def LRec.cores (r : LRec) : Bool := r.flag 0
def LRec.quad (r : LRec) : Bool := r.flag 1
def LRec.donate (r : LRec) : Bool := r.flag 2
def LRec.ordered (r : LRec) : Bool := r.flag 3
def LRec.noswap (r : LRec) : Bool := r.flag 4
def LRec.preemptable (r : LRec) : Bool := r.flag 5

/-! ### Ends -/

def Warp.countersZero (w : Warp) : Bool := w.bound.all fun b => b.2 == 0

/-- Forget the postings that name a warp (R225: a handle of what has ended has no effect). -/
def State.dropPostings (s : State) (t : Target) : State :=
  { s with postings := s.postings.filter fun p => p.2.target != t }

def State.removeWarp (s : State) (key : Nat) : State :=
  ({ s with warps := adel s.warps key }).dropPostings (.warp key)

/-- Copies of a unit that are outstanding. -/
def State.hasCopies (s : State) (gid : Nat) : Bool := s.copies.any fun c => c.2.gid == gid

/-- A unit ends when its workgroups have ended, its sequencer program has exited, and none of its copies is outstanding.
Its resources and held grants return with it (R219, R439). -/
def State.reapGroup (s : State) (gid : Nat) : State :=
  match aget s.groups gid with
  | none => s
  | some g =>
    if g.wgs.all Wg.ended && g.seq.isNone && g.mops.isEmpty && !s.hasCopies gid then
      let s := { s with groups := adel s.groups gid }
      let s := s.modLaunch g.lid fun l =>
        { l with endedWgs := l.endedWgs + g.wgs.length, faulted := l.faulted || g.faulted }
      let s := { s with postings := s.postings.filter fun p =>
          match p.2.target with
          | .seqOf x => x != gid
          | .staging x _ => x != gid
          | .stoppedGroup x => x != gid
          | _ => true }
      s.modDie (g.pkg * 8 + g.quad / 8) fun d => { d with pmQueue := d.pmQueue.filter fun q => q.gid != gid }
    else s

/-- A workgroup ends when no warp and no filed thread of it is left. -/
def State.reapWg (s : State) (gid wg : Nat) : State :=
  let live := s.warps.any fun e => e.2.kind == .user && e.2.gid == gid && e.2.wg == wg
  let busy := match aget s.groups gid with
    | some g => match g.phase with | .running | .stopping => false | _ => true
    | none => true
  if live || busy || s.hooped gid wg then s
  else (s.modGroup gid fun g => { g with wgs := modAt g.wgs wg fun x => { x with ended := true } }).reapGroup gid

/-- A user warp ends when none of its lanes remains unexited and its bound counters are zero (R84). -/
def State.reapWarp (s : State) (key : Nat) : State :=
  match aget s.warps key with
  | none => s
  | some w =>
    if w.allExited && w.countersZero && w.flights.isEmpty then
      match w.kind with
      | .seq =>
        match aget s.groups w.gid with
        | some g =>
          if g.mops.isEmpty then
            ((s.removeWarp key).setGroup w.gid { g with seq := none }).reapGroup w.gid
          else s
        | none => s.removeWarp key
      | .service => s.removeWarp key
      | .user => (s.removeWarp key).reapWg w.gid w.wg
    else s

/-! ### Register donation (R218) -/

/-- Every unexited lane of a warp has issued `regdon`. -/
def Warp.donating (w : Warp) : Bool :=
  !w.allExited && w.lanes.all fun x => match x.st with | .exited => true | .hold .regdon => true | _ => false

/-- Lanes held at `regdon` move on. -/
def Warp.pastDonation (w : Warp) : Warp :=
  w.updLanes (BitVec.allOnes 32) fun _ x => match x.st with | .hold .regdon => { x with st := .run, pc := x.pc + 16 } | _ => x

/-- The warp with `n` vector registers: the highest go, new ones are VOID. -/
def Warp.resize (w : Warp) (n : Nat) : Warp :=
  { w with vregs := w.vregs.take n ++ List.replicate (n - w.vregs.length) VReg.void }

/-- The recipient and units of a warp's gift; a warp that names none gives nothing. -/
def giftOf (gifts : List (Nat × Nat × Nat)) (wid : Nat) : Nat × Nat :=
  match gifts.find? fun x => x.1 == wid with | some x => x.2 | none => (wid, 0)

/-- The budgets after a rendezvous by warp key, or nothing when it fails (R218). -/
def newBudgets (ws : AMap Warp) (gifts : List (Nat × Nat × Nat)) : Option (List (Nat × Nat)) :=
  let gs := ws.map fun e => (e.2.wid, giftOf gifts e.2.wid)
  let bad := gs.any fun x => !(ws.any fun e => e.2.wid == x.2.1) || (x.2.1 == x.1 && x.2.2 != 0)
  let rs := ws.map fun e =>
    let got := (gs.filter fun x => x.2.1 == e.2.wid && x.1 != e.2.wid).foldl (fun a x => a + 8 * x.2.2) 0
    (e.1, e.2.vregs.length + got, 8 * (giftOf gifts e.2.wid).2)
  if bad || rs.any (fun r => r.2.1 < 16 + r.2.2 || 256 + r.2.2 < r.2.1) then none
  else some (rs.map fun r => (r.1, r.2.1 - r.2.2))

/-- The rendezvous of a workgroup takes place once its last unexited warp has arrived. -/
def State.tryDonate (s : State) (gid wg : Nat) : State :=
  let ws := s.warps.filter fun (e : Nat × Warp) => e.2.kind == WarpKind.user && e.2.gid == gid && e.2.wg == wg && !e.2.allExited
  match (aget s.groups gid).bind fun g => g.wgs[wg]? with
  | none => s
  | some x =>
    if ws.isEmpty || !(ws.all fun e => e.2.donating) then s
    else
      let s := s.modGroup gid fun g => { g with wgs := modAt g.wgs wg fun y => { y with gifts := [] } }
      match newBudgets ws x.gifts with
      | some bs => bs.foldl (fun s b => s.modWarp b.1 fun w => (w.resize b.2).pastDonation) s
      | none => ws.foldl (fun s e => takeFaults s e.1 0 3 0
          ((lanesOf (e.2.which fun y => !y.isExit)).map fun l => { lane := l, code := DONATE, addr := 0 })) s

/-- A warp's lanes or participation have changed: end it if it is done, and look at the rendezvous of its workgroup and at
the open barriers. -/
def State.settle (s : State) (key : Nat) : State :=
  match aget s.warps key with
  | some w => ((s.reapWarp key).tryDonate w.gid w.wg).settleBars
  | none => s.settleBars

/-! ### Hoops -/

def fullHoop (h : Hoop) : Bool := 32 ≤ h.threads.length

/-- Index of the oldest hoop of a core. -/
def oldestHoop (hs : List Hoop) : Option Nat :=
  let m := hs.foldl (fun a h => min a h.seqNo) (2 ^ 64)
  hs.findIdx? fun h => h.seqNo == m

/-- File one lane's thread (R253): join the hoop of its key, take a free hoop, or make the oldest due and hold. -/
def fileLane (w : Warp) (pc : Word) (seqNo : Nat) (c : Core) (l : Nat) : Core × Bool :=
  let tags := w.vregs.map VReg.tag
  let t : FiledThread :=
    { tid := (w.lane l).tid, vals := w.vregs.map fun r => r.lanes.getD l 0, preds := w.preds.map fun q => q.getD l 0 }
  let same (h : Hoop) : Bool :=
    h.gid == w.gid && h.wg == w.wg && h.role == w.role && h.pc == pc && h.tags == tags && !fullHoop h
  match c.hoops.findIdx? same with
  | some i =>
    ({ c with hoops := modAt c.hoops i fun h =>
        let h := { h with threads := h.threads ++ [t], fstat := h.fstat ||| w.allFlags }
        { h with due := h.due || fullHoop h } }, true)
  | none =>
    if c.hoops.length < 32 then
      ({ c with hoops := c.hoops ++
          [{ gid := w.gid, wg := w.wg, role := w.role, pc := pc, tags := tags, threads := [t], uregs := w.uregs,
             fstat := w.allFlags, ctx := w.ctx, age := c.reformage, due := false, seqNo := seqNo }] }, true)
    else
      match oldestHoop c.hoops with
      | some i => ({ c with hoops := modAt c.hoops i fun h => { h with due := true } }, false)
      | none => (c, false)

/-- A warp of a workgroup as it starts: lanes in RUN at an address, registers VOID or zero (R272). -/
def freshWarp (kind : WarpKind) (gid wg wid role core slot budget nlanes : Nat) (pc : Word) (ctx : Ctx) : Warp :=
  { kind := kind, gid := gid, wg := wg, wid := wid, role := role, core := core, slot := slot,
    lanes := (List.range nlanes).map fun l =>
      { pc := pc, st := .run, tid := BitVec.ofNat 16 (wid * 32 + l), delivery := none },
    vregs := List.replicate budget VReg.void, uregs := List.replicate 64 0,
    preds := List.replicate 32 allOnes16 :: List.replicate 7 (List.replicate 32 0),
    bound := [], fstat := 0, clk := 0, dly := 0, swPark := false, recent := [], flights := [], pair := none,
    starve := [], first := none, replay := [], drawn := false, handler := .none, asks := [], pendingFault := false, owes := [], away := none, goal := none, ctx := ctx }

/-- The warp drawn from a hoop (R254) into the slot of warp index `wid`. -/
def drawnWarp (h : Hoop) (core slot wid budget : Nat) : Warp :=
  let base := freshWarp .user h.gid h.wg wid h.role core slot budget 32 h.pc h.ctx
  { base with
    lanes := allLanes.map fun l =>
      match h.threads[l]? with
      | some t => { pc := h.pc, st := .run, tid := t.tid, delivery := none }
      | none => { pc := h.pc, st := .exited, tid := 0, delivery := none },
    vregs := mapFrom 0 (fun i t =>
      { tag := t, shape := .general,
        lanes := allLanes.map fun l => match h.threads[l]? with | some x => x.vals.getD i 0 | none => 0 }) h.tags,
    preds := (List.range 8).map fun i =>
      allLanes.map fun l => match h.threads[l]? with | some x => x.preds.getD i 0 | none => 0,
    uregs := h.uregs, fstat := h.fstat, drawn := true }

/-- The free warp slot of a role that a workgroup holds: the warp index and the slot (R251, R253). -/
def State.freeRoleSlot (s : State) (gid wg role : Nat) : Option (Nat × Nat × Nat) :=
  match aget s.groups gid with
  | none => none
  | some g =>
    match g.wgs[wg]?, aget s.launches g.lid with
    | some x, some l =>
      ((mapFrom 0 (fun i sl => (i, sl)) x.slots).find? fun p =>
        l.record.roleOf p.1 == role && (aget s.warps (x.core * 64 + p.2)).isNone).map fun p => (p.1, p.2, x.core)
    | _, _ => none

/-- Draw a hoop of a core when it is due and its workgroup holds a free slot of the role (R253). Its threads take part in the open
barriers again (R211). -/
def State.drawHoop (s : State) (core i : Nat) : State :=
  let c := s.core core
  match c.hoops[i]? with
  | none => s
  | some h =>
    if !h.due then s else
    match s.freeRoleSlot h.gid h.wg h.role with
    | none => s
    | some (wid, slot, home) =>
      let w := drawnWarp h home slot wid h.tags.length
      ((s.setCore core { c with hoops := c.hoops.eraseIdx i }).setWarp (home * 64 + slot) w).settleBars

end Sys2Proof.Machine
end

