-- ==== Sys2Proof/Machine/Slots.lean ====
section
/-! DEFINITION. Page slots and their tags (R346, R347, R352), the location directory and its levels (R359, R360), the line
directory (R365), and what an access that finds no way leaves behind (R363). -/
namespace Sys2Proof.Machine

/-! ### Places -/

/-- Whether a memory key lies in the homeless space (R322). -/
def isHomeless (k : Nat) : Bool := k < 2 ^ 54
/-- Whether a memory key lies in host memory (R322). -/
def isHostKey (k : Nat) : Bool := 2 ^ 55 ≤ k && k < 2 ^ 55 + 2 ^ 54
def gpnOf (k : Nat) : Nat := k / 2 ^ 16
def lineIx (k : Nat) : Nat := k / 256 % 256
def lineKey (k : Nat) : Nat := k / 256

def setBit256 (x : BitVec 256) (i : Nat) : BitVec 256 := x ||| ((1 : BitVec 256) <<< i)
def clrBit256 (x : BitVec 256) (i : Nat) : BitVec 256 := x &&& ~~~((1 : BitVec 256) <<< i)

def Slot.void : Slot :=
  { gpn := 0, st := 0, pin := false, guard := false, stamp := 0, valid := 0, dirty := 0, lpsn := 0, vsel := false }

def Slot.isMaster (x : Slot) : Bool := x.st == 2
def Slot.isReplica (x : Slot) : Bool := x.st == 1

/-- INVALID, the stamp kept (R352). -/
def Slot.drop (x : Slot) : Slot := { Slot.void with stamp := x.stamp }

/-- The set of a page on a package (R346). -/
def Pkg.setOf (p : Pkg) (gpn : Nat) : Nat := if p.nsets = 0 then 0 else gpn % p.nsets

def Pkg.way (p : Pkg) (set way : Nat) : Slot := (aget p.slots (set * 8 + way)).getD Slot.void

/-- The die that holds the tags of a set (R347). -/
def tagDie (pkg set : Nat) : Nat := pkg * 8 + set % 16 / 2

/-- The die that holds the tags of a page on a package. -/
def State.pageDie (s : State) (pkg gpn : Nat) : Nat := tagDie pkg ((s.pkg pkg).setOf gpn)

/-- A slot's place in a package. -/
inductive SlotAt where
  | way (set way : Nat)
  | pool (ix : Nat)
  deriving DecidableEq, Repr

def Pkg.slotAt (p : Pkg) : SlotAt → Slot
  | .way s w => p.way s w
  | .pool i => (aget p.pool i).getD Slot.void

/-- What changes of a slot's tag are counted under. -/
def SlotAt.tagKey : SlotAt → Nat
  | .way s _ => s
  | .pool _ => 2 ^ 32

/-- Changes so far that a first write into a set waits for: those of the set's tags and of the reserve pool (R363). -/
def Pkg.roomMark (p : Pkg) (set : Nat) : Nat := (aget p.tagN set).getD 0 + (aget p.tagN (2 ^ 32)).getD 0

def Pkg.putSlot (p : Pkg) (a : SlotAt) (x : Slot) : Pkg :=
  if p.slotAt a = x then p
  else
    let p := { p with tagN := aset p.tagN a.tagKey ((aget p.tagN a.tagKey).getD 0 + 1) }
    match a with
    | .way s w => { p with slots := aset p.slots (s * 8 + w) x }
    | .pool i => { p with pool := if x.st == 0 then adel p.pool i else aset p.pool i x }

/-- The slots of a package that hold a page. -/
def Pkg.slotsOf (p : Pkg) (gpn : Nat) : List SlotAt :=
  let s := p.setOf gpn
  let ws := ((List.range p.ways).filter fun w => (p.way s w).st != 0 && (p.way s w).gpn == gpn).map (SlotAt.way s)
  ws ++ (p.pool.filter fun e => e.2.st != 0 && e.2.gpn == gpn).map fun e => SlotAt.pool e.1

/-- The slot that holds the master of a page. -/
def Pkg.masterOf (p : Pkg) (gpn : Nat) : Option SlotAt := (p.slotsOf gpn).find? fun a => (p.slotAt a).isMaster

/-- The slot of a page's guard replica. -/
def Pkg.guardOf (p : Pkg) (gpn : Nat) : Option SlotAt := (p.slotsOf gpn).find? fun a => (p.slotAt a).guard

/-- The slot that serves a page locally: its master, else a replica. -/
def Pkg.localOf (p : Pkg) (gpn : Nat) : Option SlotAt :=
  match p.masterOf gpn with
  | some a => some a
  | none => (p.slotsOf gpn).head?

/-- The slot of a package that serves a line of a page: a master, or a replica that holds the line valid. -/
def Pkg.serves (p : Pkg) (gpn l : Nat) : Option SlotAt :=
  (p.localOf gpn).filter fun a => (p.slotAt a).isMaster || (p.slotAt a).valid.getLsbD l

def State.modSlot (s : State) (pkg : Nat) (a : SlotAt) (g : Slot → Slot) : State :=
  s.modPkg pkg fun p => p.putSlot a (g (p.slotAt a))

/-- A slot serves an access: it becomes the newest of its set (R352). -/
def State.touch (s : State) (pkg : Nat) (a : SlotAt) : State :=
  { s.modSlot pkg a (fun x => { x with stamp := s.nextId }) with nextId := s.nextId + 1 }

/-- A slot is filled: it takes a page and becomes the newest of its set. -/
def State.fill (s : State) (pkg : Nat) (a : SlotAt) (x : Slot) : State :=
  { s.modSlot pkg a (fun _ => { x with stamp := s.nextId }) with nextId := s.nextId + 1 }

def bumpAm (p : Pkg) (i : Nat) : Pkg := { p with am := modAt p.am i fun x => min (x + 1) (2 ^ 64 - 1) }

/-- Make a slot INVALID. -/
def State.invalidate (s : State) (pkg : Nat) (a : SlotAt) : State := s.modSlot pkg a Slot.drop

/-- Every slot of the pod that holds a page. -/
def State.holders (s : State) (gpn : Nat) : List (Nat × SlotAt) :=
  s.pkgs.flatMap fun e => (e.2.slotsOf gpn).map fun a => (e.1, a)

/-- The master's package and slot. -/
def State.masterSlot (s : State) (gpn : Nat) : Option (Nat × SlotAt) :=
  (s.dirEnt gpn).master.bind fun m => ((s.pkg m).masterOf gpn).map fun a => (m, a)

/-! ### Dies in reset, and waiting for a way (R363, R370) -/

/-- The die of a page's tags on a package, while it is in reset: accesses to its sets are held (R370). -/
def State.offDie (s : State) (pkg gpn : Nat) : Option Nat :=
  let d := s.pageDie pkg gpn
  if (s.die d).inReset then some d else none

/-- Key under which a package counts the resets of one of its dies that have ended. -/
def resetKey (die : Nat) : Nat := 2 ^ 33 + die % 8

/-- An access of an agent that must wait: for a way, with the state in which the counters of the attempt and the room it made
stand, and the set of the package whose tags its retry waits for (R363); or for the end of a die's reset, by its key (R370). -/
structure Wait where
  s : State
  pkg : Nat
  set : Nat

/-- What an access that may have to wait comes to. -/
abbrev Try (α : Type) := Except Wait α

/-- What a waiting access remembers. -/
def Wait.mark (x : Wait) : Nat × Nat × Nat := (x.pkg, x.set, (x.s.pkg x.pkg).roomMark x.set)

/-- A tag of the set, or of the reserve pool, has changed since. -/
def State.roomChanged (s : State) (m : Nat × Nat × Nat) : Bool := (s.pkg m.1).roomMark m.2.1 != m.2.2

/-- An agent whose first write waits tries again at the next change of a tag. -/
def State.mayTry (s : State) (key : Nat) : Bool :=
  match aget s.tries key with | some m => s.roomChanged m | none => true

/-- The outcome of an agent's attempt. -/
def State.attempt (key : Nat) : Try State → State
  | .ok t => { t with tries := adel t.tries key }
  | .error x => { x.s with tries := aset x.s.tries key x.mark }

/-- One attempt of an agent, when it may make it. -/
def State.tryAs (s : State) (key : Nat) (g : State → Try State) : State :=
  if s.mayTry key then State.attempt key (g s) else s

/-- What waits has written no byte and reported nothing. -/
def Try.clean {α : Type} (s : State) : Try α → Try α
  | .ok a => .ok a
  | .error x => .error { x with s := { x.s with mem := s.mem, agenda := s.agenda } }

/-- Keys of the agents: copies, engines, launches, publishes, dies' rings, packages' held requests, quad groups. -/
inductive Trier where
  | copy (id : Nat)
  | engine (id : Nat)
  | launch (id : Nat)
  | publish (id : Nat)
  | ring (die : Nat)
  | held (pkg : Nat)
  | backfill (pkg : Nat)
  | group (id : Nat)
  deriving DecidableEq, Repr

def Trier.key : Trier → Nat
  | .copy n => 8 * n
  | .engine n => 8 * n + 1
  | .launch n => 8 * n + 2
  | .publish n => 8 * n + 3
  | .ring n => 8 * n + 4
  | .held n => 8 * n + 5
  | .backfill n => 8 * n + 6
  | .group n => 8 * n + 7

/-- A lane's instruction waits for a way (R363). -/
def Env.waits (e : Env) (x : Wait) : State := e.holds x.s (.room x.mark.1 x.mark.2.1 x.mark.2.2)

/-! ### The location directory (R359, R360)

One entry per page holds what its level-1 and level-2 entries hold together; the entries themselves and the packages that
hold them follow from it. -/

/-- The leaf group of a package, and its size. -/
def leafGroup (p : Nat) : Nat := p / 32
def State.groupSize (s : State) (g : Nat) : Nat := min 32 (s.podN - 32 * g)

/-- The first of `n` packages from `base` up that survives, in cyclic order from position `i`. -/
def State.survivor (s : State) (base n i : Nat) : Option Nat :=
  ((List.range n).map fun j => base + (i + j) % n).find? fun p => !s.lostPkgs.contains p

/-- The packages that hold a page's level-1 entry of a group and its level-2 entry (R359, R372). -/
def State.holder1 (s : State) (g gpn : Nat) : Option Nat := s.survivor (32 * g) (s.groupSize g) (gpn % s.groupSize g)
def State.holder2 (s : State) (gpn : Nat) : Option Nat := s.survivor 0 s.podN (gpn % s.podN)

/-- A level-1 entry: the master's package or OUTSIDE (`none`), the replicas' packages of the group, and the page's marks. -/
structure Level1 where
  master : Option Nat
  replicas : BitVec 32
  guardAt : Option (Nat × Bool)
  dup : Bool
  lost : Bool
  deriving DecidableEq, Repr

/-- A level-2 entry: the master's group, the groups with replicas, and the page's marks and shadow state. -/
structure Level2 where
  group : Option Nat
  replicas : BitVec 128
  dup : Bool
  lost : Bool
  vsel : Bool
  flipping : Bool
  mask : BitVec 2048
  deriving DecidableEq, Repr

/-- Packages that hold a replica, the guard among them. -/
def DirEnt.copies (d : DirEnt) : List Nat :=
  (d.replicas ++ match d.guardAt with | some (g, _) => [g] | none => []).eraseDups

/-- A group's level-1 entry stands where the group holds a copy of the page. -/
def State.level1 (s : State) (g gpn : Nat) : Option Level1 :=
  let d := s.dirEnt gpn
  let here := d.copies.filter fun p => leafGroup p == g
  let m := d.master.filter fun p => leafGroup p == g
  if here.isEmpty && m.isNone then none
  else some { master := m, replicas := here.foldl (fun a p => a ||| ((1 : BitVec 32) <<< (p % 32))) 0,
              guardAt := d.guardAt.filter fun x => leafGroup x.1 == g, dup := d.dup, lost := d.lost }

def State.level2 (s : State) (gpn : Nat) : Option Level2 :=
  (aget s.dir gpn).map fun d =>
    { group := d.master.map leafGroup, replicas := d.copies.foldl (fun a p => a ||| ((1 : BitVec 128) <<< leafGroup p)) 0,
      dup := d.dup, lost := d.lost, vsel := d.vsel, flipping := d.flipping, mask := d.mask }

/-- What `locate` answers. -/
inductive Located where
  | slot (a : SlotAt)
  | master (p : Nat)
  | noCopy
  | lost
  deriving DecidableEq, Repr

/-- `locate` of R360. A tag-cache answer is used where it still names the master; a stale one restarts at level 1. -/
def State.locate (s : State) (gpn p : Nat) : Located :=
  match (s.pkg p).localOf gpn with
  | some a => .slot a
  | none =>
    let above : Located :=
      match s.level2 gpn with
      | none => .noCopy
      | some e2 =>
        if e2.lost then .lost
        else match (e2.group.bind fun g => s.level1 g gpn).bind Level1.master with
          | some q => .master q
          | none => .noCopy
    match aget (s.pkg p).tagCache gpn with
    | some q => if (s.dirEnt gpn).master == some q then .master q else above
    | none =>
      match (s.level1 (leafGroup p) gpn).bind Level1.master with
      | some q => .master q
      | none => above

/-- The package's tag cache keeps the answer. -/
def State.learn (s : State) (gpn p : Nat) : State :=
  match s.locate gpn p with
  | .master q => s.modPkg p fun k => { k with tagCache := aset k.tagCache gpn q }
  | .noCopy | .lost => s.modPkg p fun k => { k with tagCache := adel k.tagCache gpn }
  | .slot _ => s

/-- VSEL of a page with a shadow frame is copied into every slot of both storages (R359). -/
def State.copyVsel (s : State) (frame shadow : Nat) : State :=
  let v := (s.dirEnt frame).vsel
  (s.holders frame ++ s.holders shadow).foldl (fun s h => s.modSlot h.1 h.2 fun x => { x with vsel := v }) s

/-! ### The line directory (R365) -/

/-- Lines of a page that the L2s of a package hold. -/
def State.l2Mask (s : State) (pkg gpn : Nat) : BitVec 256 :=
  (s.dies.filter fun e => e.1 / 8 == pkg).foldl (fun m e =>
    (e.2.l2.filter fun x => x.1 / 256 == gpn).foldl (fun m x => setBit256 m (x.1 % 256)) m) 0

/-- The line directory of a page's master: an entry for every other package that holds a replica or, in its L2, lines of the
page, with the mask of those lines. -/
def State.relist (s : State) (gpn : Nat) : State :=
  if !isHomeless (gpn * 65536) then s
  else
    let d := s.dirEnt gpn
    let entry (q : Nat) : Option (Nat × BitVec 256) :=
      let ss := (s.pkg q).slotsOf gpn
      let m := s.l2Mask q gpn
      if some q == d.master || (ss.isEmpty && m == 0) then none
      else some (q, ss.foldl (fun x a => x ||| ((s.pkg q).slotAt a).valid) m)
    let qs := (s.pkgs.map Prod.fst ++ s.dies.map fun (e : Nat × Die) => e.1 / 8).eraseDups
    let l := if d.master.isSome then qs.filterMap entry else []
    if d.lineDir = l then s else s.modDir gpn fun d => { d with lineDir := l }

/-- Entries that the masters on one die's stacks use. -/
def State.ldirDie (s : State) (die : Nat) : Nat :=
  let p := die / 8
  ((s.dir.filter fun e => e.2.master == some p && s.pageDie p e.1 == die).map fun e => e.2.lineDir.length).foldl (· + ·) 0

/-- Entries in the overflow part of a package. -/
def State.ldirOver (s : State) (p : Nat) : Nat :=
  ((List.range 8).map fun d => s.ldirDie (p * 8 + d) - 65536).foldl (· + ·) 0

/-- The overflow part holds 5 GiB of 64-byte entries. -/
def ldirCap : Nat := 5 * 2 ^ 30 / 64

/-- Entries that the line directory of a package can still take for the masters of one die, on chip and in the overflow part. -/
def State.ldirFree (s : State) (die : Nat) : Nat := (65536 - s.ldirDie die) + (ldirCap - s.ldirOver (die / 8))

/-- Whether the line directory of a page's master has or can take an entry for a package (R365). -/
def State.ldirRoom (s : State) (m gpn pkg : Nat) : Bool :=
  ((s.dirEnt gpn).lineDir.any fun e => e.1 == pkg) || decide (0 < s.ldirFree (s.pageDie m gpn))

end Sys2Proof.Machine
end

