-- ==== Sys2Proof/Machine/Routes.lean ====
section
/-! DEFINITION. Routes inside a package (R387), who serves a line (R355), and whether a die reaches a byte of memory. -/
namespace Sys2Proof.Machine

def linkKey (pkg n : Nat) : Nat := pkg * 16 + n

def State.linkUp (s : State) (pkg n : Nat) : Bool := !(s.link (linkKey pkg n)).down

/-- The ring links that a route from one die to another crosses in ascending die order, and in descending order. -/
def ringAsc (i j : Nat) : List Nat := (List.range ((j + 8 - i) % 8)).map fun k => (i + k) % 8
def ringDesc (i j : Nat) : List Nat := (ringAsc j i).reverse

/-- The first of some routes whose links are all up. -/
def State.firstUp (s : State) (pkg : Nat) (rs : List (List Nat)) : Option (List Nat) := rs.find? fun r => r.all (s.linkUp pkg)

/-- The route from one compute die of a package to another, as the links it crosses: round the ring in the direction of the
shorter way, ascending for four dies; the other direction; over both hub links. -/
def State.dieRoute (s : State) (pkg i j : Nat) : Option (List Nat) :=
  let ring := if (j + 8 - i) % 8 ≤ 4 then [ringAsc i j, ringDesc i j] else [ringDesc i j, ringAsc i j]
  if i = j then some [] else s.firstUp pkg (ring ++ [[i + 8, j + 8]])

/-- The route between a compute die and the switch die: its hub link, or a ring neighbour's. -/
def State.hubRoute (s : State) (pkg i : Nat) : Option (List Nat) :=
  s.firstUp pkg [[i + 8], [i, (i + 1) % 8 + 8], [(i + 7) % 8, (i + 7) % 8 + 8]]

def State.routeDies (s : State) (pkg i j : Nat) : Bool := (s.dieRoute pkg i j).isSome
def State.routeSD (s : State) (pkg i : Nat) : Bool := (s.hubRoute pkg i).isSome

/-- A route between two compute dies of the pod. -/
def State.routeTo (s : State) (die to_ : Nat) : Bool :=
  if die / 8 == to_ / 8 then s.routeDies (die / 8) (die % 8) (to_ % 8)
  else s.routeSD (die / 8) (die % 8) && s.routeSD (to_ / 8) (to_ % 8)

/-- A package whose tags can serve others now. -/
def State.answers (s : State) (pkg gpn : Nat) : Bool := !s.dead.contains pkg && !(s.die (s.pageDie pkg gpn)).inReset

/-- A replica in the reader's leaf group, the guard among them, that holds the line (R355). -/
def State.nearReplica (s : State) (pkg gpn l : Nat) : Option (Nat × SlotAt) :=
  ((s.dirEnt gpn).copies.filter fun r => r != pkg && leafGroup r == leafGroup pkg && s.answers r gpn).findSome? fun r =>
    ((s.pkg r).serves gpn l).map fun a => (r, a)

/-- The die of an L2 of another package that holds the line dirty: until the write-back reads are served from it (R352). -/
def State.dirtyAway (s : State) (pkg line : Nat) : Option Nat :=
  (s.dies.find? fun e => e.1 / 8 != pkg && match aget e.2.l2 line with | some x => x.dirty != 0 | none => false).map Prod.fst

/-- The L2 of the package that holds a line, if one does. -/
def State.pkgHolds (s : State) (pkg line : Nat) : Option Nat :=
  (s.dies.find? fun e => e.1 / 8 == pkg && (aget e.2.l2 line).isSome).map Prod.fst

/-- The die that serves a homeless line for an agent of a package: an L2 of the package, an L2 that holds it dirty, a local
slot, a near replica, the master; a page with no master is served where its first write would place it. -/
def State.serving (s : State) (pkg k : Nat) : Nat :=
  let g := gpnOf k
  match s.pkgHolds pkg (lineKey k) with
  | some d => d
  | none =>
    match s.dirtyAway pkg (lineKey k) with
    | some d => d
    | none =>
      if ((s.pkg pkg).serves g (lineIx k)).isSome then s.pageDie pkg g
      else match s.nearReplica pkg g (lineIx k) with
        | some r => s.pageDie r.1 g
        | none => match (s.dirEnt g).master with | some m => s.pageDie m g | none => s.pageDie pkg g

/-- Whether a route stands between a compute die and a memory key. -/
def State.reaches (s : State) (die k : Nat) : Bool :=
  if isSpadKey k then s.routeTo die (dieOf ((k - 2 ^ 80) / 2 ^ 20))
  else if !isHomeless k then s.routeSD (pkgOfDie die) (die % 8)
  else (aget (s.die die).l2 (lineKey k)).isSome || s.routeTo die (s.serving (pkgOfDie die) k)

/-- The packet of a load of a line to the package that serves it has failed (R400). -/
def State.loadFails (s : State) (pkg k : Nat) : Bool :=
  isHomeless k && (s.pkg pkg).failed.contains (pkgOfDie (s.serving pkg k), k / 256)

/-- The failed load of a line has faulted: its packet is forgotten, and a replay sends another (R400). -/
def State.loadFaulted (s : State) (pkg k : Nat) : State :=
  if s.loadFails pkg k then s.modPkg pkg fun p => { p with failed := p.failed.filter fun x => x.2 != k / 256 } else s

/-- A route stands between a compute die and a register page of its package (R323, R387). -/
def State.reachesPage (s : State) (die page : Nat) : Bool :=
  if page = 0 then s.routeSD (pkgOfDie die) (die % 8) else s.routeDies (pkgOfDie die) (die % 8) (page - 1)

/-- The same from the switch die of a package. -/
def State.reachesSD (s : State) (pkg k : Nat) : Bool :=
  !isHomeless k || (let t := s.serving pkg k; s.routeSD (pkgOfDie t) (t % 8))

/-- Why a write-back from a die cannot reach the storage of its line, as the cause of the store error: the page is LOST, or
its master has no power, or no route stands to it or to the switch die's ports (R371, R387). -/
def State.backFault (s : State) (die line : Nat) : Option Nat :=
  if isHomeless (line * 256) then
    if (s.dirEnt (line / 256)).lost then some POISON
    else match (s.dirEnt (line / 256)).master with
      | some m => if !s.dead.contains m && s.routeTo die (s.pageDie m (line / 256)) then none else some RLOAD
      | none => none
  else if s.routeSD (pkgOfDie die) (die % 8) then none else some RLOAD

/-- A write-back of a homeless line is held while the die of its master's set, or of its guard's, is in reset (R370). -/
def State.backHeld (s : State) (line : Nat) : Bool :=
  isHomeless (line * 256) &&
    (let d := s.dirEnt (line / 256)
     (d.master.bind fun m => s.offDie m (line / 256)).isSome || (d.guardAt.bind fun g => s.offDie g.1 (line / 256)).isSome)

end Sys2Proof.Machine
end

