-- ==== Sys2Proof/Machine/Caches.lean ====
section
/-! DEFINITION. The L2 of a die: its lines and their order of eviction (R3, R48), write-back into the master (R352, R370), and
the traffic that token buckets count (R276). The model holds no L1 (log entry 2). -/
namespace Sys2Proof.Machine

/-! ### Token buckets (R276) -/

/-- A stalled class: its bucket is enabled and below zero. -/
def Pkg.stalled (p : Pkg) (b : Nat) : Bool :=
  match p.buckets[b]? with
  | some x => x.rate != 0 && decide (x.level < 0)
  | none => false

/-- Sectors of a class cross a CXL or fabric port of a package. -/
def State.charge (s : State) (pkg b n : Nat) : State :=
  if n = 0 then s
  else s.modPkg pkg fun p => { p with buckets := modAt p.buckets b fun x => { x with level := x.level - 32 * n } }

/-- Whether a line's bytes and a package are joined by a port: the master of a homeless line stands elsewhere, or the line
belongs to the capacity tier or to a host. -/
def State.crosses (s : State) (pkg line : Nat) : Bool :=
  if isHomeless (line * 256) then (match (s.dirEnt (line / 256)).master with | some m => m != pkg | none => false) else true

/-! ### Lines -/

/-- A clean line, as it enters an L2. -/
def L2Line.clean : L2Line := { owned := false, dirty := 0, asid := 0, bkt := 16, gran := [], ord := 0 }

/-- 96 MiB of 256-byte lines (R3). -/
def l2Cap : Nat := 393216

/-- The place that an access gives its line in the order of eviction: before all others for first-evict, behind all others for
last-evict (R48). -/
def hintOrd (l2 : AMap L2Line) (cur : Int) (ch : Nat) : Int :=
  match ch with
  | 1 => l2.foldl (fun a e => min a e.2.ord) cur - 1
  | 2 => l2.foldl (fun a e => max a e.2.ord) cur + 1
  | _ => cur

/-- Drop a line from the L2 of every die for which `p` holds; the line directory follows. -/
def State.dropL2 (s : State) (line : Nat) (p : Nat → Bool) : State :=
  { s with dies := s.dies.map fun (e : Nat × Die) => if p e.1 then (e.1, { e.2 with l2 := adel e.2.l2 line }) else e }.relist (line / 256)

/-- Eight DIRTY bits of a line from its dirty sectors (R352). -/
def dirtyAt (line : Nat) (sec : BitVec 8) : BitVec 2048 := (sec.setWidth 2048) <<< (8 * (line % 256))

/-- Written sectors of a line reach the master's slot: VALID is set, DIRTY gains them, and LPSN clears when all eight are set
again (R352, R370). The guard takes the line too (R369). -/
def State.masterTakes (s : State) (line : Nat) (sec : BitVec 8) : State :=
  let gpn := line / 256
  let l := line % 256
  match s.masterSlot gpn with
  | none => s
  | some (m, a) =>
    let s := s.modSlot m a fun x =>
      let dirty := x.dirty ||| dirtyAt line sec
      let full := (dirty >>> (8 * l)).setWidth 8 == BitVec.allOnes 8
      { x with valid := setBit256 x.valid l, dirty := dirty, lpsn := if full then clrBit256 x.lpsn l else x.lpsn }
    match (s.dirEnt gpn).guardAt with
    | none => s
    | some (g, _) =>
      match (s.pkg g).guardOf gpn with
      | some ga => (s.modSlot g ga fun x => { x with valid := setBit256 x.valid l }).relist gpn
      | none => s

/-- Nothing tells what the named sectors of a line hold. -/
def State.scramble (s : State) (line : Nat) (sec : BitVec 8) : State :=
  let ws := (List.range 256).filterMap fun i =>
    if sec.getLsbD (i / 32) then some (line * 256 + i, Config.lostByte s.freeN i) else none
  { s.write ws with freeN := s.freeN + 1 }

/-- The dirty sectors of a line of a die's L2 go back to its storage (R352), unless the set is held (R370); the line stays there
clean. Where the page is LOST, no route to its storage stands or the master's package has no power, the write-back fails (R371,
R387): it is reported to the queue of its last writer, and its sectors are lost. -/
def State.putBack (s : State) (die line : Nat) : State :=
  match aget (s.die die).l2 line with
  | none => s
  | some x =>
    let pkg := pkgOfDie die
    if x.dirty == 0 || s.backHeld line then s
    else
      match s.backFault die line with
      | none =>
        let s := s.modDie die fun d => { d with l2 := aset d.l2 line { x with dirty := 0 } }
        let s := if s.crosses pkg line then s.charge pkg x.bkt (popN 8 x.dirty.toNat) else s
        if isHomeless (line * 256) then s.masterTakes line x.dirty else s
      | some c =>
        let e : StoreErr :=
          { asid := x.asid.toNat, addr := s.physAddr (line * 256), peer := pkg, cause := c, src := 0, wg := 0xFFFFFFFF }
        let s := (s.dropL2 line (· == die)).scramble line x.dirty
        { s with agenda := .event (.storeError pkg e) :: s.agenda }

/-- A line of a die's L2 that is dirty, as one is that a held write-back leaves. -/
def State.dirtyIn (s : State) (die line : Nat) : Bool :=
  match aget (s.die die).l2 line with | some x => x.dirty != 0 | none => false

/-- Write back a line that an L2 keeps (R352). Granules of HOST lines are written back only as they are evicted, snooped or
flushed (R402). -/
def State.writeBackLine (s : State) (die line : Nat) : State :=
  match aget (s.die die).l2 line with
  | some x => if x.gran.isEmpty then s.putBack die line else s
  | none => s

/-- Evict a line: what is dirty is written back, a HOST granule in M with DirtyEvict (R402, R425), and the line goes. -/
def State.evictLine (s : State) (die line : Nat) : State :=
  let t := s.putBack die line
  t.dropL2 line fun d => d == die && !t.dirtyIn die line

/-- Write back every dirty line of a die's L2. -/
def State.writeBackDie (s : State) (die : Nat) : State :=
  ((s.die die).l2.map Prod.fst).foldl (fun s l => s.writeBackLine die l) s

/-- A line leaves nothing dirty: a HOST line that is dirty is evicted (R163, R224, R402). -/
def State.cleanLine (s : State) (die line : Nat) : State :=
  let t := s.writeBackLine die line
  if t.dirtyIn die line then t.evictLine die line else t

/-- No line of a die's L2 stays dirty (R224). -/
def State.cleanDie (s : State) (die : Nat) : State := ((s.die die).l2.map Prod.fst).foldl (fun s l => s.cleanLine die l) s

/-- A halted die writes back what an operation that was outstanding at the `halt` has left dirty (R224). -/
def State.settleHalt (s : State) (die : Nat) : State := if (s.die die).halted then s.cleanDie die else s

/-- A full L2 gives up the line that is first in its order of eviction, of those whose write-back is not held; where every line
waits for a die in reset, none goes and the L2 holds one line more meanwhile. Among lines of one place the choice is free
(DESIGN CHOICE, log entry 2). -/
def State.lineRoom (s : State) (die : Nat) : State :=
  if (s.die die).l2.length < l2Cap then s
  else
    match (s.die die).l2.filter fun x => x.2.dirty == 0 || !s.backHeld x.1 with
    | [] => s
    | e :: es =>
      let low := es.foldl (fun a x => min a x.2.ord) e.2.ord
      let cs := (e :: es).filter fun x => x.2.ord == low
      let pk := s.pick cs.length
      match cs[pk.1]? with
      | some x => pk.2.evictLine die x.1
      | none => s

/-- An access through a die's L2 under a cache hint: the line enters where it is absent, changes as the access says, and takes
the place that the hint gives it. Lines of normal accesses enter at place 0 and keep their places. -/
def State.l2Put (s : State) (die line ch : Nat) (g : L2Line → L2Line) : State :=
  let s := if (aget (s.die die).l2 line).isSome then s else s.lineRoom die
  let l2 := (s.die die).l2
  let x := (aget l2 line).getD L2Line.clean
  (s.modDie die fun d => { d with l2 := aset d.l2 line (g { x with ord := hintOrd l2 x.ord ch }) }).relist (line / 256)

/-- Write back and drop a line from every L2 for which `p` holds; one whose write-back is held stays. -/
def State.flushLine (s : State) (line : Nat) (p : Nat → Bool) : State :=
  let ds := (s.dies.filter fun e => p e.1 && (aget e.2.l2 line).isSome).map Prod.fst
  let t := ds.foldl (fun s d => s.putBack d line) s
  t.dropL2 line fun d => p d && !t.dirtyIn d line

/-- Lines of a page that some L2 holds. -/
def State.pageLines (s : State) (gpn : Nat) : List Nat :=
  (s.dies.flatMap fun e => (e.2.l2.filter fun x => x.1 / 256 == gpn && isHomeless (x.1 * 256)).map Prod.fst).eraseDups

/-- Write back and drop every cached line of a page, pod-wide. -/
def State.flushPage (s : State) (gpn : Nat) : State :=
  (s.pageLines gpn).foldl (fun s l => s.flushLine l fun _ => true) s

/-! ### Granules of HOST lines (R402, R425) -/

def isHostLine (s : State) (k : Nat) : Bool :=
  isHostKey k || (isHomeless k && (s.dirEnt (gpnOf k)).hostBias.isSome)

/-- State of the granule of a key in an L2 line (R402). -/
def L2Line.granAt (x : L2Line) (k : Nat) : BitVec 2 := x.gran.getD (k / 64 % 4) 0
def State.granAt (s : State) (die k : Nat) : BitVec 2 :=
  match aget (s.die die).l2 (lineKey k) with | some x => x.granAt k | none => 0

/-- A snoop of a HOST granule in a die's L2 (R402): its state after it. Dirty data of M goes to the host, across its port; a line
with no granule left goes. -/
def State.snoop (s : State) (die k : Nat) (to_ : BitVec 2) : State :=
  match aget (s.die die).l2 (lineKey k) with
  | none => s
  | some x =>
    let i := k / 64 % 4
    let ret := x.dirty &&& ((3 : BitVec 8) <<< (2 * i))
    let y := { x with gran := modAt x.gran i fun c => if c == 0 then 0 else to_, dirty := x.dirty &&& ~~~ret }
    let s := s.modDie die fun d =>
      { d with l2 := if y.gran.all fun c => c == 0 then adel d.l2 (lineKey k) else aset d.l2 (lineKey k) y }
    let s := s.charge (pkgOfDie die) x.bkt (popN 8 ret.toNat)
    let s := if isHomeless k && ret != 0 then
        s.modDir (gpnOf k) fun d => { d with hostDirty := d.hostDirty ||| dirtyAt (lineKey k) ret } else s
    s.relist (lineKey k / 256)

/-- Every L2 but one takes a snoop. -/
def State.snoopOthers (s : State) (die k : Nat) (to_ : BitVec 2) : State :=
  ((s.dies.map Prod.fst).filter (· != die)).foldl (fun s d => s.snoop d k to_) s

/-- The host's answer to a load miss: shared or not. The outside world gives it, where it has given one; else it is a free
choice (log entry 65). Where another cache holds the granule the host answers shared. -/
def State.hostAnswer (s : State) (die k : Nat) : Bool × State :=
  if (s.dies.any fun e => e.1 != die && s.granAt e.1 k != 0) then (true, s)
  else match s.hostAns with
    | b :: bs => (b, { s with hostAns := bs })
    | [] => let pk := s.pick 2; (pk.1 == 0, pk.2)

/-- A granule of a homeless page in host bias that another package masters is served without allocation (R363, R425). -/
def State.remoteGranule (s : State) (pkg k : Nat) : State :=
  if isHomeless k && (s.dirEnt (gpnOf k)).master != some pkg then s.modPkg pkg fun p => bumpAm p 5 else s

/-- A HOST granule is obtained from the host (R402): I goes to S or E on a load miss; a store or atomic makes it E and then M,
every other cache giving it up; a load miss leaves the others S. -/
def State.granule (s : State) (die bkt ch k : Nat) (write : Bool) : State :=
  let cur := s.granAt die k
  let miss := cur == 0
  let s := if miss then (s.charge (pkgOfDie die) bkt 2).occurs (die * 32) 1 0x08 else s
  let s := if miss then s.remoteGranule (pkgOfDie die) k else s
  let r : BitVec 2 × State :=
    if write then (3, s.snoopOthers die k 0)
    else if !miss then (cur, s)
    else let a := s.hostAnswer die k; (if a.1 then 1 else 2, a.2.snoopOthers die k 1)
  r.2.l2Put die (lineKey k) ch fun x =>
    { x with gran := modAt (if x.gran.isEmpty then [0, 0, 0, 0] else x.gran) (k / 64 % 4) fun _ => r.1 }

/-- An agent of the switch die, which holds no line, reads or writes a HOST granule: the other caches become S, or give it up. -/
def State.agentGranule (s : State) (pkg k : Nat) (write : Bool) : State :=
  ((s.dies.map Prod.fst).foldl (fun s d => s.snoop d k (if write then 0 else 1)) s).remoteGranule pkg k

/-- The granules of one line that a range of bytes within it touches, by the key of a byte of each. -/
def granulesOf (k len : Nat) : List Nat :=
  (List.range 4).filterMap fun i =>
    let g := k / 256 * 256 + 64 * i
    if k < g + 64 && g < k + len then some (max k g) else none

end Sys2Proof.Machine
end

