-- ==== Sys2Proof/Machine/Homeless.lean ====
section
/-! DEFINITION. The attraction memory: replacement, injection, guards, reads, writes and migration, control operations and
failures (R354-R372). These move tags and directory entries only: no byte that a load can return changes (R373). -/
namespace Sys2Proof.Machine

/-! ### Replacement (R361-R364) -/

/-- Host-biased pages count as pinned (R425). -/
def State.pinned (s : State) (x : Slot) : Bool := x.pin || ((s.dirEnt x.gpn).hostBias.isSome && x.isMaster)

/-- A pinned or host-biased master never migrates (R357, R425). -/
def State.fixedPage (s : State) (gpn : Nat) : Bool :=
  (s.dirEnt gpn).hostBias.isSome || match s.masterSlot gpn with | some (m, a) => ((s.pkg m).slotAt a).pin | none => true

/-- Pinned masters and guard replicas of a set, those of one page apart (R368). -/
def State.pinOthers (s : State) (pkg set gpn : Nat) : Nat :=
  let p := s.pkg pkg
  ((List.range p.ways).filter fun w =>
    let x := p.way set w
    x.gpn != gpn && ((x.isMaster && s.pinned x) || x.guard)).length

/-- The set could not hold one pinned master or guard more, of a page: it would hold more than WAYS - 1 of them (R368). -/
def State.pinFull (s : State) (pkg gpn : Nat) : Bool :=
  decide ((s.pkg pkg).ways ≤ s.pinOthers pkg ((s.pkg pkg).setOf gpn) gpn + 1)

/-- The oldest way of a set that satisfies a test. -/
def Pkg.oldest (p : Pkg) (set : Nat) (ok : Slot → Bool) : Option Nat :=
  ((List.range p.ways).filter fun w => ok (p.way set w)).foldl
    (fun a w => match a with
      | none => some w
      | some b => if (p.way set w).stamp < (p.way set b).stamp then some w else some b) none

def Pkg.invalidWay (p : Pkg) (set : Nat) : Option Nat := (List.range p.ways).find? fun w => (p.way set w).st == 0

/-- A set that has gained an INVALID way: the oldest master or guard of that set in the reserve pool moves into it (R364). -/
def State.poolMove (s : State) (pkg set : Nat) : State :=
  let p := s.pkg pkg
  match p.pool.filter (fun e => p.setOf e.2.gpn == set), p.invalidWay set with
  | c :: cs, some w =>
    let o := cs.foldl (fun a e => if e.2.stamp < a.2.stamp then e else a) c
    let s := s.setPkg pkg ((p.putSlot (.way set w) o.2).putSlot (.pool o.1) Slot.void)
    if o.2.guard then s.modDir o.2.gpn fun d => { d with guardAt := some (pkg, false) } else s
  | _, _ => s

/-- The same for the set of a page on each of some packages. -/
def State.poolMoves (s : State) (gpn : Nat) (pkgs : List Nat) : State :=
  pkgs.eraseDups.foldl (fun s p => s.poolMove p ((s.pkg p).setOf gpn)) s

/-- Forget a package's replica of a page. -/
def State.dropReplica (s : State) (gpn pkg : Nat) : State :=
  s.modDir gpn fun d => { d with replicas := d.replicas.filter (· != pkg) }

/-- The replica that a promotion chooses: in the leaf group of the victim's package on the lowest-numbered package, else on
the lowest of the pod (R361). -/
def promoteTo (from_ : Nat) (rs : List Nat) : Option Nat :=
  let low (xs : List Nat) : Option Nat := xs.foldl (fun a x => match a with | none => some x | some y => some (min x y)) none
  match low (rs.filter fun r => leafGroup r == leafGroup from_) with
  | some r => some r
  | none => low rs

/-- Replica holders of a page other than a package, the guard among them. -/
def State.elsewhere (s : State) (gpn pkg : Nat) : List Nat := (s.dirEnt gpn).copies.filter (· != pkg)

/-- The slot of a page on a package becomes its master: it holds what it and the old master hold valid, whose lines have been
copied, the old one's LPSN bits, and the given DIRTY bits. -/
def State.becomeMaster (s : State) (gpn pkg : Nat) (a : SlotAt) (old : Slot) (dirty : BitVec 2048) : State :=
  let s := s.modSlot pkg a fun x =>
    { x with gpn := gpn, st := 2, pin := false, guard := false, valid := x.valid ||| old.valid, dirty := dirty,
             lpsn := old.lpsn, vsel := old.vsel }
  s.modDir gpn fun d =>
    { d with master := some pkg, replicas := d.replicas.filter (· != pkg),
             guardAt := d.guardAt.filter fun g => g.1 != pkg }

/-- A way of a set for a guard or an injected page: a replica of the page, its guard among them, an INVALID way, or the oldest
unguarded replica, which is dropped (R362). -/
def State.takeWay (s : State) (n gpn : Nat) : Option (SlotAt × State) :=
  let p := s.pkg n
  let set := p.setOf gpn
  match (p.slotsOf gpn).find? fun a => (p.slotAt a).isReplica with
  | some a => some (a, s)
  | none =>
    match p.invalidWay set with
    | some w => some (.way set w, s)
    | none =>
      (p.oldest set fun x => x.isReplica && !x.guard).map fun w =>
        let g := (p.way set w).gpn
        (.way set w, ((s.dropReplica g n).invalidate n (.way set w)).relist g)

/-- A free slot of the reserve pool (R364). -/
def Pkg.freePool (p : Pkg) : Option Nat :=
  if p.pool.length < 16384 then (List.range 16384).find? fun i => (aget p.pool i).isNone else none

/-- Remove the guard of a page; the package that held it, if one did. -/
def State.dropGuard (s : State) (gpn : Nat) : State × List Nat :=
  match (s.dirEnt gpn).guardAt with
  | none => (s, [])
  | some (g, _) =>
    let s := match (s.pkg g).guardOf gpn with
      | some a => s.invalidate g a
      | none => s
    (s.modDir gpn fun d => { d with guardAt := none }, [g])

/-- Lines that the master of a page holds valid. -/
def State.masterValid (s : State) (gpn : Nat) : BitVec 256 :=
  match s.masterSlot gpn with | some (m, a) => ((s.pkg m).slotAt a).valid | none => 0

/-- Place the guard replica of a page mastered on `m` (R369): NBR2, NBR3, or the reserve pool of the master's package. A guard
elsewhere needs an entry of the line directory, as every replica does (R365). -/
def State.placeGuard (s : State) (m gpn : Nat) : Option State :=
  let valid := s.masterValid gpn
  let mk (s : State) (n : Nat) (a : SlotAt) (pool : Bool) : State :=
    let s := s.fill n a { Slot.void with gpn := gpn, st := 1, guard := true, valid := valid, vsel := (s.dirEnt gpn).vsel }
    (s.modDir gpn fun d => { d with guardAt := some (n, pool), replicas := d.replicas.filter (· != n) }).relist gpn
  let near (n : Nat) : Option State :=
    if leafGroup n != leafGroup m || n == m || s.podN ≤ n || s.dead.contains n || s.lostPkgs.contains n
        || (s.offDie n gpn).isSome || s.pinFull n gpn || !s.ldirRoom m gpn n then none
    else (s.takeWay n gpn).map fun r => mk r.2 n r.1 false
  (near ((s.pkg m).nbr.getD 2 0)).orElse fun _ => (near ((s.pkg m).nbr.getD 3 0)).orElse fun _ =>
    (s.pkg m).freePool.map fun i => mk s m (.pool i) true

/-- Keep the guard of a redundant page whose master now stands on `m`; `none` when no place takes it (R369). -/
def State.reguard (s : State) (m gpn : Nat) : Option State :=
  if (s.dirEnt gpn).dup then
    let r := s.dropGuard gpn
    (r.1.placeGuard m gpn).map fun s => s.poolMoves gpn r.2
  else some s

/-- The replica that a promotion of a victim's page makes its master. -/
def State.promoted (s : State) (pkg gpn : Nat) : Option Nat := promoteTo pkg (s.elsewhere gpn pkg)

/-- Promote a replica of a victim's page (R361): never refused. The new master's DIRTY bits start clear (R352). The victim's slot
becomes INVALID only when the page is settled, its guard with it, so nothing but the access that needs the way takes it. -/
def State.promote (s : State) (pkg : Nat) (a : SlotAt) : State :=
  let v := (s.pkg pkg).slotAt a
  match s.promoted pkg v.gpn with
  | none => s
  | some r =>
    match ((s.pkg r).slotsOf v.gpn).find? fun x => ((s.pkg r).slotAt x).isReplica with
    | none => s
    | some b =>
      let s := s.becomeMaster v.gpn r b v 0
      (((s.reguard r v.gpn).getD s).invalidate pkg a).relist v.gpn

/-- An offer of a master to a neighbour (R362): the state after the transfer, or `none` where it refuses. A way on a die in
reset takes nothing (R370). -/
def State.offer (s : State) (n pkg : Nat) (a : SlotAt) : Option State :=
  let v := (s.pkg pkg).slotAt a
  let entries := ((s.dirEnt v.gpn).lineDir.filter fun e => e.1 != n).length
  if leafGroup n != leafGroup pkg || n == pkg || s.podN ≤ n || s.dead.contains n || 2 ≤ (s.pkg n).injBufs
      || (s.offDie n v.gpn).isSome || decide (s.ldirFree (s.pageDie n v.gpn) < entries) then none
  else
    (s.takeWay n v.gpn).bind fun r =>
      let s := { r.2.modSlot n r.1 (fun x => { x with stamp := s.nextId }) with nextId := s.nextId + 1 }
      let s := s.becomeMaster v.gpn n r.1 v v.dirty
      (s.reguard n v.gpn).map fun s => (s.invalidate pkg a).relist v.gpn

/-- The oldest master that a full set would offer to a neighbour (R361). -/
def State.offered (s : State) (pkg set : Nat) : Option Nat :=
  (s.pkg pkg).oldest set fun x => x.isMaster && !s.pinned x

/-- An offer, with the counters of both ends. -/
def State.tryOffer (s : State) (n pkg : Nat) (a : SlotAt) : Bool × State :=
  match s.offer n pkg a with
  | some t => (true, (t.modPkg pkg fun p => bumpAm p 0).modPkg n fun p => bumpAm p 1)
  | none => (false, (s.modPkg pkg fun p => bumpAm p 2).modPkg n fun p => bumpAm p 3)

/-- The offers of a full set to NBR0 and, when it refuses, to NBR1; AMABND rises when both refuse. -/
def State.offers (s : State) (pkg : Nat) (a : SlotAt) : Bool × State :=
  let nbr := (s.pkg pkg).nbr
  let r := s.tryOffer (nbr.getD 0 0) pkg a
  let r := if r.1 then r else r.2.tryOffer (nbr.getD 1 0) pkg a
  if r.1 then r else (false, r.2.modPkg pkg fun p => bumpAm p 4)

/-- `make_room` of R361: a free way of the set, or `none` with the counters risen. -/
def State.makeRoom (s : State) (pkg set : Nat) : Option Nat × State :=
  let p := s.pkg pkg
  match p.invalidWay set with
  | some w => (some w, s)
  | none =>
    match p.oldest set fun x => x.isReplica && !x.guard with
    | some w =>
      let g := (p.way set w).gpn
      (some w, ((s.dropReplica g pkg).invalidate pkg (.way set w)).relist g)
    | none =>
      match p.oldest set fun x => x.isMaster && !s.pinned x && !(s.elsewhere x.gpn pkg).isEmpty with
      | some w => (some w, s.promote pkg (.way set w))
      | none =>
        match s.offered pkg set with
        | none => (none, s.modPkg pkg fun p => bumpAm p 4)
        | some w => let r := s.offers pkg (.way set w); (if r.1 then some w else none, r.2)

/-! ### Reads (R355) -/

/-- What a read of a homeless line meets (R154, R370, R371). -/
inductive LineRead where
  | ok
  | poison
  | rload
  deriving DecidableEq, Repr

/-- The state of a line for a reader on a package. -/
def State.lineState (s : State) (pkg : Nat) (k : Nat) : LineRead :=
  let gpn := gpnOf k
  let d := s.dirEnt gpn
  if d.lost then .poison
  else match d.master with
    | none => .ok
    | some m =>
      match s.masterSlot gpn with
      | some (_, a) =>
        if ((s.pkg m).slotAt a).lpsn.getLsbD (lineIx k) then .poison
        else if s.dead.contains m && (s.pkgHolds pkg (lineKey k)).isNone && ((s.pkg pkg).serves gpn (lineIx k)).isNone then .rload
        else .ok
      | none => if s.dead.contains m then .rload else .ok

/-- A read of a homeless line that misses in every L2 of a package (R355, R363); `keep` brings the line into the L2 that asked,
if an L2 did. While another package's L2 holds the line dirty, the read is served from there and no slot serves it (R352). -/
def State.readMiss (s : State) (pkg k : Nat) (keep : State → State) : State :=
  let line := lineKey k
  let gpn := gpnOf k
  let l := lineIx k
  let s := s.learn gpn pkg
  match s.masterSlot gpn with
  | none => s
  | some (m, ma) =>
    let served (s : State) (q : Nat) (a : SlotAt) : State := if (s.dirtyAway pkg line).isSome then s else s.touch q a
    match (s.pkg pkg).localOf gpn with
    | some a =>
      if ((s.pkg pkg).serves gpn l).isSome then keep (served s pkg a)
      else keep (((served s m ma).modSlot pkg a fun x => { x with valid := setBit256 x.valid l }).touch pkg a)
    | none =>
      let remote (s : State) : State := match s.nearReplica pkg gpn l with
        | some r => served s r.1 r.2
        | none => served s m ma
      let noAlloc (s : State) : State :=
        let s := (remote s).modPkg pkg fun p => bumpAm p 5
        if s.ldirRoom m gpn pkg then keep s else s
      if (s.dirEnt gpn).hostBias.isSome || !s.ldirRoom m gpn pkg then noAlloc s
      else
        let set := (s.pkg pkg).setOf gpn
        match s.makeRoom pkg set with
        | (none, s) => noAlloc s
        | (some w, s) =>
          let v := ((s.pkg m).slotAt ma).vsel
          let s := (remote s).fill pkg (.way set w) { Slot.void with gpn := gpn, st := 1, valid := setBit256 0 l, vsel := v }
          keep ((s.modDir gpn fun d => { d with replicas := (d.replicas.filter (· != pkg)) ++ [pkg] }).relist gpn)

/-- An access that finds its line in no place of a die's L2 (R466). -/
def State.countMiss (s : State) (die line : Nat) : State :=
  if (aget (s.die die).l2 line).isSome then s else s.occurs (die * 32) 1 0x08

/-- READ_MISS: a read of a homeless line through a die's L2. A hit, in this L2 or another of the package, reaches no slot. -/
def State.readLine (s : State) (die k ch : Nat) : State :=
  let line := lineKey k
  let keep (s : State) : State := s.l2Put die line ch id
  let t := s.countMiss die line
  if (s.pkgHolds (pkgOfDie die) line).isSome then keep t else t.readMiss (pkgOfDie die) k keep

/-- An agent of the switch die reads the line of a memory key. -/
def State.agentRead1 (s : State) (pkg k : Nat) : State :=
  if isHostLine s k then (granulesOf k (256 - k % 256)).foldl (fun s g => s.agentGranule pkg g false) s
  else if !isHomeless k || (s.pkgHolds pkg (lineKey k)).isSome then s
  else s.readMiss pkg k id

/-- The same for `n` bytes, line by line. -/
def State.agentRead (s : State) (pkg k n : Nat) : State :=
  (List.range ((k % 256 + n + 255) / 256)).foldl (fun s i => s.agentRead1 pkg (if i = 0 then k else (k / 256 + i) * 256)) s

/-! ### Writes (R356, R357) -/

/-- A grant invalidates the line in every replica, in every L2 but the one that `keep` names and at the hosts (R356, R425). -/
def State.grantInvalidates (s : State) (keep : Nat → Bool) (k : Nat) : State :=
  let gpn := gpnOf k
  let l := lineIx k
  let s := s.flushLine (lineKey k) fun d => !keep d
  let s := (s.holders gpn).foldl (fun s h =>
    s.modSlot h.1 h.2 fun x => if x.isReplica && !x.guard then { x with valid := clrBit256 x.valid l } else x) s
  (s.modDir gpn fun d =>
    { d with hostLines := d.hostLines.map fun e => (e.1, e.2 &&& ~~~((0xF : BitVec 1024) <<< (4 * l))) }).relist gpn

/-- Whether a die's L2 owns a line that no other L2, replica or host holds: no grant is needed. -/
def State.exclusive (s : State) (die k : Nat) : Bool :=
  let gpn := gpnOf k
  let l := lineIx k
  (match aget (s.die die).l2 (lineKey k) with | some x => x.owned | none => false)
    && !(s.dies.any fun e => e.1 != die && (aget e.2.l2 (lineKey k)).isSome)
    && !((s.holders gpn).any fun h => let x := (s.pkg h.1).slotAt h.2; x.isReplica && !x.guard && x.valid.getLsbD l)
    && !((s.dirEnt gpn).hostLines.any fun e => e.2 &&& ((0xF : BitVec 1024) <<< (4 * l)) != 0)

/-- Move a page's master to a package (R357): its valid lines, DIRTY, LPSN and line directory; every replica and the old
slot become INVALID. The second is the state where the move is not made: no way, or no guard place, is found. -/
def State.migratePage (s : State) (gpn to_ : Nat) : Option State × State :=
  match s.masterSlot gpn with
  | none => (none, s)
  | some (m, a) =>
    let old := (s.pkg m).slotAt a
    let set := (s.pkg to_).setOf gpn
    if s.fixedPage gpn || m == to_ || (s.offDie to_ gpn).isSome then (none, s)
    else
      let target : Option SlotAt × State :=
        match (s.pkg to_).localOf gpn with
        | some b => (some b, s)
        | none => let r := s.makeRoom to_ set; (r.1.map (SlotAt.way set), r.2)
      match target with
      | (none, s) => (none, s)
      | (some b, s) =>
        let gone := (s.holders gpn).filter fun h => !(h.1 == to_ && h.2 == b)
        let t := gone.foldl (fun s h => s.invalidate h.1 h.2) s
        let t := t.fill to_ b { old with st := 2, pin := false, guard := false, valid := old.valid ||| ((s.pkg to_).slotAt b).valid }
        let t := t.modDir gpn fun d => { d with master := some to_, replicas := [], guardAt := none, wpkg := 0, wcnt := 0 }
        match t.reguard to_ gpn with
        | some t => (some ((t.relist gpn).poolMoves gpn (gone.map Prod.fst)), s)
        | none => (none, s.poolMoves gpn [to_])

/-- The master that a first write makes, in a way of its set or in the reserve pool (R356, R363); `none` when the guard of a
redundant page finds no place (R369). -/
def State.newMaster (s : State) (pkg gpn : Nat) (a : SlotAt) (dup : Bool) : Option State :=
  let s := s.fill pkg a { Slot.void with gpn := gpn, st := 2, vsel := (s.dirEnt gpn).vsel }
  let s := s.modDir gpn fun d =>
    { d with master := some pkg, dup := dup, replicas := [], guardAt := none, wpkg := 0, wcnt := 0 }
  (s.reguard pkg gpn).map fun s => s.relist gpn

/-- A first write (R356, R363). -/
def State.firstWrite (s : State) (pkg gpn : Nat) (dup : Bool) : Try State :=
  let set := (s.pkg pkg).setOf gpn
  let wait (s : State) : Try State := .error { s := s.poolMove pkg set, pkg := pkg, set := set }
  let r := s.makeRoom pkg set
  match r.1.map (SlotAt.way set) |>.orElse fun _ => (r.2.pkg pkg).freePool.map SlotAt.pool with
  | some a => match r.2.newMaster pkg gpn a dup with | some t => .ok t | none => wait r.2
  | none => wait r.2

/-- A grant of a homeless line to an agent of a package (R356, R357, R363), whose own L2 `keep` names; an error is a first
write that finds no way and waits. `apf` takes THR as 1 for the issuing package. The answer tells whether an L2 may hold the
line: not where the line directory has no room for the package, so that the write is served at the master (R365). A page that
is LOST grants nothing (R371). -/
def State.grant (s : State) (pkg : Nat) (keep : Nat → Bool) (k : Nat) (dup apf : Bool) : Try (Bool × State) :=
  let gpn := gpnOf k
  if (s.dirEnt gpn).lost then .ok (false, s)
  else
    let s := s.learn gpn pkg
    match s.masterSlot gpn with
    | none => (s.firstWrite pkg gpn dup).map fun s => (true, s)
    | some (m, a) =>
      let away := (s.dirtyAway pkg (lineKey k)).isSome
      let s := s.grantInvalidates keep k
      let s := if away then s else s.touch m a
      if m == pkg then .ok (true, s.modDir gpn fun d => { d with wcnt := 0 })
      else
        let s := s.modDir gpn fun d =>
          { d with wpkg := pkg, wcnt := if d.wpkg == pkg && d.wcnt != 0 then d.wcnt + 1 else 1 }
        let thr := if apf then 1 else (s.pkg m).migthr.toNat
        let due := thr != 0 && decide (thr ≤ (s.dirEnt gpn).wcnt) && !s.fixedPage gpn
        match (if due then s.migratePage gpn pkg else (none, s)) with
        | (some t, _) => .ok (true, t)
        | (none, t) =>
          -- served remotely; when a migration was due WCNT stays at the threshold
          let t := t.modPkg pkg fun p => bumpAm p 5
          let t := if due && !apf then t.modDir gpn fun d => { d with wcnt := thr } else t
          .ok (t.ldirRoom m gpn pkg, t)

/-- WRITE_GRANT: a die's L2 is granted a homeless line exclusively. One that it owns and no other cache, replica or host holds
needs no grant, unless the write is an `apf`'s to a page mastered elsewhere, which it brings (R180); a write by the master's own
package sets WCNT to 0 all the same (R357). -/
def State.grantLine (s : State) (die k : Nat) (dup : Bool) (ch : Nat) (apf : Bool) : Try State :=
  let gpn := gpnOf k
  let pkg := pkgOfDie die
  let own (s : State) : State := s.l2Put die (lineKey k) ch fun x => { x with owned := true }
  let s := s.countMiss die (lineKey k)
  if s.exclusive die k && (!apf || (s.dirEnt gpn).master == some pkg) then
    .ok (own (if (s.dirEnt gpn).master == some pkg then s.modDir gpn fun d => { d with wcnt := 0 } else s))
  else
    (s.grant pkg (· == die) k dup apf).map fun r => if r.1 then own r.2 else r.2.dropL2 (lineKey k) (· == die)

/-- A sector of a granted line is written (R352), by an ASID (R446) for a launch of a bucket class (R276). A line that the L2
does not hold is written at its master. -/
def State.dirtySector (s : State) (die k : Nat) (asid : BitVec 16) (bkt : Nat) : State :=
  let line := lineKey k
  let sec : BitVec 8 := (1 : BitVec 8) <<< (k / 32 % 8)
  if (aget (s.die die).l2 line).isSome then
    s.modDie die fun d =>
      { d with l2 := amod d.l2 line fun x => { x with dirty := x.dirty ||| sec, asid := asid, bkt := bkt } }
  else if isHomeless k then s.masterTakes line sec
  else s

/-! ### Accesses to dies in reset (R370) -/

/-- The die in reset onto which `make_room` would promote a replica. -/
def State.promoteOff (s : State) (pkg set : Nat) : Option Nat :=
  let p := s.pkg pkg
  if (p.invalidWay set).isSome || (p.oldest set fun x => x.isReplica && !x.guard).isSome then none
  else (p.oldest set fun x => x.isMaster && !s.pinned x && !(s.elsewhere x.gpn pkg).isEmpty).bind fun w =>
    let g := (p.way set w).gpn
    (s.promoted pkg g).bind fun r => s.offDie r g

/-- The die in reset that holds a read of a homeless line by a package: that of a set which the read needs. -/
def State.readOff (s : State) (pkg k : Nat) : Option Nat :=
  let g := gpnOf k
  let d := s.dirEnt g
  if !isHomeless k || (s.pkgHolds pkg (lineKey k)).isSome then none
  else (s.offDie pkg g).orElse fun _ =>
    if ((s.pkg pkg).serves g (lineIx k)).isSome then none
    else match d.master with
      | none => none
      | some m =>
        let isLocal := ((s.pkg pkg).localOf g).isSome
        (if !isLocal && (s.nearReplica pkg g (lineIx k)).isSome then none else s.offDie m g).orElse fun _ =>
          if isLocal || d.hostBias.isSome || !s.ldirRoom m g pkg then none else s.promoteOff pkg ((s.pkg pkg).setOf g)

/-- The grant to a package makes room for a master there: a first write, or a migration that is due. -/
def State.grantMoves (s : State) (pkg gpn : Nat) (apf : Bool) : Bool :=
  let d := s.dirEnt gpn
  ((s.pkg pkg).localOf gpn).isNone &&
    match d.master with
    | none => true
    | some m =>
      let thr := if apf then 1 else (s.pkg m).migthr.toNat
      m != pkg && thr != 0 && decide (thr ≤ if d.wpkg == pkg && d.wcnt != 0 then d.wcnt + 1 else 1) && !s.fixedPage gpn

/-- The die in reset that holds a grant of a homeless line to a package. -/
def State.writeOff (s : State) (pkg k : Nat) (apf : Bool) : Option Nat :=
  let g := gpnOf k
  if !isHomeless k || (s.dirEnt g).lost then none
  else (s.offDie pkg g).orElse fun _ => ((s.holders g).findSome? fun h => s.offDie h.1 g).orElse fun _ =>
    if s.grantMoves pkg g apf then s.promoteOff pkg ((s.pkg pkg).setOf g) else none

/-- An agent's access waits for a die in reset. -/
def State.waitReset {α : Type} (s : State) (die : Nat) : Try α := .error { s := s, pkg := die / 8, set := resetKey die }

/-! ### Control operations and failures (R366-R372) -/

/-- DISCARD (R367): 1 when the page is pinned. -/
def State.discard (s : State) (gpn : Nat) : Nat × State :=
  let hs := s.holders gpn
  if hs.any fun h => ((s.pkg h.1).slotAt h.2).pin then (1, s)
  else
    let s := (s.pageLines gpn).foldl (fun s l => s.dropL2 l fun _ => true) s
    let s := hs.foldl (fun s h => s.invalidate h.1 h.2) s
    let s := { s with dir := adel s.dir gpn, mem := s.mem.filter fun c => !(isHomeless c.1 && gpnOf c.1 == gpn) }
    (0, s.poolMoves gpn (hs.map Prod.fst))

/-- PIN (R368): the master comes to this package as by a migration; one that is pinned or host-biased elsewhere cannot, nor is
there one to bring for a page with no copy: ERR 2 (log entry 19). -/
def State.pinPage (s : State) (pkg gpn : Nat) : Nat × State :=
  let here (s : State) : Nat × State :=
    match (s.pkg pkg).masterOf gpn with
    | some a =>
      if ((s.pkg pkg).slotAt a).pin then (0, s)
      else if s.pinFull pkg gpn then (3, s)
      else (0, s.modSlot pkg a fun x => { x with pin := true })
    | none => (2, s)
  match (s.dirEnt gpn).master with
  | none => (2, s)
  | some m =>
    if m == pkg then here s
    else if s.pinFull pkg gpn then (3, s)
    else match s.migratePage gpn pkg with
      | (some t, _) => here t
      | (none, t) => (2, t)

/-- UNPIN (R368). -/
def State.unpinPage (s : State) (pkg gpn : Nat) : Nat × State :=
  match (s.pkg pkg).masterOf gpn with
  | some a => if ((s.pkg pkg).slotAt a).pin then (0, s.modSlot pkg a fun x => { x with pin := false }) else (4, s)
  | none => (4, s)

/-- Lines of a page that are dirty in the L2s of a package. -/
def State.dirtyLines (s : State) (q gpn : Nat) : BitVec 256 :=
  (s.dies.filter fun e => e.1 / 8 == q).foldl (fun m e =>
    (e.2.l2.filter fun x => x.1 / 256 == gpn && x.2.dirty != 0).foldl (fun m x => setBit256 m (x.1 % 256)) m) 0

/-- The survivor that takes the master of a lost package's page, and whether it is complete (R371): the guard of a redundant
page, else the replica of R361. -/
def State.heir (s : State) (q gpn : Nat) : Option (Nat × SlotAt × Bool) :=
  let d := s.dirEnt gpn
  let guard := (d.guardAt.filter fun g => d.dup && g.1 != q).bind fun g => ((s.pkg g.1).guardOf gpn).map fun a => (g.1, a, true)
  guard.orElse fun _ => (promoteTo q (s.elsewhere gpn q)).bind fun r =>
    (((s.pkg r).slotsOf gpn).find? fun x => ((s.pkg r).slotAt x).isReplica).map fun a => (r, a, false)

/-- What the loss of a package does to one page (R371). -/
def State.losePage (s : State) (q gpn : Nat) : State :=
  let d := s.dirEnt gpn
  let dirty := s.dirtyLines q gpn
  let heir := s.heir q gpn
  let old := match (s.pkg q).masterOf gpn with | some a => (s.pkg q).slotAt a | none => Slot.void
  let guarded := match d.guardAt with | some (g, _) => g != q | none => false
  let s := s.modDir gpn fun d =>
    { d with replicas := d.replicas.filter (· != q), guardAt := d.guardAt.filter fun g => g.1 != q }
  if d.master == some q then
    match heir with
    | none => s.modDir gpn fun d => { d with master := none, guardAt := none, lost := true }
    | some (r, b, complete) =>
      let lpsn := old.lpsn ||| dirty ||| (if complete then 0 else ~~~((s.pkg r).slotAt b).valid)
      -- nothing is copied from the lost package
      let s := s.becomeMaster gpn r b { old with valid := 0, lpsn := lpsn } 0
      (s.reguard r gpn).getD s
  else
    match s.masterSlot gpn with
    | none => s
    | some (m, a) =>
      let s := s.modSlot m a fun x => { x with lpsn := x.lpsn ||| dirty }
      if d.dup && !guarded then (s.placeGuard m gpn).getD s else s

/-- AMOP LOST (R371, R372): every page's outcome, the lost package's tags and lines gone, tag caches that name it cleared, and
the sector masks of the open shadows whose slice it held rebuilt as all ones. -/
def State.losePkg (s : State) (q : Nat) : State :=
  let slice (g : Nat) : Bool := s.holder2 g == some q
  let gpns := s.dir.map Prod.fst
  let s := { s with lostPkgs := q :: s.lostPkgs }
  let s := gpns.foldl (fun s g => s.losePage q g) s
  let s := s.modPkg q fun p => { p with slots := [], pool := [] }
  let s := { s with
    dies := s.dies.map fun (e : Nat × Die) => if e.1 / 8 == q then (e.1, { e.2 with l2 := [] }) else e,
    pkgs := s.pkgs.map fun (e : Nat × Pkg) => (e.1, { e.2 with tagCache := e.2.tagCache.filter fun x => x.2 != q }),
    dir := s.dir.map fun (e : Nat × DirEnt) => if slice e.1 && e.2.opened then (e.1, { e.2 with mask := BitVec.allOnes 2048 }) else e }
  gpns.foldl (fun s g => s.relist g) s

end Sys2Proof.Machine
end

