-- ==== Sys2Proof/Machine/Posting.lean ====
section
/-! DEFINITION. Accesses by physical address (R322), CXL ports (R394-R397), token buckets (R276), and the queues in memory
that the machine writes: the store error queues (R444-R446) and the service rings (R318, R319, R441). -/
namespace Sys2Proof.Machine

/-! ### CXL ports -/

/-- Whether host number `h` has a port (R397). -/
def Pkg.hasHost (p : Pkg) (h : Nat) : Bool := h < (p.cxlPorts false).length

/-- Host number of a host memory key (R397). -/
def hostOf (k : Nat) : Nat := k / 2 ^ 50 % 16

/-! ### Physical accesses -/

/-- Why a read by physical address fails, as the code that is posted (R266, R322): none, XLATE or POISON. A read whose packets
have failed fails (R400). -/
def State.physBad1 (s : State) (pkg k : Nat) : Option Nat :=
  if isHomeless k then
    match s.lineState pkg k with
    | .ok => if s.reachesSD pkg k && !s.loadFails pkg k then none else some XLATE
    | .poison => some POISON
    | .rload => some XLATE
  else if isHostKey k then (if (s.pkg pkg).hasHost (hostOf k) then none else some XLATE)
  else some XLATE

/-- The same for `n` bytes, line by line. -/
def State.physBad (s : State) (pkg k n : Nat) : Option Nat :=
  ((List.range ((k % 256 + n + 255) / 256)).filterMap fun i => s.physBad1 pkg (if i = 0 then k else (k / 256 + i) * 256)).head?

/-- Such a read has failed: the failed packets of its lines are forgotten (R400). -/
def State.agentFailed (s : State) (pkg k n : Nat) : State :=
  (List.range ((k % 256 + n + 255) / 256)).foldl (fun s i => s.loadFaulted pkg (if i = 0 then k else (k / 256 + i) * 256)) s

/-- Whether a walker of a die cannot obtain the table line at a key, which it reads through the die's L2 (R327). -/
def State.tableBad (s : State) (die k : Nat) : Bool :=
  !(if isHomeless k then s.lineState (pkgOfDie die) k == .ok else isHostKey k && (s.pkg (pkgOfDie die)).hasHost (hostOf k))
    || !s.reaches die k

/-- A die in reset holds a read of `n` bytes by an agent of the switch die (R370). -/
def State.agentOff (s : State) (pkg k n : Nat) : Bool :=
  (List.range ((k % 256 + n + 255) / 256)).any fun i =>
    (s.readOff pkg (if i = 0 then k else (k / 256 + i) * 256)).isSome

/-- Sectors of a line that `n` bytes from a key in it on touch. -/
def secMask (k n : Nat) : BitVec 8 :=
  ((List.range 8).filter fun i => decide (k % 256 < 32 * i + 32 ∧ 32 * i < k % 256 + n)).foldl
    (fun (m : BitVec 8) i => m ||| ((1 : BitVec 8) <<< i)) 0

/-- Why the write of one line by an agent of the switch die fails (R371, R387, R446). -/
def State.agentFault (s : State) (pkg k : Nat) : Option Nat :=
  if !isHomeless k then none
  else if (s.dirEnt (gpnOf k)).lost then some POISON
  else match (s.dirEnt (gpnOf k)).master with
    | some m => if s.dead.contains m || !s.reachesSD pkg k then some RLOAD else none
    | none => none

/-- A write of one line's bytes by an agent of the switch die: granted, and written through to the master; of a HOST line, the
written granules are obtained first (R402, R425). One that fails is dropped and reported, with SRC 3, the switch die's agents
standing in no context of a program, to the queue of ASID 0 (R445, R446; DESIGN CHOICE, log entry 107). -/
def State.agentLine (s : State) (pkg k : Nat) (bs : List Byte) : Try State :=
  match s.agentFault pkg k with
  | some c =>
    let e : StoreErr :=
      { asid := 0, addr := s.physAddr (k / 256 * 256), peer := ((s.dirEnt (gpnOf k)).master).getD pkg, cause := c, src := 3,
        wg := 0xFFFFFFFF }
    .ok { s with agenda := .event (.storeError pkg e) :: s.agenda }
  | none =>
    match s.writeOff pkg k false with
    | some d => s.waitReset d
    | none =>
      let put (s : State) : State :=
        (if isHomeless k then s.masterTakes (lineKey k) (secMask k bs.length) else s).write (atAddrs k bs)
      if isHostLine s k then .ok (put ((granulesOf k bs.length).foldl (fun s g => s.agentGranule pkg g true) s))
      else (s.grant pkg (fun _ => false) k false false).map fun r => put r.2

/-- The same for consecutive lines; the fuel bounds their number. -/
def State.agentLines (pkg : Nat) : Nat → Nat → List Byte → State → Try State
  | 0, _, _, s => .ok s
  | n + 1, k, bs, s =>
    let m := 256 - k % 256
    if bs.isEmpty then .ok s
    else (s.agentLine pkg k (bs.take m)).bind (State.agentLines pkg n (k + m) (bs.drop m))

/-- A write by an agent of the switch die. An error is a first write that finds no way (R363). An address outside the homeless
and host regions names nothing and takes nothing (R322); a page that is LOST drops the write (R371). -/
def State.agentWrite (s : State) (pkg k : Nat) (bs : List Byte) : Try State :=
  if isHomeless k || isHostKey k then Try.clean s (State.agentLines pkg (bs.length / 256 + 2) k bs s) else .ok s

/-- A write of a page-table entry that a walk has found, by the machine itself: a write by its package (R356). Its page has a
master or is host memory, so it needs no way; in a state that no run reaches, where it has neither, its bytes alone change, and
so they do while a die in reset would hold the grant (DESIGN CHOICE, log entry 108). -/
def State.entryWrite (s : State) (pkg k : Nat) (bs : List Byte) : State :=
  match s.agentWrite pkg k bs with
  | .ok t => t
  | .error _ => s.write (atAddrs k bs)

/-! ### Token buckets (R276) -/

/-- The bucket class of a warp's launch; 16 outside any launch. -/
def State.bucketOf (s : State) (w : Warp) : Nat :=
  match s.recOf w with
  | some r => r.bucket
  | none => 16

/-! ### Service rings -/

/-- Ring slot of record `n` (R318). -/
def ringSlot (base n : Nat) : Nat := base + 0x10000 + 64 * (n % 1024)

/-- The 56 bytes of a record before OWN (R319). -/
def Post.bytes (p : Post) : List Byte :=
  leBytes 8 p.handle ++ leBytes 8 p.addr.toNat ++ leBytes 8 p.pc.toNat ++ leBytes 8 p.ptbase.toNat
    ++ leBytes 4 p.lanes.toNat ++ leBytes 2 p.asid.toNat ++ leBytes 1 p.code ++ leBytes 1 p.kind ++ leBytes 16 0

def svcBase (x : Word) : Nat := wbits x 17 39 * 2 ^ 17

/-- A barrier object's fields (R212): COUNT in bits [31:0], INIT in [47:32], PHASE in [63:48]. -/
def barPhase (x : Nat) : Nat := bitsN x 48 16

/-- The object after one decrement (R213). -/
def barObjStep (x : Nat) : Nat :=
  let ct := x % 2 ^ 32
  let ini := bitsN x 32 16
  if ct = 0 then x
  else if ct = 1 then ini + ini * 2 ^ 32 + (barPhase x + 1) % 2 ^ 16 * 2 ^ 48
  else x - 1

/-- The state of a decrement of the object at a memory key by an agent of the switch die or an engine (R215, R318). -/
def State.barDecrement (s : State) (pkg k : Nat) : Try State :=
  s.agentWrite pkg k (leBytes 8 (barObjStep (s.le k 8)))

/-- SERVICE_RING_POST: post the first waiting record of a die, when its slot is free (R318, R441). -/
def State.postRing (s : State) (die : Nat) : State :=
  let d := s.die die
  match d.postq with
  | [] => s
  | p :: rest =>
    let base := svcBase d.svcq
    let slot := ringSlot base d.postN
    let pkg := pkgOfDie die
    if (s.physBad pkg slot 64).isSome || (s.physBad pkg base 8).isSome || s.agentOff pkg slot 64 || s.agentOff pkg base 8
        || s.le (slot + 0x38) 8 != 0 then s
    else
      s.tryAs (Trier.ring die).key fun s =>
        (Try.clean s ((((s.agentRead pkg slot 64).agentRead pkg base 8).agentWrite pkg slot (p.bytes ++ leBytes 8 (d.postN + 1))).bind fun s => s.barDecrement pkg base)).map fun s =>
          s.modDie die fun d => { d with postq := rest, postN := d.postN + 1 }

/-! ### The store error queue (R444-R446) -/

def errqBase (x : Word) : Nat := wbits x 12 44 * 2 ^ 12
/-- Records that the queue holds. -/
def errqN (x : Word) : Nat := 16 * 2 ^ (min (wbits x 0 4) 12)

/-- The bytes of a record (R445); NUM is its first field. -/
def errRecord (e : StoreErr) (num serrs sovf : Nat) : List Byte :=
  leBytes 8 num ++ leBytes 8 e.addr ++ leBytes 2 e.peer ++ leBytes 1 e.cause ++ leBytes 1 e.src ++ leBytes 4 e.wg
    ++ leBytes 8 serrs ++ leBytes 8 sovf ++ leBytes 24 0

/-- An error is counted, and recorded or lost, in its queue (R446). A queue whose lines cannot be written records nothing. -/
def State.errqNow (s : State) (pkg : Nat) (q : Word) (e : StoreErr) : Try State :=
  let base := errqBase q
  let n := errqN q
  let errs := (s.le base 8 + 1) % 2 ^ 64
  let wrn := s.le (base + 8) 8
  let rdn := s.le (base + 16) 8
  let ovf := s.le (base + 24) 8
  let slot := base + 64 + 64 * (errs % n)
  let bad (k : Nat) : Bool := (s.physBad pkg k 64).isSome || (s.agentFault pkg k).isSome
  if bad base || bad slot then .ok s
  else Try.clean s <| if errs ≤ rdn + n then
    ((((s.agentRead pkg base 64).agentWrite pkg base (leBytes 8 errs)).bind fun s =>
        s.agentWrite pkg slot (errRecord e errs errs ovf)).bind fun s =>
        s.agentWrite pkg (base + 8) (leBytes 8 (max wrn errs))).map fun s =>
      if wrn = rdn then s.postEvent (pkg * 8) 0x22 (BitVec.ofNat 64 base) 0 (BitVec.ofNat 16 e.asid) else s
  else
    ((s.agentRead pkg base 64).agentWrite pkg base (leBytes 8 errs)).bind fun s =>
      s.agentWrite pkg (base + 24) (leBytes 8 ((ovf + 1) % 2 ^ 64))

def Held.isError : Held → Bool
  | .append .. => false
  | .hostWrite .. => false
  | .storeError .. => true

/-- Key of the store errors that a package holds, as an agent that tries. -/
def heldErrorKey (pkg : Nat) : Nat := (Trier.held (pkg * 64 + 17)).key

/-- STORE_ERROR: record an error in the queue that ERRQBASE names. With no queue it is an event of source 0x0B. One whose first
write finds no way waits, and later ones behind it (R363). -/
def State.errqPut (s : State) (pkg : Nat) (q : Word) (e : StoreErr) : State :=
  let wait (s : State) : State := s.modPkg pkg fun p => { p with held := p.held ++ [.storeError q e] }
  if errqBase q = 0 then s.occurs (pkg * 256) 2 0x0B
  else if (s.pkg pkg).held.any Held.isError then wait s
  else match s.errqNow pkg q e with
    | .ok t => t
    | .error x => wait { x.s with tries := aset x.s.tries (heldErrorKey pkg) x.mark }

/-- The first store error that a switch die holds is tried again. -/
def State.heldError (s : State) (pkg : Nat) : State :=
  match (s.pkg pkg).held.find? Held.isError with
  | some (.storeError q e) =>
    s.tryAs (heldErrorKey pkg) fun s =>
      (s.errqNow pkg q e).map fun t => t.modPkg pkg fun p => { p with held := p.held.eraseP Held.isError }
  | _ => s

/-- The context block of an ASID (R436). -/
def State.ctxBlock (s : State) (pkg : Nat) (asid : BitVec 16) : Nat :=
  wbits (s.pkg pkg).ctxtab 22 34 * 2 ^ 22 + 64 * asid.toNat

/-- The context CSRs that a workgroup or sequencer starts with (R436). -/
def State.loadCtx (s : State) (pkg : Nat) (asid : BitVec 16) (utrapvec : Word) : Ctx :=
  let b := s.ctxBlock pkg asid
  { asid := asid, ptbase := BitVec.ofNat 64 (bitsN (s.le b 8) 15 41 * 2 ^ 15), ctxbase := BitVec.ofNat 64 b,
    utrapvec := utrapvec, errqbase := BitVec.ofNat 64 (bitsN (s.le (b + 8) 8) 0 4 + bitsN (s.le (b + 8) 8) 12 44 * 2 ^ 12) }

/-- The error queue of an ASID on a package. -/
def State.errqOf (s : State) (pkg : Nat) (asid : BitVec 16) : Word := BitVec.ofNat 64 (s.le (s.ctxBlock pkg asid + 8) 8)

/-- The switch die reads the context block of an ASID. -/
def State.readCtx (s : State) (pkg : Nat) (asid : BitVec 16) : State := s.agentRead pkg (s.ctxBlock pkg asid) 16

/-- Report an error to the queue of its ASID. -/
def State.report (s : State) (pkg : Nat) (e : StoreErr) : State :=
  let asid := BitVec.ofNat 16 e.asid
  (s.readCtx pkg asid).errqPut pkg (s.errqOf pkg asid) e

end Sys2Proof.Machine
end

