-- ==== Sys2Proof/Machine/Translate.lean ====
section
/-! DEFINITION. Translation of an access: the aperture (R324), TLBs (R332), the page walk (R327), leaf validity (R330), the
checks of R154 and R155, and the storages of a page with a shadow (R337). -/
namespace Sys2Proof.Machine

/-! ### The agent of an access -/

def Who.die (w : Who) : Nat := dieOf w.core
def Who.pkg (w : Who) : Nat := pkgOfCore w.core

def State.who (s : State) (w : Warp) : Who :=
  { core := w.core, asid := w.ctx.asid, ptbase := w.ctx.ptbase, user := w.kind != .service, gid := w.gid, wg := w.wg,
    lid := match aget s.groups w.gid with | some g => g.lid | none => 0, away := w.away.isSome, bkt := s.bucketOf w,
    errq := w.ctx.errqbase, wgIndex := match s.wgOf w with | some g => g.index | none => 0xFFFFFFFF, ch := 0, apf := false }

/-- The agent of an instruction's accesses, with the instruction's cache hint (R48). -/
def Env.who (e : Env) (s : State) : Who := { s.who e.w with ch := e.f.ch.toNat }

/-! ### Leaves (R328) -/

def Leaf.frame (l : Leaf) : Nat := wbits l.lo 26 38
def Leaf.type (l : Leaf) : Nat := wbits l.lo 6 4
def Leaf.usr (l : Leaf) : Bool := l.lo.getLsbD 5
def Leaf.ex (l : Leaf) : Bool := l.lo.getLsbD 4
def Leaf.wr (l : Leaf) : Bool := l.lo.getLsbD 3
def Leaf.rd (l : Leaf) : Bool := l.lo.getLsbD 2
def Leaf.dup (l : Leaf) : Bool := l.hi.getLsbD 63
def Leaf.psn (l : Leaf) : Bool := l.hi.getLsbD 62
def Leaf.ckv (l : Leaf) : Bool := l.hi.getLsbD 61
def Leaf.cke (l : Leaf) : Bool := l.hi.getLsbD 60
def Leaf.sopen (l : Leaf) : Bool := l.hi.getLsbD 59
def Leaf.hb (l : Leaf) : Bool := l.hi.getLsbD 58
def Leaf.cow (l : Leaf) : Bool := l.hi.getLsbD 57
def Leaf.shd (l : Leaf) : Nat := wbits l.hi 32 25
def Leaf.crc (l : Leaf) : Nat := wbits l.hi 0 32

def tGLOBAL : Nat := 0
def tCAP : Nat := 1
def tHOST : Nat := 2
def tSPAD : Nat := 3
def tMMIO : Nat := 4

/-- R330, with the register pages of R323. -/
def Leaf.valid (l : Leaf) : Bool :=
  let t := l.type
  let plain := !l.sopen && !l.hb && !l.cke && !l.ckv && !l.psn && !l.cow && !l.dup
  t ≤ 4
    && (l.level == 0 || (t ≤ 2 && l.frame % 2 ^ 11 == 0 && wbits l.lo 10 16 == 0 && !l.cow && !l.sopen && !l.cke
          && !l.ckv && !l.psn && l.shd == 0))
    && (t != tSPAD || (plain && l.shd / 256 == 0 && l.frame < 16))
    && (!(t == tCAP || t == tHOST || t == tMMIO) || (plain && l.shd == 0))
    && (t != tMMIO || l.frame ≤ 8)

/-- The shadow frame (R329). -/
def Leaf.shadow (l : Leaf) : Nat := ((l.frame : Int) + sextN l.shd 25).emod (2 ^ 38) |>.toNat

/-- The live frame (R338) and the other storage. -/
def Leaf.live (l : Leaf) : Nat := if l.shd != 0 && l.vsel then l.shadow else l.frame
def Leaf.other (l : Leaf) : Nat := if l.vsel then l.frame else l.shadow

/-- Offset of an address in its page. -/
def Leaf.off (l : Leaf) (va : Nat) : Nat := if l.level = 0 then va % 2 ^ 16 else va % 2 ^ 27

/-! ### The walk (R327) -/

inductive Walk where
  | fail (level : Nat)          -- the entry of this level ends the walk, or its table cannot be obtained
  | leaf (key level : Nat) (lo hi : Word)
  deriving DecidableEq, Repr

/-- Low bit of a level's index. -/
def vaLow (level : Nat) : Nat := 16 + 11 * level

def vaIdx (va level : Nat) : Nat := if level = 3 then bitsN va 49 7 else bitsN va (vaLow level) 11

/-- The bits of a non-leaf entry that may be set: V and [63:25]. -/
def tableEntry (lo hi : Word) : Bool := wbits lo 0 25 == 1 && hi == 0

/-- The walk of a die from the table of level `n - 1`. -/
def State.walkAt (s : State) (die va : Nat) : Nat → Nat → Walk
  | 0, _ => .fail 0
  | n + 1, table =>
    let key := table + 16 * vaIdx va n
    if s.tableBad die key then .fail n
    else
      let lo := BitVec.ofNat 64 (s.le key 8)
      let hi := BitVec.ofNat 64 (s.le (key + 8) 8)
      if !lo.getLsbD 0 then .fail n
      else if lo.getLsbD 1 then (if 2 ≤ n then .fail n else .leaf key n lo hi)
      else if n = 0 then .fail 0
      else if !tableEntry lo hi then .fail n
      else s.walkAt die va n (wbits lo 25 39 * 2 ^ 15)

def ptbAddr (p : Word) : Nat := wbits p 15 41 * 2 ^ 15

/-- The walk of a virtual address under a PTBASE. -/
def State.walk (s : State) (die : Nat) (ptbase : Word) (va : Nat) : Walk := s.walkAt die va 4 (ptbAddr ptbase)

/-- The address of the entry of level `lvl` (R227), or the level of the table that cannot be obtained: the one that an
invalid, leaf or malformed entry would have named, or one whose own line cannot be read. The rule names levels 3, 2 and 1; a
missing level-0 table answers 1 too (DESIGN CHOICE, log entry 84). -/
def State.entryAt (s : State) (die va lvl : Nat) : Nat → Nat → Nat ⊕ Nat
  | 0, _ => .inl 0
  | n + 1, table =>
    let key := table + 16 * vaIdx va n
    if n = lvl then (if isHomeless key || (isHostKey key && (s.pkg (pkgOfDie die)).hasHost (hostOf key)) then .inr key else .inl n)
    else if s.tableBad die key then .inl n
    else
      let lo := BitVec.ofNat 64 (s.le key 8)
      if !lo.getLsbD 0 || lo.getLsbD 1 || !tableEntry lo (BitVec.ofNat 64 (s.le (key + 8) 8)) then .inl (max 1 (n - 1))
      else s.entryAt die va lvl n (wbits lo 25 39 * 2 ^ 15)

/-- The version selector of a page with a shadow frame, from the location directory (R333, R338). -/
def State.mkLeaf (s : State) (level : Nat) (lo hi : Word) : Leaf :=
  let l : Leaf := { lo := lo, hi := hi, level := level, vsel := false }
  { l with vsel := l.type == tGLOBAL && l.shd != 0 && (s.dirEnt l.frame).vsel }

/-! ### TLBs (R332) -/

def TlbEntry.hits (t : TlbEntry) (asid : BitVec 16) (va : Nat) : Bool :=
  t.asid == asid && va % 2 ^ 56 / 2 ^ t.bits == t.base / 2 ^ t.bits

/-- The leaf that an entry holds for an address; in a run the low FRAME bits are those of the page. -/
def TlbEntry.leaf (t : TlbEntry) (va : Nat) : Leaf :=
  { lo := if t.bits = 20 then BitVec.ofNat 64 (wbits t.lo 30 34 * 2 ^ 30 + bitsN va 16 4 * 2 ^ 26 + wbits t.lo 0 26) else t.lo,
    hi := t.hi, level := if t.bits = 27 then 1 else 0, vsel := t.vsel }

/-- Level-`n` tables that the page-walk cache of a die names for an address: the lowest one, as fuel and table. A cached
table is keyed by ASID and by its level and the address bits above what it covers. -/
def walkKey (level va : Nat) : Nat := level * 2 ^ 56 + va % 2 ^ 56 / 2 ^ vaLow (level + 1)

def State.walkFrom (s : State) (die : Nat) (asid : BitVec 16) (ptbase : Word) (va : Nat) : Nat × Nat :=
  let find (n : Nat) : Option Nat :=
    ((s.die die).walkCache.find? fun e => e.1 == asid.toNat && e.2.1 == walkKey n va).map fun e => e.2.2
  match find 0 with
  | some t => (1, t)
  | none =>
    match find 1 with
    | some t => (2, t)
    | none => match find 2 with | some t => (3, t) | none => (4, ptbAddr ptbase)

/-- The translation of a page for a context on a core: a cached one where a TLB holds it, else a walk (R332, R334). -/
def State.leafOf (s : State) (core : Nat) (asid : BitVec 16) (ptbase : Word) (va : Nat) : Option Leaf :=
  match (s.core core).tlb.find? fun t => t.hits asid va with
  | some t => some (t.leaf va)
  | none =>
    match (s.die (dieOf core)).tlb.find? fun t => t.hits asid va with
    | some t => some (t.leaf va)
    | none =>
      let f := s.walkFrom (dieOf core) asid ptbase va
      match s.walkAt (dieOf core) va f.1 f.2 with
      | .leaf _ level lo hi => some (s.mkLeaf level lo hi)
      | .fail _ => none

/-- Invalidate cached translations of the given cores and dies (R226). -/
def State.tlbDrop (s : State) (cores dies : Nat → Bool) (p : TlbEntry → Bool) (w : Nat × Nat × Nat → Bool) : State :=
  { s with
    cores := s.cores.map fun e => if cores e.1 then (e.1, { e.2 with tlb := e.2.tlb.filter fun t => !p t }) else e,
    dies := s.dies.map fun (e : Nat × Die) =>
      if dies e.1 then
        (e.1, { e.2 with tlb := e.2.tlb.filter fun t => !p t, walkCache := e.2.walkCache.filter fun x => !w x })
      else e }

/-- Invalidate what covers an address in an ASID. -/
def State.tlbInvAddr (s : State) (cores dies : Nat → Bool) (asid : BitVec 16) (va : Nat) : State :=
  s.tlbDrop cores dies (fun t => t.hits asid va)
    (fun e => e.1 == asid.toNat && (e.2.1 == walkKey 0 va || e.2.1 == walkKey 1 va || e.2.1 == walkKey 2 va))

/-! ### Checks of one line of an access -/

/-- What an access needs (R331, R155). `types` has bit t set for each target type that it may reach. -/
structure Acc where
  rd : Bool := false
  wr : Bool := false
  ex : Bool := false
  rmw : Bool := false           -- an atomic or `barv`: an open page refuses it (R182)
  cow : Bool := false           -- meets the COW check (R336)
  psn : Bool := false           -- meets the KVPOIS check
  line : Bool := false          -- meets POISON and RLOAD (checks 6 and 7)
  types : Nat := 0x1F
  cores : Option (List Nat) := none  -- a copy: SPAD only on these cores (R176)
  deriving DecidableEq, Repr

def Acc.load : Acc := { rd := true, psn := true, line := true, types := 0xF }
def Acc.store : Acc := { wr := true, cow := true, types := 0xF }
def Acc.atomic : Acc := { rd := true, wr := true, rmw := true, cow := true, psn := true, line := true, types := 0xF }
def Acc.fetch : Acc := { ex := true, types := 0x5 }

/-- One line of an access: the fault of its checks, or where its bytes stand. -/
inductive LineTr where
  | fault (code : Nat)
  | at (p : Place) (l : Option Leaf)
  deriving DecidableEq, Repr

def canonicalVa (x : Nat) : Bool := bitsN x 56 8 == (if bitsN x 55 1 == 1 then 255 else 0)

def inAperture (va : Nat) : Bool := va / 2 ^ 28 == 2 ^ 36 - 1

/-- Whether a byte of a core's scratchpad lies in the allocation of some resident workgroup of a launch (R324). -/
def State.allocated (s : State) (lid core off : Nat) : Bool :=
  s.groups.any fun e => e.2.lid == lid && e.2.phase.resident &&
    (match aget s.launches lid with
     | some l => e.2.wgs.any fun g => g.core == core && !g.ended && g.spad ≤ off && off < g.spad + l.record.spad
     | none => false)

/-- Whether a scratchpad byte lies in the allocation of the agent's own workgroup (R217). -/
def State.ownSpad (s : State) (w : Who) (core off : Nat) : Bool :=
  match aget s.groups w.gid with
  | some g =>
    match g.wgs[w.wg]?, aget s.launches g.lid with
    | some x, some l => x.core == core && x.spad ≤ off && off < x.spad + l.record.spad
    | _, _ => false
  | none => false

/-- The frame that an access of a GLOBAL page reaches (R337). -/
def Leaf.storage (l : Leaf) (write : Bool) : Nat := if write && l.sopen then l.other else l.live

/-- Where a byte stands under a leaf. -/
def Leaf.place (l : Leaf) (pkg : Nat) (write : Bool) (va : Nat) : Place :=
  let t := l.type
  if t = tGLOBAL then .mem (l.storage write * 2 ^ 16 + l.off va)
  else if t = tCAP then .mem (capKey pkg (l.frame * 2 ^ 16 + l.off va))
  else if t = tHOST then .mem (2 ^ 55 + l.frame * 2 ^ 16 + l.off va)
  else if t = tSPAD then .mem (spadKey (pkg * 256 + l.shd % 256) (l.frame * 2 ^ 16 + va % 2 ^ 16))
  else .mmio pkg l.frame (va % 2 ^ 16)

/-- Where a checked byte is held: a byte of the capacity tier on its device. -/
def State.backing (s : State) (pkg : Nat) : Place → Place
  | .mem k =>
    if isCapKey k then let x := (s.pkg pkg).capPlace (k % 2 ^ 56); .mem (capKey pkg (x.1 * 2 ^ 52 + x.2)) else .mem k
  | p => p

/-- Core and offset of a scratchpad key. -/
def spadCore (k : Nat) : Nat := (k - 2 ^ 80) / 2 ^ 20
def spadOff (k : Nat) : Nat := k % 2 ^ 20

/-- COUNT of the entry in memory (R336). -/
def State.countOf (s : State) (w : Who) (va : Nat) : Nat :=
  match s.walk w.die w.ptbase va with
  | .leaf _ _ lo _ => wbits lo 10 16
  | .fail _ => 0

/-- A place that names no byte (R396, R397): an offset past the capacity tier, or a host without a port. -/
def State.missing (s : State) (pkg : Nat) : Place → Bool
  | .mem k => (isCapKey k && (s.pkg pkg).capBytes ≤ k % 2 ^ 56) || (isHostKey k && !(s.pkg pkg).hasHost (hostOf k))
  | .mmio .. => false

/-- A homeless line that reads as data: neither poisoned nor cut off (R370, R371). -/
def State.intact (s : State) (pkg k : Nat) : Bool := !isHomeless k || s.lineState pkg k == .ok

/-- Checks 2 to 7 of R154 for the bytes of one line, from the address of the first. -/
def State.trans (s : State) (w : Who) (a : Acc) (va : Nat) : LineTr :=
  let poisoned (k : Nat) : Option Nat :=
    if !a.line then none
    else if isHomeless k then
      match s.lineState w.pkg k with
      | .ok => if s.reaches w.die k && !s.loadFails w.pkg k then none else some RLOAD
      | .poison => some POISON
      | .rload => some RLOAD
    else if s.reaches w.die k then none else some RLOAD
  if !canonicalVa va then .fault XLATE
  else if inAperture va then
    let core := w.pkg * 256 + bitsN va 20 8
    let off := va % 2 ^ 20
    if !a.types.testBit tSPAD then .fault PERM
    else if w.user && (w.away || !s.allocated w.lid core off) then .fault PERM
    else if (match a.cores with | some cs => !cs.contains core | none => false) then .fault PERM
    else if a.line && !s.reaches w.die (spadKey core off) then .fault RLOAD
    else .at (.mem (spadKey core off)) none
  else
    match s.leafOf w.core w.asid w.ptbase va with
    | none => .fault XLATE
    | some l =>
      let write := a.wr && !a.rmw
      let p := l.place w.pkg write va
      let refused :=
        !a.types.testBit l.type || (w.user && !l.usr) || (a.rd && !l.rd) || (a.wr && !l.wr) || (a.ex && !l.ex)
          || (a.rmw && l.type == tGLOBAL && l.sopen)
          || (l.type == tGLOBAL && !l.hb && (match p with | .mem k => (s.dirEnt (gpnOf k)).hostBias.isSome | .mmio .. => false))
          || (l.type == tSPAD && (match p with
                | .mem k => (w.away && s.ownSpad w (spadCore k) (spadOff k))
                    || (match a.cores with | some cs => !cs.contains (spadCore k) | none => false)
                | .mmio .. => false))
      if !l.valid || s.missing w.pkg p then .fault XLATE
      else if refused then .fault PERM
      else if a.cow && l.cow && 1 < s.countOf w va then .fault COW
      else if a.psn && l.psn then .fault KVPOIS
      else
        match p with
        | .mem k => match poisoned k with | some c => .fault c | none => .at (s.backing w.pkg p) (some l)
        | .mmio _ g _ => if a.line && !s.reachesPage w.die g then .fault RLOAD else .at p (some l)

/-! ### An access of several bytes -/

/-- Rank of a fault in the order of R154. -/
def faultRank (c : Nat) : Nat := faultOrder.findIdx (· == c)

/-- The first byte of each 256-byte line among ascending addresses. -/
def lineHeads : List Nat → List Nat
  | [] => []
  | [a] => [a]
  | a :: b :: r => match lineHeads (b :: r) with
    | [] => [a]
    | h :: t => if a / 256 = h / 256 then a :: t else a :: h :: t

/-- The lines of an access with their translations. -/
abbrev Lines := List (Nat × Place × Option Leaf)

/-- The first fault in the order of R154, with the first byte that meets it; else every line's place. -/
def State.transAll (s : State) (w : Who) (a : Acc) (vas : List Nat) : (Nat × Nat) ⊕ Lines :=
  let rs := (lineHeads vas).map fun h => (h, s.trans w a h)
  let worse (b : Option (Nat × Nat)) (r : Nat × LineTr) : Option (Nat × Nat) :=
    match r.2, b with
    | .fault c, none => some (c, r.1)
    | .fault c, some x => if faultRank c < faultRank x.1 then some (c, r.1) else some x
    | .at _ _, b => b
  match rs.foldl worse none with
  | some f => .inl f
  | none => .inr (rs.filterMap fun r => match r.2 with | .at p l => some (r.1, p, l) | .fault _ => none)

/-- Addresses wrap at 2^64. -/
def vaAdd (va k : Nat) : Nat := (va + k) % 2 ^ 64

/-- Where one byte of a translated access stands. -/
def placeOf (ls : Lines) (va : Nat) : Place :=
  match ls.find? fun e => e.1 / 256 == va / 256 with
  | some (h, .mem k, _) => .mem (k + (va % 256) - (h % 256))
  | some (h, .mmio p g o, _) => .mmio p g (o + (va % 256) - (h % 256))
  | none => .mem 0

/-- Scratchpad swizzle (R151): the transformed offset. -/
def swizzle (swz o : Nat) : Nat :=
  let x (dst src n : Nat) : Nat := Nat.xor o (bitsN o src n * 2 ^ dst)
  match swz with
  | 1 => x 5 10 1
  | 2 => x 5 10 2
  | 3 => x 5 10 3
  | 4 => x 5 10 4
  | 5 => x 5 10 5
  | 6 => x 5 11 5
  | 7 => x 5 12 5
  | _ => o

/-- The memory key of a byte, with the swizzle of a scratchpad byte. -/
def keyOf (ls : Lines) (swz va : Nat) : Nat :=
  match placeOf ls va with
  | .mem k => if isSpadKey k then k - spadOff k + swizzle swz (spadOff k) else k
  | .mmio .. => 0

/-! ### Translations in use (R176, R226) -/

/-- The translations that outstanding copies, `smxs` and `smxl` took at issue, and engines of their barrier objects: who uses them,
and the addresses with their places. A die in reset has dropped what its own use (R335). -/
def State.inFlight (s : State) : List (Who × List (Nat × Place)) :=
  ((s.copies.map fun e => (e.2.who, e.2.lines.map fun l => (l.1, l.2.1)))
    ++ (s.engines.map fun e => (e.2.who, [(e.2.boVa, Place.mem e.2.bo)]))
    ++ s.groups.flatMap fun e => e.2.mops.filterMap fun m => m.access.map fun a => (a.1, a.2.map fun l => (l.1, l.2.1))).filter fun x => !(s.die x.1.die).inReset

/-- A use may be of a translation that covers an address in an ASID: one of the same 128 MiB. -/
def usesVa (asid : BitVec 16) (va : Nat) (x : Who × List (Nat × Place)) : Bool :=
  x.1.asid == asid && x.2.any fun l => l.1 / 2 ^ 27 == va / 2 ^ 27

/-- A use is of a translation to one of some pages of the homeless space. -/
def usesPage (gpns : List Nat) (x : Who × List (Nat × Place)) : Bool :=
  x.2.any fun l => match l.2 with | .mem k => isHomeless k && gpns.contains (gpnOf k) | .mmio .. => false

/-! ### What an access does to caches, directories and translations -/

/-- The stack of a set that an access needs belongs to a die in reset: the access is held (R370). A hit in an L2 of the package,
or in the writer's own exclusive line, needs none. -/
def State.resetHeld (s : State) (die k : Nat) (wr : Bool) (apf : Bool := false) : Bool :=
  if wr then !(s.exclusive die k && (!apf || (s.dirEnt (gpnOf k)).master == some (pkgOfDie die))) && (s.writeOff (pkgOfDie die) k apf).isSome
  else (s.readOff (pkgOfDie die) k).isSome

/-- 32-byte sectors that cross a CXL or fabric port when a line enters a die's L2: none where the package holds it in an L2, or in
a slot while no L2 elsewhere holds it dirty and serves it (R352); a whole line otherwise, or the one sector that is served without
being cached (R276, R365). -/
def State.crossing (s : State) (die k : Nat) : Nat :=
  let pkg := pkgOfDie die
  let line := lineKey k
  if (s.pkgHolds pkg line).isSome then 0
  else if !isHomeless k then 8
  else match (s.dirEnt (gpnOf k)).master with
    | none => 0
    | some m =>
      let held := m == pkg || ((s.pkg pkg).serves (gpnOf k) (lineIx k)).isSome
      if held && (s.dirtyAway pkg line).isNone then 0
      else if m == pkg || s.ldirRoom m (gpnOf k) pkg then 8 else 1

/-- The cache and directory effects of reading the line of a memory key. -/
def State.touchLine (s : State) (w : Who) (k : Nat) : State :=
  if isSpadKey k then s
  else if isHostLine s k then s.granule w.die w.bkt w.ch k false
  else
    let s := s.charge w.pkg w.bkt (s.crossing w.die k)
    if isHomeless k then s.readLine w.die k w.ch else (s.countMiss w.die (lineKey k)).l2Put w.die (lineKey k) w.ch id

/-- The same for a write: the die's L2 owns the line. An error is a first write that finds no way (R363). -/
def State.ownLine (s : State) (w : Who) (dup : Bool) (k : Nat) : Try State :=
  if isSpadKey k then .ok s
  else if isHostLine s k then .ok (s.granule w.die w.bkt w.ch k true)
  else
    let s := s.charge w.pkg w.bkt (s.crossing w.die k)
    if isHomeless k then s.grantLine w.die k dup w.ch w.apf
    else .ok (((s.countMiss w.die (lineKey k)).flushLine (lineKey k) fun d => d != w.die && pkgOfDie d == w.pkg).l2Put
      w.die (lineKey k) w.ch id)

/-- The tags of both storages of the pages of an access that have a shadow frame carry VSEL (R359). -/
def State.syncVsel (s : State) (ls : List (Nat × Place × Option Leaf)) : State :=
  (ls.filterMap fun e => e.2.2.filter fun l => l.type == tGLOBAL && l.shd != 0).foldl (fun s l => s.copyVsel l.frame l.shadow) s

/-- Clear CKV of the leaf entry in memory and in the die's cached copies (R342). -/
def State.clearCkv (s : State) (w : Who) (va : Nat) : State :=
  let clr (t : TlbEntry) : TlbEntry := if t.hits w.asid va then { t with hi := t.hi &&& ~~~((1 : Word) <<< 61) } else t
  let s := match s.walk w.die w.ptbase va with
    | .leaf key _ _ hi => s.entryWrite w.pkg (key + 8) (leBytes 8 (hi &&& ~~~((1 : Word) <<< 61)).toNat)
    | .fail _ => s
  let s := s.modDie w.die fun d => { d with tlb := d.tlb.map clr }
  { s with cores := s.cores.map fun e => if dieOf e.1 == w.die then (e.1, { e.2 with tlb := e.2.tlb.map clr }) else e }

/-- Record a written sector of an open page in the sector mask (R337). -/
def State.maskSector (s : State) (l : Leaf) (va : Nat) : State :=
  s.modDir l.frame fun d => { d with mask := d.mask ||| ((1 : BitVec 2048) <<< (va % 2 ^ 16 / 32)) }

/-- The store error of a write to a lost page, to a dead master or to a place no route reaches (R371, R387): its cause. -/
def State.storeBad (s : State) (w : Who) (k : Nat) : Option Nat :=
  let cut := if s.reaches w.die k then none else some RLOAD
  if isHomeless k then
    let d := s.dirEnt (gpnOf k)
    if d.lost then some POISON
    else match d.master with | some m => if s.dead.contains m then some RLOAD else cut | none => cut
  else cut

/-- The storage that a virtual address reaches, as its core translates it: a memory key, or a byte of a register page. -/
def State.target (s : State) (w : Who) (write : Bool) (va : Nat) : Option Place :=
  if inAperture va then some (.mem (spadKey (w.pkg * 256 + bitsN va 20 8) (va % 2 ^ 20)))
  else ((s.leafOf w.core w.asid w.ptbase va).filter Leaf.valid).map fun l => s.backing w.pkg (l.place w.pkg write va)

/-- ADDR of the error of an access that failed at a virtual address (R445): the physical address of its line. Where nothing
translates the address the spec names none, and the value is free (DESIGN CHOICE, log entry 113). -/
def State.failAddr (s : State) (w : Who) (write : Bool) (va : Nat) : Nat :=
  match s.target w write va with
  | some (.mem k) => s.physAddr (k / 256 * 256)
  | some (.mmio _ g o) => mmioAddr g (o / 256 * 256)
  | none => (Config.faultAddr s.freeN).toNat

/-- Loads have faulted: those of them whose packets failed have had their fault (R400). -/
def State.loadsFaulted (s : State) (w : Who) (fs : List (Nat × Nat)) : State :=
  fs.foldl (fun s f => if f.1 != RLOAD then s else match s.target w false f.2 with
    | some (.mem k) => s.loadFaulted w.pkg k
    | _ => s) s

/-- PEER of a store error (R445). -/
def State.peerOf (s : State) (pkg k : Nat) : Nat :=
  if isHomeless k then ((s.dirEnt (gpnOf k)).master).getD pkg else pkg

/-- The first address of each 32-byte sector among the addresses of an access, in order. -/
def sectorsOf (vas : List Nat) : List Nat :=
  ((vas.map fun va => va / 32 * 32).eraseDups).filterMap fun h => vas.find? fun va => va / 32 * 32 == h

/-- The leaf of the line of an address. -/
def leafAt (ls : Lines) (va : Nat) : Option Leaf := (ls.find? fun e => e.1 / 256 == va / 256).bind fun e => e.2.2

/-- The L2 obtains the lines that an access writes, before any byte is written. An error is a first write that finds no way. -/
def State.claim (s : State) (w : Who) (ls : Lines) (swz : Nat) (vas : List Nat) : Try State :=
  (sectorsOf vas).foldlM (fun s va =>
    let k := keyOf ls swz va
    if (s.storeBad w k).isSome then .ok s else s.ownLine w ((leafAt ls va).elim false Leaf.dup) k) s

/-- What a write of one sector leaves: CKV, the sector mask, the dirty sector; or a store error, one for each line (R446),
and the sector among those that are dropped. `src` is SRC of R445. -/
def State.noteWrite (s : State) (w : Who) (ls : Lines) (swz src : Nat) (r : State × List Nat) (va : Nat) : State × List Nat :=
  let k := keyOf ls swz va
  match s.storeBad w k with
  | some c =>
    let e : StoreErr := { asid := w.asid.toNat, addr := s.physAddr (k / 256 * 256), peer := s.peerOf w.pkg k, cause := c, src := src,
                          wg := w.wgIndex }
    (if r.2.any fun x => x / 8 == va / 256 then r.1 else r.1.errqPut w.pkg w.errq e, va / 32 :: r.2)
  | none =>
    let s1 := match leafAt ls va with
      | some l =>
        let s1 := if l.ckv then r.1.clearCkv w va else r.1
        if l.type == tGLOBAL && l.sopen then s1.maskSector l va else s1
      | none => r.1
    (if isSpadKey k then s1 else s1.dirtySector w.die k w.asid w.bkt, r.2)

/-- Effects of writing the sectors of an access whose lines have been obtained: each sector notes its write. Answers the state and
the writes that are performed, by memory key. -/
def State.acceptWrites (s : State) (w : Who) (ls : Lines) (swz src : Nat) (ws : List (Nat × Byte)) : State × List (Nat × Byte) :=
  let r := (sectorsOf (ws.map Prod.fst)).foldl (s.noteWrite w ls swz src) (s, [])
  (r.1.syncVsel ls, (ws.filter fun x => !r.2.contains (x.1 / 32)).map fun x => (keyOf ls swz x.1, x.2))

/-- Write the bytes of a checked access whose lines have been obtained. -/
def State.putClaimed (s : State) (w : Who) (ls : Lines) (swz src : Nat) (ws : List (Nat × Byte)) : State :=
  let r := s.acceptWrites w ls swz src ws
  r.1.write r.2

/-- Write the bytes of a checked access: its lines are obtained, and then it writes. -/
def State.putBytes (s : State) (w : Who) (ls : Lines) (swz src : Nat) (ws : List (Nat × Byte)) : Try State :=
  (s.claim w ls swz (ws.map Prod.fst)).map fun s => s.putClaimed w ls swz src ws

/-- Read the bytes of a checked access at the given virtual addresses, with the effects of the reads. -/
def State.getBytes (s : State) (w : Who) (ls : Lines) (swz : Nat) (vas : List Nat) : List Byte × State :=
  (vas.map fun va => memGet s.mem (keyOf ls swz va),
   ((sectorsOf vas).foldl (fun s va => s.touchLine w (keyOf ls swz va)) s).syncVsel ls)

/-- Whether some byte of an access needs a set on a die in reset. -/
def State.anyReset (s : State) (w : Who) (ls : Lines) (wr : Bool := false) : Bool :=
  ls.any fun e => match e.2.1 with | .mem k => s.resetHeld w.die k wr w.apf | .mmio .. => false

/-- Consecutive virtual addresses. -/
def vaRange (va n : Nat) : List Nat := (List.range n).map (vaAdd va)

end Sys2Proof.Machine
end

