-- ==== Sys2Proof/Machine/Chains.lean ====
section
/-! DEFINITION. Launch records (R261), launch chains (R262-R266), refusal (R267), dependences (R268), intake (R265) and
completion (R275). -/
namespace Sys2Proof.Machine

/-! ### The record -/

/-- A launch record from its 256 bytes (R261). -/
def parseRecord (bs : List Byte) : LRec :=
  let x := leNat bs
  let g (off n : Nat) : Nat := bitsN x (8 * off) (8 * n)
  let rng (i : Nat) : Nat × Nat × Nat × Nat :=
    let o := 0x60 + 16 * i
    (g o 8, g (o + 8) 5, g (o + 13) 1, g (o + 14) 2)
  let n := g 0x52 2
  { wgentry := BitVec.ofNat 64 (g 0x08 8), sqentry := BitVec.ofNat 64 (g 0x10 8), args := BitVec.ofNat 64 (g 0x18 8),
    gx := g 0x20 4, gy := g 0x24 4, gz := g 0x28 4, warps := g 0x2C 2, flags := BitVec.ofNat 16 (g 0x2E 2),
    bregs := g 0x30 2, ncopy := g 0x32 1, nepi := g 0x33 1, cregs := g 0x34 2, eregs := g 0x36 2, spad := g 0x38 4,
    tiles := g 0x3C 1, coop := g 0x3D 1, bucket := g 0x3E 1, prio := g 0x3F 1, sab := BitVec.ofNat 64 (g 0x40 8),
    str := g 0x48 4, utrap := g 0x4C 4, asid := BitVec.ofNat 16 (g 0x50 2), nrange := n,
    ranges := (List.range (min n 8)).map rng, sstride := g 0xE0 4,
    zero := g 0x54 4 == 0 && g 0xE4 28 == 0 && ((List.range 8).all fun i => i < n || g (0x60 + 16 * i) 16 == 0) }

/-- Offsets of the sections of a save area (R452): vector records, barriers, tiles, scratchpad, accumulators, matrix, end. -/
def LRec.saveVec (r : LRec) : Nat := 1600 * r.warps
def LRec.saveBar (r : LRec) : Nat := r.saveVec + 272 * r.alloc
def LRec.saveTiles (r : LRec) : Nat := r.saveBar + 64
def LRec.saveSpad (r : LRec) : Nat := r.saveTiles + (144 * r.tiles + 63) / 64 * 64
def LRec.saveAcc (r : LRec) : Nat := r.saveSpad + r.spad
def LRec.saveMat (r : LRec) : Nat := r.saveAcc + 403456 * r.quad.toNat
def LRec.saveEnd (r : LRec) : Nat := r.saveMat + 67200 * r.quad.toNat

/-- Address of a workgroup's save area (R229). -/
def LRec.saveArea (r : LRec) (index : Nat) : Nat := (r.sab.toNat + index * r.str) % 2 ^ 64

def budgetOk (b : Nat) : Bool := 16 ≤ b && b ≤ 256 && b % 8 == 0

/-- Whether a launch can be placed on an empty package (R267 cause 0x0C, R272-R274): only a co-resident grid can fail. -/
def LRec.fitsEmpty (r : LRec) : Bool :=
  if !r.cores then true
  else if r.quad then (r.total + r.coop - 1) / r.coop ≤ 64
  else
    let c := min (min (2048 / r.alloc) (32 / r.warps)) (if r.spad = 0 then 32 else min 32 (2 ^ 20 / r.spad))
    r.total ≤ 64 * (if r.tiles = 0 then 4 * c else min (4 * c) (64 / r.tiles))

/-- The refusal cause of a record taken in from chain `p` (R267); 0 for none. -/
def LRec.cause (r : LRec) (p : Nat) (user : Option (BitVec 16)) : Nat :=
  let used (k : Nat) : Bool := if k = 0 then 0 < r.general else if k = 1 then 0 < r.ncopy else 0 < r.nepi
  let rangeOk (x : Nat × Nat × Nat × Nat) : Bool :=
    x.2.1 != 0 && 1 ≤ x.2.2.1 && x.2.2.1 ≤ 3 &&
      (if x.2.2.1 = 3 then x.2.2.2 * 256 + x.2.1 ≤ r.spad else x.2.2.2 == 0)
  if !r.zero || r.flags.toNat ≥ 64 then 1
  else if r.prio != p || 15 < r.bucket then 2
  else if wbits r.wgentry 0 4 != 0 || wbits r.sqentry 0 4 != 0 || r.utrap % 16 != 0 then 3
  else if r.gx == 0 || r.gy == 0 || r.gz == 0 || 2 ^ 32 - 1 < r.total then 4
  else if r.warps == 0 || 32 < r.warps || r.warps < r.ncopy + r.nepi then 5
  else if !((List.range 3).all fun k => !used k || budgetOk (r.budget k)) || 2048 < r.alloc then 6
  else if 2 ^ 20 < r.spad || r.spad % 256 != 0 then 7
  else if (r.quad && (r.sqentry == 0 || !(r.coop == 1 || r.coop == 2 || r.coop == 4) || 64 < r.tiles * r.coop))
      || (!r.quad && (r.sqentry != 0 || 1 < r.coop)) || 64 < r.tiles then 8
  else if 8 < r.nrange || !r.ranges.all rangeOk then 9
  else if r.preemptable && (r.sab == 0 || wbits r.sab 0 6 != 0 || r.str < r.saveEnd) then 0x0A
  else if (match user with | some a => a != r.asid | none => false) then 0x0B
  else if !r.fitsEmpty then 0x0C
  else 0

/-! ### Dependences (R268) -/

/-- Extent of a range: first byte and length. -/
def LRec.extent (r : LRec) (x : Nat × Nat × Nat × Nat) : Nat × Nat :=
  (x.1, if x.2.2.1 = 3 then (r.total - 1) * r.sstride + x.2.1 else x.2.1)

/-- Two extents share a byte, addresses wrapping at 2^64. -/
def overlap (a b : Nat × Nat) : Bool :=
  (b.1 + 2 ^ 64 - a.1) % 2 ^ 64 < a.2 || (a.1 + 2 ^ 64 - b.1) % 2 ^ 64 < b.2

/-- `depends(l, e)` of R268. -/
def dependsOn (l e : LRec) : Bool :=
  let ext (r : LRec) (wr : Bool) : List (Nat × Nat) := (r.ranges.filter fun x => (x.2.2.1 == 2) == wr).map r.extent
  let meet (xs ys : List (Nat × Nat)) : Bool := xs.any fun x => ys.any fun y => overlap x y
  l.ordered || e.ordered ||
    (l.asid == e.asid &&
      (meet (ext l true) (ext e true) || meet (ext l true) (ext e false) || meet (ext l false) (ext e true)))

/-! ### Chains (R262-R266) -/

/-- A field of address bits [55:8]. -/
def recAddr (x : Nat) : Nat := bitsN x 8 48 * 256

def State.chain (s : State) (pkg p : Nat) : Chain := (s.pkg pkg).chains.getD p Chain.reset
def State.modChain (s : State) (pkg p : Nat) (g : Chain → Chain) : State :=
  s.modPkg pkg fun k => { k with chains := modAt k.chains p g }

/-- Appended records that have not completed are at their most (R264). -/
def Chain.full (c : Chain) : Bool := 2 ^ 31 - 1 ≤ (c.next - 1 - c.done).toNat

/-- The append of R263, as one step: the record's number and the state; nothing while the chain is full. An error is a first
write of one of its lines that finds no way. -/
def State.appendNow (s : State) (pkg p addr : Nat) (user : Option (BitVec 16)) (slot : Option Nat) :
    Try (Option (BitVec 32 × State)) :=
  let c := s.chain pkg p
  if c.full then .ok none
  else
    let link (s : State) : Try State := if c.head != 0 then s.agentWrite pkg c.tail.toNat (leBytes 8 addr) else .ok s
    (Try.clean s ((s.agentWrite pkg addr (leBytes 8 0)).bind link)).map fun s =>
      some (c.next, s.modChain pkg p fun d =>
        { d with next := c.next + 1, head := if c.head != 0 then c.head else BitVec.ofNat 64 addr,
                 tail := BitVec.ofNat 64 addr,
                 users := match user with | some a => aset d.users c.next.toNat a.toNat | none => d.users,
                 slots := match slot with | some k => aset d.slots c.next.toNat k | none => d.slots })

/-- The chain of a held request. -/
def Held.onChain : Held → Option Nat
  | .append p _ => some p
  | .hostWrite .. => none
  | .storeError .. => none

/-- An append behind those that are held for its chain: the switch die serialises them (R263, R264). -/
def State.append (s : State) (pkg p addr : Nat) (user : Option (BitVec 16)) (slot : Option Nat) :
    Try (Option (BitVec 32 × State)) :=
  if (s.pkg pkg).held.any fun h => h.onChain == some p then .ok none else s.appendNow pkg p addr user slot

/-- An append that a host or a register page asks for: held at the switch die until it can be performed (R264, R363). -/
def State.appendTail (s : State) (pkg p : Nat) (val : Word) : State :=
  let addr := recAddr val.toNat
  let wait (s : State) : State := s.modPkg pkg fun k => { k with held := k.held ++ [.append p addr] }
  match s.append pkg p addr none none with
  | .ok (some r) => r.2
  | .ok none => wait s
  | .error x => wait { x.s with tries := aset x.s.tries (Trier.held (pkg * 64 + p)).key x.mark }

/-- The first append that is held for a chain is tried again. -/
def State.heldAppend (s : State) (pkg p : Nat) : State :=
  match (s.pkg pkg).held.find? fun h => h.onChain == some p with
  | some (.append _ addr) =>
    s.tryAs (Trier.held (pkg * 64 + p)).key fun s =>
      (s.appendNow pkg p addr none none).map fun r =>
        match r with
        | some (_, t) => t.modPkg pkg fun k => { k with held := k.held.eraseP fun h => h.onChain == some p }
        | none => s
  | _ => s

/-- DONE moves over an unbroken run of completed numbers (R275). -/
def Chain.advance (c : Chain) : Nat → Chain
  | 0 => c
  | n + 1 =>
    if c.fin.contains (c.done + 1) then
      Chain.advance { c with done := c.done + 1, fin := c.fin.filter (· != c.done + 1) } n
    else c

/-- Count a number as completed. -/
def Chain.complete (c : Chain) (n : BitVec 32) : Chain :=
  let c := { c with fin := n :: c.fin.filter (· != n) }
  c.advance (c.fin.length + 1)

/-- Drop records without running them (R266): `n` numbers from the unread one on. The backfill slots of dropped records
are free again, as their launches have completed. -/
def State.dropRecords (s : State) (pkg p n : Nat) : State :=
  let c := s.chain pkg p
  let nums := (List.range n).map fun i => c.taken + BitVec.ofNat 32 i
  let freed := nums.filterMap fun x => aget c.slots x.toNat
  let s := s.modChain pkg p fun c =>
    let c := nums.foldl Chain.complete c
    { c with taken := c.taken + BitVec.ofNat 32 n, users := c.users.filter fun e => !nums.contains (BitVec.ofNat 32 e.1),
             slots := c.slots.filter fun e => !nums.contains (BitVec.ofNat 32 e.1) }
  s.modPkg pkg fun k => { k with bfSlots := mapFrom 0 (fun i x => if freed.contains i then none else x) k.bfSlots }

/-- A write of LCHEAD (R262, R266). One that resumes the chain answers its posting. -/
def State.writeHead (s : State) (pkg p : Nat) (val : Word) : State :=
  let c := s.chain pkg p
  let addr := recAddr val.toNat
  let stop := val.getLsbD 63
  let drop := val.getLsbD 62
  if drop && (stop || !c.stop) then s
  else
  let s := if stop then s else s.dropPostings (.chain pkg p)
  if drop && addr = 0 then
    (s.dropRecords pkg p (c.next - c.taken).toNat).modChain pkg p fun c => { c with stop := false, head := 0, tail := 0 }
  else if drop then
    (s.dropRecords pkg p 1).modChain pkg p fun c => { c with stop := false, head := BitVec.ofNat 64 addr }
  else s.modChain pkg p fun c => { c with stop := stop, head := BitVec.ofNat 64 addr }

/-- What LCHEAD, LCTAIL and LCDONE read (R262). -/
def Chain.readHead (c : Chain) : Word := BitVec.ofNat 64 (c.stop.toNat * 2 ^ 63 + recAddr c.head.toNat)
def Chain.readDone (c : Chain) : Word := BitVec.ofNat 64 (c.next.toNat * 2 ^ 32 + c.done.toNat)

/-! ### Intake (R265) -/

/-- Launches of a package's window. -/
def State.window (s : State) (pkg : Nat) : AMap Launch := s.launches.filter fun e => e.2.pkg == pkg

/-- The highest chain that intake can read from. -/
def Pkg.ready (k : Pkg) : Option Nat :=
  ((List.range 16).reverse.find? fun p => match k.chains[p]? with | some c => c.head != 0 && !c.stop | none => false)

/-- One step of intake: the state, unchanged when intake has nothing to do; nothing is taken in before bring-up has completed
(R468). -/
def State.intake (s : State) (pkg : Nat) : State :=
  if 64 ≤ (s.window pkg).length || (s.pkg pkg).bootStep != 7 then s
  else
    match (s.pkg pkg).ready with
    | none => s
    | some p =>
      let c := s.chain pkg p
      let addr := c.head.toNat
      if s.agentOff pkg addr 256 then s
      else
      match s.physBad pkg addr 256 with
      | some code =>
        -- the handle names the chain
        let s := s.agentFailed pkg addr 256
        let h := s.nextHandle
        let s := { s with nextHandle := h + 1, postings := aset s.postings h { target := .chain pkg p, lanes := 0 } }
        let s := s.enqueue (pkg * 8)
          { handle := h, addr := BitVec.ofNat 64 addr, pc := 0, ptbase := 0, lanes := 0, asid := 0, code := code, kind := 3 }
        s.modChain pkg p fun c => { c with stop := true }
      | none =>
        let bs := s.bytes addr 256
        let r := parseRecord bs
        let num := c.taken
        let user := (aget c.users num.toNat).map fun a => BitVec.ofNat 16 a
        let cause := r.cause p user
        let deps := if cause != 0 then [] else
          ((s.window pkg).filter fun e => e.2.cause == 0 && dependsOn r e.2.record).map Prod.fst
        let l : Launch :=
          { pkg := pkg, chain := p, num := num, addr := addr, record := r, cause := cause, deps := deps, placed := 0,
            endedWgs := 0, faulted := false, order := (s.pkg pkg).intakeN, userAsid := user,
            bfSlot := aget c.slots num.toNat }
        let s := s.agentRead pkg addr 256
        let s := { s with nextId := s.nextId + 1, launches := aset s.launches s.nextId l }
        let s := s.modPkg pkg fun k => { k with intakeN := k.intakeN + 1 }
        s.modChain pkg p fun c =>
          { c with head := BitVec.ofNat 64 (recAddr (leNat (bs.take 8))), taken := num + 1,
                   users := adel c.users num.toNat, slots := adel c.slots num.toNat }

/-! ### Completion (R275) -/

/-- The completion word. -/
def Launch.word (l : Launch) : Nat :=
  2 ^ 63 + l.faulted.toNat * 2 ^ 62 + l.cause * 2 ^ 40 + l.num.toNat

/-- A failed store of an ASID has been detected and not reported yet (R446). -/
def State.owesError (s : State) (asid : BitVec 16) : Bool :=
  (s.pkgs.any fun (e : Nat × Pkg) => e.2.held.any fun h =>
      match h with | .storeError _ x => x.asid == asid.toNat | .append .. => false | .hostWrite .. => false)
    || s.agenda.any fun p => match p with | .event (.storeError _ x) => x.asid == asid.toNat | _ => false

/-- Everything of a launch has ended, and every store of it, those of its capacity-tier copies among them, has been accepted or
reported. -/
def State.launchDone (s : State) (lid : Nat) (l : Launch) : Bool :=
  l.cause != 0 || (l.endedWgs == l.record.total && !(s.groups.any fun e => e.2.lid == lid)
    && !(s.engines.any fun e => e.2.who.lid == lid) && !s.owesError l.record.asid)

/-- Every dirty line of every L2 is written back: a release of `.sys` performs what precedes it at the masters (R275, R416). HOST
lines stay with their holders, of which their hosts know (R402). -/
def State.backAll (s : State) : State := (s.dies.map Prod.fst).foldl (fun s d => s.writeBackDie d) s

/-- A line that a write-back can still clean is dirty. -/
def State.unclean (s : State) : Bool := s.dies.any fun (e : Nat × Die) => e.2.l2.any fun x => x.2.gran.isEmpty && x.2.dirty != 0

/-- A launch completes: what it wrote has reached the masters, its word is written, then DONE moves; what waited for it is ready,
and a backfill slot is free. A write-back that is held, or fails and has to be reported, comes first. -/
def State.completeLaunch (s : State) (lid : Nat) : State :=
  match aget s.launches lid with
  | none => s
  | some l =>
    let t := s.backAll
    if !s.launchDone lid l then s
    else if t.unclean || t.owesError l.record.asid then t
    else t.tryAs (Trier.launch lid).key fun s =>
      (s.agentWrite l.pkg (l.addr + 0x58) (leBytes 8 l.word)).map fun s =>
        let s := s.occurs (l.pkg * 256) 2 0x0E
        let s := { s with launches := (adel s.launches lid).map fun (e : Nat × Launch) =>
            (e.1, { e.2 with deps := e.2.deps.filter (· != lid) }) }
        let s := s.modChain l.pkg l.chain fun c => c.complete l.num
        -- barrier phases of the launch go with it
        let s := { s with phases := s.phases.filter fun e =>
          let k := barKeyOf e.1
          !(k.scope == 3 && k.dom == lid) && !(k.scope == 2 && k.dom / 8 == lid) }
        match l.bfSlot with
        | some i => s.modPkg l.pkg fun k => { k with bfSlots := modAt k.bfSlots i fun _ => none }
        | none => s

end Sys2Proof.Machine
end

