-- ==== Sys2Proof/Machine/Backfill.lean ====
section
/-! DEFINITION. The backfill engine (R309-R313). -/
namespace Sys2Proof.Machine

def bfcfgMask (v : Word) : Word := v &&& 0xFFFFFFFFFFFF00FF

def cfgEn (c : Word) : Bool := c.getLsbD 63
def cfgBatch (c : Word) : Nat := wbits c 56 7 + 1
def cfgTaddr (c : Word) : Nat := wbits c 16 40 * 2 ^ 16
def cfgChain (c : Word) : Nat := wbits c 4 4

/-- A write of BFCFG: it configures the engine and resumes it after a template failure, which is no longer outstanding (R309,
R313). -/
def State.writeBfcfg (s : State) (pkg : Nat) (val : Word) : State :=
  (s.dropPostings (.backfill pkg)).modPkg pkg fun p => { p with bfcfg := bfcfgMask val, bfStopped := false }

/-- BFSTAT (R310). -/
def Pkg.bfstat (p : Pkg) : Word := BitVec.ofNat 64 (p.bfRecs.toNat * 2 ^ 32 + p.bfDrop * 2 ^ 16 + p.bfQueue.length)

/-- The template cannot be read: the engine stops and posts a record whose handle names it (R313). -/
def State.bfFail (s : State) (pkg addr code : Nat) : State :=
  let s := s.agentFailed pkg addr 256
  let h := s.nextHandle
  let s := { s with nextHandle := h + 1, postings := aset s.postings h { target := .backfill pkg, lanes := 0 } }
  let s := s.enqueue (pkg * 8)
    { handle := h, addr := BitVec.ofNat 64 addr, pc := 0, ptbase := 0, lanes := 0, asid := 0, code := code, kind := 3 }
  s.modPkg pkg fun p => { p with bfStopped := true }

/-- The distinct pages of a batch in first-use order. -/
def pagesOf (b : List BfReq) : List Word := (b.map BfReq.page).eraseDups

def sameReq (a b : BfReq) : Bool := a.page == b.page && a.seqNo == b.seqNo && a.pos == b.pos && a.layer == b.layer

/-- Close the open batch. -/
def Pkg.closeBatch (p : Pkg) : Pkg :=
  if p.bfOpen.isEmpty then p else { p with bfClosed := p.bfClosed ++ [(p.bfOpen, p.bfOpenCfg)], bfOpen := [] }

/-- BACKFILL_ACCEPT (R312): the request at the queue's head is dropped, joins the open batch, or closes it first. The queue
is held while a closed batch waits. -/
def State.bfAccept (s : State) (pkg : Nat) : State :=
  let p := s.pkg pkg
  match p.bfQueue with
  | [] => s
  | r :: rest =>
    if !p.bfClosed.isEmpty || p.bfStopped then s
    else
      let cfg := if p.bfOpen.isEmpty then p.bfcfg else p.bfOpenCfg
      let t := cfgTaddr cfg
      if s.agentOff pkg t 256 then s
      else
      match s.physBad pkg t 256 with
      | some code => s.bfFail pkg t code
      | none =>
        let pages := pagesOf p.bfOpen
        let template := s.bytes t 256
        let s := s.agentRead pkg t 256
        if r.asid != (parseRecord template).asid then
          s.modPkg pkg fun p => { p with bfQueue := rest, bfDrop := min (p.bfDrop + 1) 65535 }
        else if p.bfOpen.any (sameReq r) then s.modPkg pkg fun p => { p with bfQueue := rest }
        else if !p.bfOpen.isEmpty && (p.bfOpen.length == cfgBatch cfg || (!pages.contains r.page && pages.length == 8)) then
          s.modPkg pkg Pkg.closeBatch
        else (s.occurs (pkg * 256) 2 0x0D).modPkg pkg fun p => { p with bfQueue := rest, bfOpen := p.bfOpen ++ [r], bfOpenCfg := cfg }

/-- BATCH_AGE (R312): the open batch's oldest request has waited its age; the batch closes. -/
def State.bfAge (s : State) (pkg : Nat) : State := s.modPkg pkg Pkg.closeBatch

/-- The service address of a physical address (R326). -/
def serviceVa (a : Nat) : Nat := if bitsN a 55 1 = 1 then a + 0xFF00000000000000 else a

/-- The argument block of a batch in slot `k` (R311). -/
def bfArgs (targs : Word) (b : List BfReq) (k : Nat) : List Byte :=
  leBytes 8 targs.toNat ++ leBytes 4 b.length ++ leBytes 4 k ++ leBytes 16 0 ++
    b.flatMap fun r => leBytes 8 r.page.toNat ++ leBytes 4 r.seqNo.toNat ++ leBytes 4 r.pos.toNat ++ leBytes 2 r.layer.toNat
      ++ leBytes 14 0

/-- The record of a batch: the template with the fields that the engine sets (R312). -/
def bfRecord (template : List Byte) (cfg : Word) (b : List BfReq) (k : Nat) : List Byte :=
  let ps := pagesOf b
  template.take 0x18 ++ leBytes 8 (serviceVa (cfgTaddr cfg + 0x1000 + 0x1800 * k)) ++ leBytes 4 b.length ++ leBytes 4 1
    ++ leBytes 4 1 ++ (template.drop 0x2C).take (0x3F - 0x2C) ++ leBytes 1 (cfgChain cfg) ++ (template.drop 0x40).take (0x52 - 0x40)
    ++ leBytes 2 ps.length ++ (template.drop 0x54).take 4 ++ leBytes 8 0
    ++ (ps.flatMap fun a => leBytes 8 a.toNat ++ leBytes 5 65536 ++ leBytes 1 2 ++ leBytes 2 0) ++ leBytes (16 * (8 - ps.length)) 0
    ++ template.drop 0xE0

/-- BATCH_EMIT (R312): a closed batch gets the lowest free slot (DESIGN CHOICE, log entry 110); its argument block and record are written, and the record
is appended to the batch's chain. -/
def State.bfEmit (s : State) (pkg : Nat) : State :=
  let p := s.pkg pkg
  match p.bfClosed, p.bfSlots.findIdx? fun x => x.isNone with
  | (b, cfg) :: rest, some k =>
    if !cfgEn p.bfcfg || p.bfStopped then s
    else
      let t := cfgTaddr cfg
      if s.agentOff pkg t 256 then s
      else
      match s.physBad pkg t 256 with
      | some code => s.bfFail pkg t code
      | none =>
        let template := s.bytes t 256
        let s := s.agentRead pkg t 256
        let recAt := t + 0x100 + 256 * k
        s.tryAs (Trier.backfill pkg).key fun s0 =>
          (Try.clean s0 (((s0.agentWrite pkg (t + 0x1000 + 0x1800 * k) (bfArgs (parseRecord template).args b k)).bind fun s =>
            s.agentWrite pkg recAt (bfRecord template cfg b k)).bind fun s => s.append pkg (cfgChain cfg) recAt none (some k))).map
          fun r => match r with
            | none => s0
            | some (num, s) =>
              s.modPkg pkg fun p => { p with bfClosed := rest, bfRecs := p.bfRecs + 1,
                                             bfSlots := modAt p.bfSlots k fun _ => some num.toNat }
  | _, _ => s

end Sys2Proof.Machine
end

