-- ==== Sys2Proof/Machine/Place.lean ====
section
/-! DEFINITION. Placement of workgroups and quad groups (R236, R272-R274), their start, staging (R270, R271), what a
blocked launch's victims free (R277), and the kill and relaunch of a quad group (R447, R448). -/
namespace Sys2Proof.Machine

/-! ### State as a quad group begins (R185, R281) -/

def Tile.void : Tile :=
  { defd := false, state := 0, psn := false, scl := false, sct := 0, swz := 0, fmt := 0, core := 0, rowb := 0, pitch := 0,
    rows := 0, base := 0, nanRow := 0, infRow := 0, nanCol := 0, infCol := 0 }

def Plane.init : Plane :=
  { valid := false, half := 0, k := 1, n := 0, special := 0, scale := [], w := [] }

/-- The matrix state of a core as a quad group begins (R185). The rule gives no active plane then: it is plane 0, and the fields of
the planes, which are not VALID, are the least they can be (DESIGN CHOICE, log entry 118). -/
def MatCore.init : MatCore := { acc := [], colsum := [], plane0 := Plane.init, plane1 := Plane.init, active := false }

/-- m = −∞, l = +0 and clear flags (R185). -/
def RowState.init : RowState := { m := 0xFF800000, l := 0, nan := false, empty := false, rowsum := 0 }

/-- AF96, BF16 × BF16, W = 1, no overrides (R185, R190). -/
def MatCfg.init : MatCfg := 0x00231

/-! ### Free resources -/

/-- A unit that holds its cores' resources. -/
def Group.resident (g : Group) : Bool := g.phase.resident

/-- Workgroups that hold resources of a core, with their records. -/
def State.holdersOf (s : State) (core : Nat) : List (Wg × LRec) :=
  s.groups.flatMap fun e =>
    if e.2.resident && e.2.pkg == core / 256 then
      match aget s.launches e.2.lid with
      | some l => (e.2.wgs.filter fun g => g.core == core).map fun g => (g, l.record)
      | none => []
    else []

/-- The lowest multiple of 256 at which `n` contiguous bytes are free (R236). -/
def freeRun (used : List (Nat × Nat)) (n : Nat) : Option Nat :=
  let ok (b : Nat) : Bool := b + n ≤ 2 ^ 20 && used.all fun u => u.2 == 0 || n == 0 || b + n ≤ u.1 || u.1 + u.2 ≤ b
  let cand := 0 :: used.map fun u => u.1 + u.2
  (cand.filter ok).foldl (fun a b => match a with | none => some b | some x => some (min x b)) none

/-- The place of one workgroup on a core (R272): scratchpad base and warp slots. -/
def State.fitsCore (s : State) (r : LRec) (core : Nat) : Option (Nat × List Nat) :=
  let hs := s.holdersOf core
  let used := (hs.map fun h => h.1.regs).foldl (· + ·) 0
  let slots := (List.range 32).filter fun i => !(hs.any fun h => h.1.slots.contains i)
  if used + r.alloc ≤ 2048 && r.warps ≤ slots.length && hs.length < 32 then
    (freeRun (hs.map fun h => (h.1.spad, h.2.spad)) r.spad).map fun b => (b, slots.take r.warps)
  else none

/-- Resident units of a quad, and the tile entries they hold. -/
def State.quadUnits (s : State) (pkg quad : Nat) : List Group :=
  (s.groups.filter fun e => e.2.pkg == pkg && e.2.quad == quad && e.2.resident).map Prod.snd

def State.tilesUsed (s : State) (pkg quad : Nat) : Nat :=
  ((s.quadUnits pkg quad).map fun g => g.tiles.length).foldl (· + ·) 0

/-- A workgroup fits on a core (R272). -/
def State.fitsAlone (s : State) (r : LRec) (core : Nat) : Option (Nat × List Nat) :=
  let q := core % 256 / 4
  let us := s.quadUnits (core / 256) q
  if r.tiles != 0 && (us.any (fun g => g.isQuad) || 64 < s.tilesUsed (core / 256) q + r.tiles) then none
  else s.fitsCore r core

/-- A quad group of `n` workgroups fits on a quad (R273). -/
def State.fitsQuad (s : State) (r : LRec) (pkg quad n : Nat) : Option (List (Nat × List Nat)) :=
  let us := s.quadUnits pkg quad
  if us.any (fun g => g.isQuad) || s.tilesUsed pkg quad != 0 then none
  else (List.range n).foldr (fun k acc =>
    match acc, s.fitsCore r (pkg * 256 + 4 * quad + k) with
    | some xs, some x => some (x :: xs)
    | _, _ => none) (some [])

/-! ### Start (R272, R273, R436) -/

def staged (r : LRec) : Bool := !(r.ranges.any fun x => x.2.2.1 == 3)

def mkWg (r : LRec) (index core : Nat) (p : Nat × List Nat) : Wg :=
  { index := index, core := core, spad := p.1, regs := r.alloc, slots := p.2, staged := staged r, ended := false,
    gifts := [], landed := 0, errs := [] }

def mkGroup (r : LRec) (lid pkg quad : Nat) (wgs : List Wg) : Group :=
  { lid := lid, pkg := pkg, quad := quad, isQuad := r.quad, wgs := wgs, phase := .staging, faulted := false,
    tiles := List.replicate (r.tiles * wgs.length) Tile.void, seq := none, cfg := MatCfg.init,
    rows := List.replicate 128 RowState.init, cores := List.replicate 4 MatCore.init, mops := [], grants := 0,
    grantReq := none, relaunches := 0, shopens := [], watch := [], due := false,
    victim := false, kept := [], out := [], seqSaved := false }

/-- UTRAPVEC of a launch (R436). -/
def LRec.trapVec (r : LRec) : Word := if r.utrap = 0 then 0 else r.wgentry + BitVec.ofNat 64 r.utrap

/-- The warps of one workgroup at an entry, in their slots. -/
def State.startWg (s : State) (gid wg : Nat) (g : Wg) (r : LRec) (pc : Word) (ctx : Ctx) : State :=
  (mapFrom 0 (fun i sl => (i, sl)) g.slots).foldl (fun s p =>
    let role := r.roleOf p.1
    s.setWarp (g.core * 64 + p.2) (freshWarp .user gid wg p.1 role g.core p.2 (r.budget role) 32 pc ctx)) s

/-- Key of the sequencer of a quad. -/
def seqKey (pkg quad : Nat) : Nat := (pkg * 256 + 4 * quad) * 64 + 40

def State.startSeq (s : State) (gid : Nat) (g : Group) (r : LRec) (ctx : Ctx) : State :=
  let core := g.pkg * 256 + 4 * g.quad
  (s.setWarp (core * 64 + 40) (freshWarp .seq gid 0 0 3 core 40 0 1 r.sqentry ctx)).modGroup gid fun g =>
    { g with seq := some (core * 64 + 40) }

/-- Every slice of the unit has landed: its warps start at WGENTRY and its sequencer at SQENTRY. A unit chosen for pre-emption
meanwhile is to receive PREEMPT (R277). -/
def State.startGroup (s : State) (gid : Nat) : State :=
  match aget s.groups gid with
  | none => s
  | some g =>
    match aget s.launches g.lid with
    | none => s
    | some l =>
      if g.phase == .staging && g.wgs.all fun w => w.staged then
        let ctx := s.loadCtx g.pkg l.record.asid l.record.trapVec
        let s := (s.readCtx g.pkg l.record.asid).modGroup gid fun g =>
          { g with phase := if g.victim then .stopping else .running, victim := false }
        let s := (mapFrom 0 (fun i w => (i, w)) g.wgs).foldl (fun s p => s.startWg gid p.1 p.2 l.record l.record.wgentry ctx) s
        if g.isQuad then s.startSeq gid g l.record ctx else s
      else s

/-- Victims of a package whose resources wait for a blocked launch (R277). -/
def Pkg.victimsFor (p : Pkg) (lid : Nat) : List Nat := (p.reserve.filter fun e => e.1 == lid).flatMap Prod.snd

/-- The resources of a package as one launch finds them, or a returning unit: what the victims of another launch have left is
that launch's until it has placed (R277). -/
def State.viewOf (s : State) (pkg : Nat) (lid : Option Nat) : State :=
  let vs := ((s.pkg pkg).reserve.filter fun e => some e.1 != lid).flatMap Prod.snd
  if vs.isEmpty then s
  else { s with groups := s.groups.map fun (e : Nat × Group) =>
      if vs.contains e.1 && (e.2.phase == .preempted || e.2.phase == .saved || e.2.phase == .killed) then (e.1, { e.2 with phase := .stopped }) else e }

/-- Some victim of a launch stood on a core. -/
def State.vacatedFor (s : State) (lid core : Nat) : Bool :=
  ((s.pkg (core / 256)).victimsFor lid).any fun gid => match aget s.groups gid with
    | some g => g.wgs.any fun w => w.core == core
    | none => false

/-- A due swap-in goes before any new workgroup on its cores (R258); what a pre-emption frees is the blocked launch's (R277). -/
def State.openTo (s : State) (lid core : Nat) : Bool :=
  s.vacatedFor lid core ||
    !(s.groups.any fun e => e.2.phase == .swapped && e.2.due && e.2.wgs.any fun w => w.core == core)

/-- A place for a launch's next workgroup, or its next `n`, on a core or quad that is open to it. -/
def State.placeOn (s : State) (lid : Nat) (r : LRec) (core : Nat) : Option (Nat × List Nat) :=
  if s.openTo lid core then (s.viewOf (core / 256) (some lid)).fitsAlone r core else none

def State.placeQuad (s : State) (lid : Nat) (r : LRec) (pkg quad n : Nat) : Option (List (Nat × List Nat)) :=
  if (List.range n).all fun k => s.openTo lid (pkg * 256 + 4 * quad + k) then (s.viewOf pkg (some lid)).fitsQuad r pkg quad n else none

/-- The next cyclic position for which a test answers. -/
def firstFrom {α : Type} (n last : Nat) (t : Nat → Option α) : Option (Nat × α) :=
  (List.range n).findSome? fun i => let c := (last + 1 + i) % n; (t c).map fun x => (c, x)

/-- Place the next unit of a launch: `none` when it fits nowhere (R272, R273). -/
def State.placeNext (s : State) (lid : Nat) : Option State :=
  match aget s.launches lid with
  | none => none
  | some l =>
    let r := l.record
    let k := s.pkg l.pkg
    let gid := s.nextId
    let add (s : State) (g : Group) (n : Nat) : State :=
      let s := { s with nextId := gid + 1, groups := aset s.groups gid g }
      let s := s.modLaunch lid fun l => { l with placed := l.placed + n }
      s.startGroup gid
    if r.quad then
      let n := min r.coop (r.total - l.placed)
      match firstFrom 64 k.lastQuad fun q => s.placeQuad lid r l.pkg q n with
      | none => none
      | some (q, ps) =>
        let wgs := mapFrom 0 (fun j p => mkWg r (l.placed + j) (l.pkg * 256 + 4 * q + j) p) ps
        let s := s.modPkg l.pkg fun k => { k with lastQuad := q }
        some (add s (mkGroup r lid l.pkg q wgs) n)
    else
      match firstFrom 256 k.lastCore fun c => s.placeOn lid r (l.pkg * 256 + c) with
      | none => none
      | some (c, p) =>
        let s := s.modPkg l.pkg fun k => { k with lastCore := c }
        some (add s (mkGroup r lid l.pkg (c / 4) [mkWg r l.placed (l.pkg * 256 + c) p]) 1)

/-- Place the whole grid or nothing (R274); the fuel bounds the units that a package can hold. -/
def State.placeAll (s : State) (lid : Nat) : Nat → Option State
  | 0 => none
  | n + 1 =>
    match aget s.launches lid with
    | none => none
    | some l => if l.record.total ≤ l.placed then some s else (s.placeNext lid).bind fun s => s.placeAll lid n

def State.placeLaunch (s : State) (lid : Nat) : Option State :=
  match aget s.launches lid with
  | none => none
  | some l => if l.record.cores then s.placeAll lid 8193 else s.placeNext lid

/-! ### Staging (R270, R271) -/

/-- The slice of a kind-3 entry for a workgroup: source address, length and scratchpad offset. -/
def LRec.slice (r : LRec) (index : Nat) (x : Nat × Nat × Nat × Nat) : Nat × Nat × Nat :=
  ((x.1 + index * r.sstride) % 2 ^ 64, x.2.1, x.2.2.2 * 256)

/-- What the copying of a slice comes to: its fault with the failing address, a set on a die in reset, which it waits for, or
the state with the bytes landed. -/
inductive Staged where
  | fault (f : Nat × Nat)
  | later
  | landed (s : State)

/-- Copy one slice. -/
def State.stageSlice (s : State) (who : Who) (g : Wg) (sl : Nat × Nat × Nat) : Staged :=
  let vas := vaRange sl.1 sl.2.1
  match s.transAll who Acc.load vas with
  | .inl f => .fault f
  | .inr ls =>
    if s.anyReset who ls then .later
    else
      let r := s.getBytes who ls 0 vas
      .landed (r.2.write (atAddrs (spadKey g.core (g.spad + sl.2.2)) r.1))

/-- The agent of a workgroup's staging. -/
def State.stageWho (s : State) (gid wg : Nat) (g : Wg) (l : Launch) (lid : Nat) : Who :=
  let ctx := s.loadCtx l.pkg l.record.asid 0
  { core := g.core, asid := ctx.asid, ptbase := ctx.ptbase, user := true, gid := gid, wg := wg, lid := lid, away := false,
    bkt := l.record.bucket, errq := ctx.errqbase, wgIndex := g.index, ch := 0, apf := false }

/-- Copy slices in order; how many landed, and what ended the copying before the last. -/
def State.stageSlices (who : Who) (g : Wg) : List (Nat × Nat × Nat) → State → Nat → State × Nat × Option Staged
  | [], s, n => (s, n, none)
  | x :: xs, s, n =>
    match s.stageSlice who g x with
    | .landed t => State.stageSlices who g xs t (n + 1)
    | r => (s, n, some r)

/-- Stage a workgroup: the slices that have not landed, in entry order, or a posting for the first that faults, which stops it
(R271). -/
def State.stageWg (s : State) (gid wg : Nat) : State :=
  match aget s.groups gid with
  | none => s
  | some gr =>
    match gr.wgs[wg]?, aget s.launches gr.lid with
    | some g, some l =>
      if gr.phase != .staging || g.staged || !g.errs.isEmpty then s
      else
        let who := s.stageWho gid wg g l gr.lid
        let slices := (l.record.ranges.filter fun x => x.2.2.1 == 3).map (l.record.slice g.index)
        let r := State.stageSlices who g (slices.drop g.landed) s g.landed
        let s := if r.2.1 = g.landed then r.1
          else r.1.modGroup gid fun gr => { gr with wgs := modAt gr.wgs wg fun g => { g with landed := r.2.1 } }
        match r.2.2 with
        | none =>
          (s.modGroup gid fun gr => { gr with wgs := modAt gr.wgs wg fun g => { g with staged := true } }).startGroup gid
        | some (.fault (code, va)) =>
          let s := s.loadsFaulted who [(code, va)]
          let h := s.nextHandle
          let s := { s with nextHandle := h + 1, postings := aset s.postings h { target := .staging gid wg, lanes := 1 } }
          let s := s.modGroup gid fun gr => { gr with wgs := modAt gr.wgs wg fun g => { g with errs := [h] } }
          s.enqueue (dieOf g.core)
            { handle := h, addr := BitVec.ofNat 64 va, pc := 0, ptbase := who.ptbase, lanes := 0, asid := who.asid,
              code := code, kind := 3 }
        | some _ => s
    | _, _ => s

/-! ### Ending a unit from outside (R439, R447, R448) -/

/-- Withdraw the arrivals of a unit at open barrier phases that are held elsewhere. -/
def State.withdraw (s : State) (gid : Nat) : State :=
  { s with phases := s.phases.map fun (e : Nat × BarPhase) => (e.1, { e.2 with away := e.2.away.filter fun a => a.1 != gid }) }

/-- Remove the warps, hoops, copies and postings of a unit. -/
def State.clearUnit (s : State) (gid : Nat) : State :=
  let s := { s with
    warps := s.warps.filter fun (e : Nat × Warp) => e.2.kind == WarpKind.service || e.2.gid != gid,
    cores := s.cores.map fun (e : Nat × Core) => (e.1, { e.2 with hoops := e.2.hoops.filter fun h => h.gid != gid }),
    copies := s.copies.filter fun e => e.2.gid != gid,
    publs := s.publs.filter fun e => !(e.2.who.user && e.2.who.gid == gid),
    ksums := s.ksums.filter fun e => !(e.2.who.user && e.2.who.gid == gid) }
  let keys := s.warps.map Prod.fst
  { (s.withdraw gid) with postings := s.postings.filter fun p => match p.2.target with
      | .warp k => keys.contains k
      | .seqOf g => g != gid
      | .staging g _ => g != gid
      | .stoppedGroup g => g != gid
      | _ => true }

/-- Close the shadows that the `shopen`s of a unit opened and no `publ` has flipped (R447): SOPEN and the sector mask are
cleared and the translations go; the live version is untouched. -/
def State.closeShadows (s : State) (die : Nat) (asid : BitVec 16) (ps : List (Nat × Nat)) : State :=
  ps.foldl (fun s p =>
    match s.walk die (BitVec.ofNat 64 p.1) p.2 with
    | .leaf key level lo hi =>
      let l := s.mkLeaf level lo hi
      if l.sopen then
        let s := s.entryWrite (pkgOfDie die) (key + 8) (leBytes 8 (hi &&& ~~~((1 : Word) <<< 59)).toNat)
        (s.modDir l.frame fun d => { d with mask := 0, opened := false }).tlbInvAddr (fun _ => true) (fun _ => true) asid p.2
      else s
    | .fail _ => s) s

/-- Kill a quad group (R447): everything of it stops, its shadows close, its resources go; it is placed again as
`relaunches` says (R448), or its workgroups end with FAULT. -/
def State.killGroup (s : State) (gid : Nat) (relaunches : Option Nat) : State :=
  match aget s.groups gid with
  | none => s
  | some g =>
    let asid := match aget s.launches g.lid with | some l => l.record.asid | none => 0
    let s := (s.clearUnit gid).closeShadows (g.pkg * 8 + g.quad / 8) asid g.shopens
    let s := s.modDie (g.pkg * 8 + g.quad / 8) fun d => { d with pmQueue := d.pmQueue.filter fun q => q.gid != gid }
    match relaunches with
    | some n =>
      (s.setGroup gid { g with phase := .killed, victim := false, seq := none, mops := [], grants := 0, grantReq := none, shopens := [],
                               relaunches := n, tiles := [] }).settleBars
    | none =>
      ((s.setGroup gid { g with phase := .running, faulted := true, seq := none, mops := [], grants := 0, grantReq := none,
                                shopens := [], wgs := g.wgs.map fun (w : Wg) => { w with ended := true } }).reapGroup gid).settleBars

/-- A blocked launch waits for what a unit, or another of its co-resident grid, frees (R277). -/
def State.spokenFor (s : State) (gid : Nat) (g : Group) : Bool :=
  let grid := match aget s.launches g.lid with | some l => l.record.cores | none => false
  (s.pkg g.pkg).reserve.any fun e => e.2.any fun v =>
    v == gid || (grid && match aget s.groups v with | some x => x.lid == g.lid | none => false)

/-- Place a killed quad group again (R448): a fresh start from WGENTRY with staging repeated. One that was a victim, or whose grid
leaves, waits until the blocked launch has placed (DESIGN CHOICE, log entry 112). -/
def State.relaunch (s : State) (gid : Nat) : Option State :=
  match aget s.groups gid with
  | none => none
  | some g =>
    match aget s.launches g.lid with
    | none => none
    | some l =>
      let r := l.record
      if g.phase != .killed || s.spokenFor gid g then none
      else
        match firstFrom 64 (s.pkg g.pkg).lastQuad fun q => s.placeQuad g.lid r g.pkg q g.wgs.length with
        | none => none
        | some (q, ps) =>
          let wgs := mapFrom 0 (fun j p =>
            mkWg r ((g.wgs.headD (mkWg r 0 0 (0, []))).index + j) (g.pkg * 256 + 4 * q + j) p) ps
          let s := s.modPkg g.pkg fun k => { k with lastQuad := q }
          some ((s.setGroup gid { mkGroup r g.lid g.pkg q wgs with relaunches := g.relaunches }).startGroup gid)

/-- A program-level fault that no user trap entry handles ends the workgroup, or its whole quad group (R437-R439): every
lane exits and its threads in hoops go; copies complete; the sequencer lets its matrix instructions complete, and a `pgrant`
of it is withdrawn. The record
that the die posts is made by the caller. -/
def State.faultEnd (s : State) (gid : Nat) : State :=
  match aget s.groups gid with
  | none => s
  | some g =>
    let s := { s with
      warps := s.warps.filter fun (e : Nat × Warp) => e.2.kind == WarpKind.service || e.2.gid != gid || (e.2.kind == WarpKind.seq && !g.mops.isEmpty),
      cores := s.cores.map fun (e : Nat × Core) => (e.1, { e.2 with hoops := e.2.hoops.filter fun h => h.gid != gid }) }
    let s := { s with warps := s.warps.map fun (e : Nat × Warp) =>
      if e.2.kind == WarpKind.seq && e.2.gid == gid then
        (e.1, { e.2.updLanes 1 (fun _ x => { x with st := .exited }) with
                flights := e.2.flights.filter fun f => g.mops.any fun m => m.id == f.id })
      else e }
    let s := s.modDie (g.pkg * 8 + g.quad / 8) fun d => { d with pmQueue := d.pmQueue.filter fun q => q.gid != gid || q.mop.isSome }
    let s := { (s.withdraw gid) with postings := s.postings.filter fun p => match p.2.target with
      | .warp k => (aget s.warps k).isSome
      | .seqOf x => x != gid
      | .staging x _ => x != gid
      | .stoppedGroup x => x != gid
      | _ => true }
    let g2 : Group :=
      { g with faulted := true, phase := .running, grantReq := none, seq := if g.mops.isEmpty then none else g.seq,
               wgs := g.wgs.map fun (w : Wg) => { w with ended := true } }
    let s := s.setGroup gid g2
    (s.reapGroup gid).settleBars

end Sys2Proof.Machine
end

