-- ==== Sys2Proof/Machine/Links.lean ====
section
/-! DEFINITION. Die-to-die links (R376-R388), HBM channels (R389-R393) and the pod fabric (R398-R401). -/
namespace Sys2Proof.Machine

/-! ### Registers -/

/-- LNKSTAT (R380). -/
def Link.stat (l : Link) : Word :=
  BitVec.ofNat 64 (l.down.toNat * 2 ^ 63 + l.training.toNat * 2 ^ 62 + l.att * 2 ^ 16 +
    (if l.down then 0 else l.runRate * 2 ^ 12 + l.width * 2 ^ 8 + l.gmap.toNat))

/-- LNKCTL (R378); RETRAIN reads zero. -/
def Link.ctl (l : Link) : Word :=
  BitVec.ofNat 64 (l.rethr.toNat * 2 ^ 32 + l.fbthr.toNat * 2 ^ 20 + l.rate.toNat * 2 ^ 12 + l.autofb.toNat)

/-- An item of `lnkq` (R223). -/
def Link.item (l : Link) (k : Nat) : Word :=
  match k with
  | 0 => l.stat
  | 1 => l.crc
  | 2 => l.replayCount
  | _ => BitVec.ofNat 64 (bitsN l.retired.toNat (64 * (k - 3)) 64)

def satInc (x : Word) : Word := if x == BitVec.allOnes 64 then x else x + 1

/-! ### Retraining (R384-R386) -/

/-- Start a retraining at a rate; one under way goes on. -/
def Link.startTraining (l : Link) (rate : Nat) : Link :=
  if l.training then l else { l with training := true, att := 0, tryRate := rate, fromRate := rate }

/-- The lane groups without a retired lane (R382). -/
def Link.sidemap (l : Link) : Nat :=
  ((List.range 8).filter fun g => bitsN l.retired.toNat (32 * g) 32 == 0).foldl (fun a g => a + 2 ^ g) 0

/-- After a commit an end with unacknowledged flits replays from the oldest, which counts once; a NAK under way is moot
(R384). -/
def LinkEnd.restart (e : LinkEnd) : LinkEnd :=
  match e.buf with
  | [] => { e with replayFrom := none, nak := none, fall := false }
  | f :: _ => { e with replayFrom := some f.seq, replayAt := f.seq, nak := none, replays := e.replays + 1, fall := false }

/-- A running replay goes on at the oldest flit of the buffer from a number on, and is over where none is left. -/
def LinkEnd.replayNext (e : LinkEnd) (q : BitVec 12) : LinkEnd :=
  if e.replayFrom.isNone then e
  else match e.buf.find? fun x => (x.seq - q).toNat < 2048 with
    | some x => { e with replayAt := x.seq }
    | none => { e with replayFrom := none }

def Link.restarts (l : Link) : Nat := (!l.endA.buf.isEmpty).toNat + (!l.endB.buf.isEmpty).toNat

/-! ### Routes and rerouting (R387, R388) -/

/-- The dies at the two ends of a link of a package: CDn and CD(n + 1) of a ring link, CDi and the switch die, here 8, of a
hub link. -/
def linkDies (n : Nat) : Nat × Nat := if n < 8 then (n, (n + 1) % 8) else (n - 8, 8)

/-- The link by which traffic leaves a die for another. -/
def State.firstHop (s : State) (pkg i j : Nat) : Option Nat :=
  if i = j then none
  else if i = 8 then (s.hubRoute pkg j).bind List.getLast?
  else if j = 8 then (s.hubRoute pkg i).bind List.head?
  else (s.dieRoute pkg i j).bind List.head?

/-- The receiver passes the numbers of flits that it has had over another route. -/
def LinkEnd.skipEarly : Nat → LinkEnd → LinkEnd
  | 0, e => e
  | n + 1, e =>
    if e.early.contains e.expect then
      LinkEnd.skipEarly n { e with early := e.early.filter (· != e.expect), expect := e.expect + 1, discarding := false }
    else e

/-- The flits of a replay buffer whose route has moved away leave it and take the new route, in order; the far end discards
those that it has delivered already, by their tags. -/
def LinkEnd.reroute (moved : Nat → Bool) (src dst : LinkEnd) : LinkEnd × LinkEnd :=
  let gone := src.buf.filter fun f => moved f.dst.toNat
  let fresh := gone.filter fun f => (f.seq - dst.expect).toNat < 2048 && !dst.early.contains f.seq
  let d : LinkEnd := { dst with out := dst.out ++ fresh, early := dst.early ++ fresh.map Flit.seq }
  ({ src with buf := src.buf.filter fun f => !moved f.dst.toNat }.replayNext src.replayAt, d.skipEarly (d.early.length + 1))

/-- A link of a package has gone down or come back: routes are chosen again. Flits with no route stay in their buffers. -/
def State.rerouteLinks (s : State) (pkg : Nat) : State :=
  (List.range 16).foldl (fun s n =>
    let l := s.link (linkKey pkg n)
    let moved (i : Nat) (j : Nat) : Bool := match s.firstHop pkg i j with | some m => m != n | none => false
    let ab := l.endA.reroute (moved (linkDies n).1) l.endB
    let ba := ab.2.reroute (moved (linkDies n).2) ab.1
    let l1 : Link := { l with endA := ba.2, endB := ba.1 }
    if l1 = l then s else s.setLink (linkKey pkg n) l1) s

/-! ### Degradation and training -/

/-- The die whose ring takes a link's record, and the replacement when it cannot be reached (R386). -/
def State.lnkRing (s : State) (pkg n : Nat) : Nat :=
  let d := if n < 7 then n else if n = 7 then 0 else n - 8
  if s.routeSD pkg d then pkg * 8 + d else if d = 0 then pkg * 8 + 1 else pkg * 8

/-- A LNKDEG record for a link. -/
def State.postLink (s : State) (k cause : Nat) : State :=
  let l := s.link k
  let a := if l.down then 0 else l.gmap.toNat * 2 ^ 24 + l.runRate * 2 ^ 20 + l.width * 2 ^ 16
  s.postEvent (s.lnkRing (k / 16) (k % 16)) 0x21 (BitVec.ofNat 64 (a + cause * 256 + k % 16)) 0 0

/-- TRAINING_ATTEMPT (R384): `pass` is the outcome of the pattern test. -/
def State.trainingAttempt (s : State) (k : Nat) (pass : Bool) : State :=
  let l := s.link k
  if !l.training then s
  else
    let map := l.sidemap
    if map != 0 && pass then
      let w := popN 8 map
      let l1 : Link := { l with gmap := BitVec.ofNat 8 map, width := w, runRate := l.tryRate, training := false, down := false,
                                replayCount := (List.range l.restarts).foldl (fun x _ => satInc x) l.replayCount,
                                endA := l.endA.restart, endB := l.endB.restart }
      let s := s.setLink k l1
      if l.down then s.rerouteLinks (k / 16)
      else if w < l.width then s.postLink k 0
      else if l.tryRate < l.runRate then s.postLink k 1
      else s
    else if l.att + 1 < 3 then s.setLink k { l with att := l.att + 1, tryRate := l.tryRate - 1 }
    else
      let l1 : Link := { l with att := 3, training := false, down := true, width := 0, gmap := 0, runRate := 0 }
      let s := s.setLink k l1
      if l.down then s else (s.rerouteLinks (k / 16)).postLink k 2

/-- A write of LNKCTL (R378). -/
def State.writeLnkctl (s : State) (k : Nat) (val : Word) : State :=
  let r := wbits val 12 4
  s.modLink k fun l =>
    let l : Link := { l with rethr := BitVec.ofNat 16 (wbits val 32 16), fbthr := BitVec.ofNat 4 (wbits val 20 4),
                             rate := if r ≤ 4 then BitVec.ofNat 4 r else l.rate, autofb := val.getLsbD 0 }
    if val.getLsbD 8 then l.startTraining l.rate.toNat else l

/-! ### CRC-32C (R184, R377) -/

/-- One bit of the reflected CRC-32C. -/
def crcBit (c : Nat) : Nat := if c % 2 = 1 then Nat.xor (c / 2) 0x82F63B78 else c / 2

def crcByte (c : Nat) (b : Byte) : Nat :=
  crcBit (crcBit (crcBit (crcBit (crcBit (crcBit (crcBit (crcBit (Nat.xor c b.toNat))))))))

/-- CRC-32C (R184). -/
def crc32c (bs : List Byte) : Nat := Nat.xor (bs.foldl crcByte 0xFFFFFFFF) 0xFFFFFFFF

/-! ### Flits (R377, R381-R383) -/

/-- The 252 bytes of a flit before its CRC. The rule gives the fields and not their places: the numbers and the type stand
first, the payload behind them (DESIGN CHOICE, log entry 85). -/
def flitBody (f : Flit) : List Byte :=
  leBytes 4 (f.seq.toNat + f.ack.toNat * 2 ^ 12 + f.kind.toNat * 2 ^ 24 + f.dst.toNat * 2 ^ 28)
    ++ (f.payload ++ List.replicate (248 - f.payload.length) 0).take 248

/-- The 256 bytes of a flit. -/
def flitWire (f : Flit) : List Byte := flitBody f ++ leBytes 4 (crc32c (flitBody f))

def parseFlit (bs : List Byte) : Flit :=
  let x := leNat (bs.take 4)
  { seq := BitVec.ofNat 12 x, ack := BitVec.ofNat 12 (x / 2 ^ 12), kind := BitVec.ofNat 4 (x / 2 ^ 24),
    dst := BitVec.ofNat 4 (x / 2 ^ 28), payload := (bs.drop 4).take 248 }

/-- The bytes that arrive when some of those sent are disturbed: position, and the bits that turn. -/
def noisy (noise : List (Nat × Byte)) (bs : List Byte) : List Byte :=
  mapFrom 0 (fun i b => (noise.filter fun e => e.1 == i).foldl (fun x e => x ^^^ e.2) b) bs

/-- A received flit passes its CRC. -/
def crcOk (bs : List Byte) : Bool := crc32c (bs.take 252) == leNat (bs.drop 252)

/-- Flits that an acknowledgement covers leave the replay buffer; a running replay goes on with what is left of it. -/
def LinkEnd.acked (e : LinkEnd) (ack : BitVec 12) : LinkEnd :=
  { e with buf := e.buf.filter fun f => 2048 ≤ (ack - f.seq).toNat }.replayNext e.replayAt

/-- Whether an end may send a flit: while a replay runs, the flit that it has come to (R381); otherwise the next new one, of 248
payload bytes, while fewer than 512 are unacknowledged; with the acknowledgement of a flit that it has received in order. -/
def LinkEnd.sends (e : LinkEnd) (f : Flit) : Bool :=
  decide ((e.expect - 1 - f.ack).toNat ≤ 512) &&
    (if e.replayFrom.isSome then f.seq == e.replayAt && e.buf.any fun x => { x with ack := f.ack } == f
     else f.seq == e.nextSeq && f.payload.length == 248 && decide (e.buf.length < 512))

/-- The end has sent the flit: a running replay moves on, and a new flit enters the replay buffer. -/
def LinkEnd.sent (e : LinkEnd) (f : Flit) : LinkEnd :=
  if e.replayFrom.isSome then e.replayNext (f.seq + 1) else { e with nextSeq := e.nextSeq + 1, buf := e.buf ++ [f] }

/-- Window counts at a receiving end, the lanes whose errors reach RETHR in the window (R382), one error for a lane and a flit, and
whether its replays have reached 2^FBTHR in it where that starts a fallback (R383). -/
def LinkEnd.count (e : LinkEnd) (rethr fbthr : Nat) (falls : Bool) (lanes : List Nat) : LinkEnd :=
  let bad := lanes.eraseDups
  let par := bad.foldl (fun m k => aset m k ((aget m k).getD 0 + 1)) e.par
  let due := (bad.filter fun k => rethr != 0 && decide (rethr ≤ (aget par k).getD 0)).eraseDups.filter fun k => !e.due.contains k
  let e : LinkEnd := { e with win := e.win + 1, par := par, due := e.due ++ due }
  if 2 ^ 20 ≤ e.win then
    { e with win := 0, par := [], replays := 0, fall := e.fall || (falls && decide (2 ^ fbthr ≤ e.replays)) }
  else e

/-- The bytes of a flit reach an end. It accepts the expected flit that passes its CRC and discards every other one. The first
discard sends a NAK; so does a later one once that NAK has come and its replay is over (log entry 86). -/
def LinkEnd.receive (dst : LinkEnd) (bs : List Byte) (replaying : Bool) : LinkEnd :=
  let f := parseFlit bs
  if crcOk bs && f.seq == dst.expect then
    let d : LinkEnd := { dst.acked f.ack with expect := dst.expect + 1, discarding := false, out := dst.out ++ [f] }
    d.skipEarly (d.early.length + 1)
  else
    { dst with discarding := true,
               nak := if !dst.discarding || (dst.nak.isNone && !replaying) then some dst.expect else dst.nak }

/-- FLIT_RECEIVE: a flit that one end sends reaches the other. -/
def receiveFlit (src dst : LinkEnd) (l : Link) (f : Flit) (noise : List (Nat × Byte)) (bad : List Nat) : LinkEnd × LinkEnd :=
  let src := src.sent f
  (src, (dst.count l.rethr.toNat l.fbthr.toNat (l.autofb && l.runRate != 0) bad).receive (noisy noise (flitWire f)) src.replayFrom.isSome)

/-- The end of a link of a package carries a die's traffic to the destination of a flit (R387, R388). -/
def State.carries (s : State) (k : Nat) (atB : Bool) (f : Flit) : Bool :=
  let ds := linkDies (k % 16)
  decide (f.dst.toNat ≤ 8) && s.firstHop (k / 16) (if atB then ds.1 else ds.2) f.dst.toNat == some (k % 16)

def State.flitReceive (s : State) (k : Nat) (atB : Bool) (f : Flit) (noise : List (Nat × Byte)) (bad : List Nat) : State :=
  let l := s.link k
  if l.down || l.training || !s.carries k atB f || !(if atB then l.endA.sends f else l.endB.sends f) then s
  else
    let l : Link := { l with crc := if crcOk (noisy noise (flitWire f)) then l.crc else satInc l.crc }
    if atB then
      let r := receiveFlit l.endA l.endB l f noise bad
      s.setLink k { l with endA := r.1, endB := r.2 }
    else
      let r := receiveFlit l.endB l.endA l f noise bad
      s.setLink k { l with endB := r.1, endA := r.2 }

/-- NAK: the NAK that the other end has sent arrives. The end replays from the flit that it names, unless it is replaying from
it already. -/
def LinkEnd.takeNak (e : LinkEnd) (q : BitVec 12) : Bool × LinkEnd :=
  if e.replayFrom == some q || !(e.buf.any fun f => f.seq == q) then (false, e)
  else (true, { e with replayFrom := some q, replayAt := q, replays := e.replays + 1 })

def State.receiveNak (s : State) (k : Nat) (atB : Bool) (q : BitVec 12) : State :=
  let l := s.link k
  let from_ := if atB then l.endA else l.endB
  if l.down || l.training || from_.nak != some q then s
  else
    let r := (if atB then l.endB else l.endA).takeNak q
    let peer : LinkEnd := { from_ with nak := none }
    s.setLink k { l with replayCount := if r.1 then satInc l.replayCount else l.replayCount,
                         endA := if atB then peer else r.2, endB := if atB then r.2 else peer }

/-- LANE_RETIRE (R382): the lane's parity errors of a window have reached RETHR. It is retired and the link retrains; one that
is down stays down (R385). -/
def State.retireLane (s : State) (k lane : Nat) : State :=
  let l := s.link k
  let due (e : LinkEnd) : Bool := e.due.contains lane || decide (l.rethr.toNat ≤ (aget e.par lane).getD 0)
  let clear (e : LinkEnd) : LinkEnd := { e with due := e.due.filter (· != lane) }
  if lane < 256 && (l.rethr != 0 || l.endA.due.contains lane || l.endB.due.contains lane) && (due l.endA || due l.endB)
      && !l.retired.getLsbD lane then
    let l : Link := { l with retired := setBit256 l.retired lane, endA := clear l.endA, endB := clear l.endB }
    s.setLink k (if l.down then l else l.startTraining l.rate.toNat)
  else s

/-- The next lane of a link that is due for retirement. -/
def Link.dueLane (l : Link) : Option Nat := (l.endA.due ++ l.endB.due).find? fun k => k < 256 && !l.retired.getLsbD k

/-- An end has counted 2^FBTHR replays within a window, the running one or one that has ended (R383). -/
def Link.fallsBack (l : Link) (e : LinkEnd) : Bool := e.fall || decide (2 ^ l.fbthr.toNat ≤ e.replays)

/-- RATE_FALLBACK (R383). The replays that have started a fallback are counted off: another fallback takes as many again. -/
def State.rateFallback (s : State) (k : Nat) : State :=
  let l := s.link k
  if l.autofb && !l.down && !l.training && l.runRate != 0
      && (l.fallsBack l.endA || l.fallsBack l.endB) then
    s.setLink k ({ l with endA := { l.endA with replays := 0, fall := false }, endB := { l.endB with replays := 0, fall := false } }.startTraining
      (l.runRate - 1))
  else s

/-! ### HBM channels (R389-R393) -/

def State.modHbm (s : State) (die stk : Nat) (g : Hbm → Hbm) : State := s.modDie die fun d => { d with hbm := modAt d.hbm stk g }

def State.hbm (s : State) (die stk : Nat) : Hbm := (s.die die).hbm.getD stk Hbm.reset

/-- HBM_TEMPERATURE (R390): the stack's sensor, or a faulty data lane of a channel. -/
def State.hbmReading (s : State) (die stk : Nat) (celsius : Int) (laneFault : Option Nat) : State :=
  s.modHbm die stk fun h =>
    { h with hot := if 95 ≤ celsius then true else if celsius < 85 then false else h.hot,
             lflt := match laneFault with | some c => if c < 32 then h.lflt ||| ((1 : BitVec 32) <<< c) else h.lflt | none => h.lflt }

/-- HBM_WIDTH_CHANGE (R389, R390, R393): a channel takes the width that heat and lane faults call for. -/
def State.hbmWidth (s : State) (die stk chan : Nat) : State :=
  let h := s.hbm die stk
  let half := h.hot || h.lflt.getLsbD chan
  if 2 ≤ stk || 32 ≤ chan || half == h.half.getLsbD chan then s
  else
    let bit : BitVec 32 := (1 : BitVec 32) <<< chan
    let s := s.modHbm die stk fun h => { h with half := h.half ^^^ bit, ncnt := satInc h.ncnt }
    let ring := if s.routeSD (die / 8) (die % 8) then die else if die % 8 = 0 then die + 1 else die / 8 * 8
    s.postEvent ring 0x21
      (BitVec.ofNat 64 ((if half then 1 else 2) * 2 ^ 16 + chan * 2 ^ 10 + 3 * 256 + stk * 16)) 0 0

/-! ### The pod fabric (R398-R401) -/

def State.port (s : State) (pkg p : Nat) : FPort := (s.pkg pkg).ports.getD p FPort.reset

def FPort.stat (p : FPort) : Word := BitVec.ofNat 64 (p.up.toNat * 2 ^ 63 + p.resend.toNat)

/-- Deliver what the reorder buffer holds in sequence. -/
def deliverHeld : Nat → Nat → Nat → List Packet → List Packet → Nat × List Packet × List Packet
  | 0, _, next, held, out => (next, held, out)
  | n + 1, src, next, held, out =>
    match held.find? fun p => p.src == src && p.seq == next with
    | some p => deliverHeld n src (next + 1) (held.filter fun q => !(q.src == src && q.seq == next)) (out ++ [p])
    | none => (next, held, out)

/-- Kinds of R399: responses and returned data are unordered. -/
def isOrdered : PacketKind → Bool
  | .response => false
  | .data => false
  | _ => true

/-- A packet's place among those of its source: its destination, its kind's class and its number. -/
def samePacket (p q : Packet) : Bool := p.dst == q.dst && isOrdered p.kind == isOrdered q.kind && p.seq == q.seq

/-- The up port with the fewest bytes queued (R398), a free choice among several; `none` while no port is up. -/
def State.pickPort (s : State) (pkg : Nat) : Option Nat × State :=
  let ups := (List.range 16).filter fun i => (s.port pkg i).up
  let low := ups.foldl (fun a i => min a (s.port pkg i).queued) (2 ^ 64)
  let cs := ups.filter fun i => (s.port pkg i).queued == low
  let c := s.pick cs.length
  (cs[c.1]?, c.2)

def Pkg.modPort (p : Pkg) (i : Nat) (g : FPort → FPort) : Pkg := { p with ports := modAt p.ports i g }

/-- A copy of a packet leaves its port's queue. -/
def Pkg.unqueue (k : Pkg) (p : Packet) : Pkg :=
  match k.sent.find? fun x => samePacket x.pkt p && x.queued with
  | none => k
  | some x =>
    ({ k with sent := k.sent.map fun (y : Sent) => if samePacket y.pkt p then { y with queued := false } else y }).modPort x.port fun q =>
      { q with queued := q.queued - p.bytes }

/-- The source sends a new packet: an ordered one takes the next number for its destination (R399). -/
def State.fabricSend (s : State) (p : Packet) : State :=
  match s.pickPort p.src with
  | (none, _) => s
  | (some i, s) => s.modPkg p.src fun k =>
      ({ k with sent := k.sent ++ [{ pkt := p, port := i, queued := true, resends := 0 }],
                txNext := if isOrdered p.kind then aset k.txNext p.dst (p.seq + 1) else k.txNext } : Pkg).modPort i fun q =>
        { q with queued := q.queued + p.bytes }

/-- A packet that its source has not sent yet, and may send. -/
def State.mayFabricSend (s : State) (p : Packet) : Bool :=
  !((s.pkg p.src).sent.any fun x => samePacket x.pkt p) &&
    (if isOrdered p.kind then p.seq == (aget (s.pkg p.src).txNext p.dst).getD 0 else !(s.pkg p.dst).rxOut.contains p)

/-- The receiver acknowledges a packet: the source forgets it, and the failure of an earlier one for the same line. -/
def State.fabricAck (s : State) (p : Packet) : State :=
  s.modPkg p.src fun q => { q with sent := q.sent.filter fun x => !samePacket x.pkt p, failed := q.failed.filter (· != (p.dst, p.addr / 256)) }

/-- FABRIC_PACKET_RECEIVE (R399, R276): a packet that its source sends reaches a port of the receiver. One with a CRC error is
dropped there. It is delivered, held in the 4 MiB reorder buffer, discarded as a duplicate, or refused when the buffer is
full. What is taken is acknowledged; its sectors are charged to their bucket. -/
def State.packetReceive (s : State) (pkg : Nat) (p : Packet) (intact : Bool) (bucket : Option Nat) : State :=
  if p.dst != pkg then s
  else
    let s := if s.mayFabricSend p then s.fabricSend p else s
    if !((s.pkg p.src).sent.any fun x => x.pkt == p) then s
    else
      let s := s.modPkg p.src fun k => k.unqueue p
      let k := s.pkg pkg
      let next := (aget k.rxNext p.src).getD 0
      let heldBytes := (k.rxHeld.map Packet.bytes).foldl (· + ·) 0
      let take (s : State) : State :=
        let s := s.fabricAck p
        match bucket with | some b => s.charge pkg b ((p.bytes + 31) / 32) | none => s
      if !intact then s
      else if !isOrdered p.kind then take (s.modPkg pkg fun k => { k with rxOut := k.rxOut ++ [p] })
      else if p.seq < next || k.rxHeld.any fun q => q.src == p.src && q.seq == p.seq then s.fabricAck p
      else if p.seq == next then
        let r := deliverHeld (k.rxHeld.length + 1) p.src (next + 1) k.rxHeld (k.rxOut ++ [p])
        take (s.modPkg pkg fun k => { k with rxNext := aset k.rxNext p.src r.1, rxHeld := r.2.1, rxOut := r.2.2 })
      else if heldBytes + p.bytes ≤ 4 * 2 ^ 20 then take (s.modPkg pkg fun k => { k with rxHeld := k.rxHeld ++ [p] })
      else s

/-- A packet has failed (R400): a store or write-back is reported; the load whose packet it was faults, which is the next load of its
line that the destination serves (log entry 87). -/
def State.packetFails (s : State) (pkg : Nat) (p : Packet) : State :=
  let s := s.modPkg pkg fun k => { k.unqueue p with sent := (k.unqueue p).sent.filter fun x => !samePacket x.pkt p }
  match p.kind with
  | .store | .writeBack =>
    s.report pkg
      { asid := p.asid, addr := p.addr, peer := p.dst, cause := RLOAD, src := 0, wg := p.wg }
  | .request | .atomic => s.modPkg pkg fun k => { k with failed := (p.dst, p.addr / 256) :: k.failed.filter (· != (p.dst, p.addr / 256)) }
  | _ => s

/-- FABRIC_RESEND (R400): a packet that has not been acknowledged is sent again, counted in FPSTAT of the port that carried it,
or declared failed after 8 resends. -/
def State.packetResend (s : State) (pkg dst : Nat) (kind : PacketKind) (seq : Nat) : State :=
  match (s.pkg pkg).sent.find? fun x => x.pkt.dst == dst && x.pkt.kind == kind && x.pkt.seq == seq with
  | none => s
  | some x =>
    if 8 ≤ x.resends then s.packetFails pkg x.pkt
    else
      match (s.modPkg pkg fun k => k.unqueue x.pkt).pickPort pkg with
      | (none, _) => s
      | (some i, s) =>
        let y : Sent := { pkt := x.pkt, port := i, queued := true, resends := x.resends + 1 }
        let s := s.occurs (pkg * 256) 2 0x0C
        s.modPkg pkg fun k =>
          (({ k with sent := (k.sent.filter fun (z : Sent) => !samePacket z.pkt x.pkt) ++ [y] } : Pkg).modPort x.port fun q =>
            { q with resend := if q.resend == BitVec.allOnes 32 then q.resend else q.resend + 1 }).modPort i fun q =>
              { q with queued := q.queued + x.pkt.bytes }

/-- FABRIC_PORT_LINK_CHANGE (R401). -/
def State.portChange (s : State) (pkg port : Nat) (up : Bool) : State :=
  s.modPkg pkg fun k => { k with ports := modAt k.ports port fun p => { p with up := up } }

end Sys2Proof.Machine
end

