-- ==== Sys2Proof/Machine/Power.lean ====
section
/-! DEFINITION. The power managers (R278, R457-R459). -/
namespace Sys2Proof.Machine

/-- Watts that PWRCTL allows a die (R457). -/
def effectiveE (pwrctl : Word) : Nat :=
  let d := wbits pwrctl 32 16
  let m := min (wbits pwrctl 16 16) 4000
  max 1 (min (if d = 0 then 1 else min d 330) ((m - 760) / 8))

/-- Units of the running window (R458). -/
def Die.window (d : Die) : Nat := 400 * d.pmE

/-- The fields of a PWRCTL value that are kept. -/
def pwrctlMask (v : Word) : Word := v &&& 0x0000FFFFFFFF0000

/-- A result without a register has come: a switch marker that waits for it ends with the last one. -/
def State.flightDone (s : State) (key id : Nat) : State :=
  s.modWarp key fun w =>
    let w := { w with flights := w.flights.filter fun f => f.id != id }
    if w.swPark && w.flights.isEmpty then w.ordered else w

/-- Give a request its grants (R219, R278): the instruction may start, or the `pgrant` completes. -/
def State.giveGrant (s : State) (r : GrantReq) : State :=
  match r.mop with
  | some id => s.modGroup r.gid fun g => { g with mops := g.mops.map fun m => if m.id == id then { m with granted := true } else m }
  | none =>
    match aget s.groups r.gid with
    | none => s
    | some g =>
      let s := s.setGroup r.gid { g with grants := min (g.grants + r.n) 65535, grantReq := none }
      match g.seq, g.grantReq with
      | some k, some id => (s.flightDone k id).settle k
      | _, _ => s

/-- Grant requests from the head of the queue while the window has units; at the start of a window one that exceeds a whole
window is granted too (R458). -/
def State.serveGrants (s : State) (die : Nat) (start : Bool) : Nat → State
  | 0 => s
  | n + 1 =>
    let d := s.die die
    match d.pmQueue with
    | [] => s
    | r :: rest =>
      if d.pmCharged + r.units ≤ d.window || (start && d.pmCharged = 0) then
        ((s.modDie die fun d => { d with pmQueue := rest, pmCharged := d.pmCharged + r.units }).giveGrant r).serveGrants die start n
      else s

/-- Queue a request in descending priority and arrival order, and serve the queue (R278). -/
def State.requestGrant (s : State) (die : Nat) (r : GrantReq) : State :=
  let s := s.modDie die fun d =>
    { d with pmQueue := d.pmQueue.filter (fun q => r.prio ≤ q.prio) ++ r :: d.pmQueue.filter fun q => q.prio < r.prio }
  s.serveGrants die false ((s.die die).pmQueue.length)

/-- A PWR record (R459). -/
def State.postPwr (s : State) (die cause : Nat) : State :=
  s.postEvent die 0x25 (BitVec.ofNat 64 (die % 8 + cause * 256)) 0 0

/-- POWER_WINDOW (R458, R459): PWRCTL and a throttle take effect, the charges are cleared, queued requests are granted. -/
def State.powerWindow (s : State) (die : Nat) : State :=
  let e := effectiveE (s.pkg (pkgOfDie die)).pwrctl
  let s := s.modDie die fun d => { d with pmE := if d.pmHot then max 1 (e / 2) else e, pmCharged := 0 }
  s.serveGrants die true ((s.die die).pmQueue.length)

/-- THERMAL_THROTTLE (R459): the sensor's reading. -/
def State.throttle (s : State) (die : Nat) (celsius : Int) : State :=
  let d := s.die die
  if !d.pmHot && decide (105 ≤ celsius) then (s.modDie die fun d => { d with pmHot := true }).postPwr die 0
  else if d.pmHot && decide (celsius < 95) then (s.modDie die fun d => { d with pmHot := false }).postPwr die 1
  else s

/-- A write of PWRCTL (R457): every die whose E it changes reports it. -/
def State.writePwrctl (s : State) (pkg : Nat) (val : Word) : State :=
  let old := effectiveE (s.pkg pkg).pwrctl
  let s := s.modPkg pkg fun p => { p with pwrctl := pwrctlMask val }
  if effectiveE val = old then s else (List.range 8).foldl (fun s d => s.postPwr (pkg * 8 + d) 2) s

end Sys2Proof.Machine
end

