-- ==== Sys2Proof/Machine/Security.lean ====
section
/-! DEFINITION. Alarms (R460, R461), attestation (R463-R465) and event counters (R466, R467). -/
namespace Sys2Proof.Machine

/-- The level of a source in an ALARMCFG value, sources in the order VOLT, CLK, TEMP, MESH. -/
def alarmLevel (cfg : Word) (src : Nat) : Nat := wbits cfg (2 * src) 2

/-- A write of ALARMCFG (R460): with LOCK set before, a field that the write would lower keeps its value. -/
def State.writeAlarmcfg (s : State) (pkg : Nat) (val : Word) : State :=
  s.modPkg pkg fun p =>
    let old := p.alarmcfg
    let lock := old.getLsbD 63
    let lvl (i : Nat) : Nat := if lock then max (alarmLevel old i) (alarmLevel val i) else alarmLevel val i
    { p with alarmcfg := BitVec.ofNat 64 ((lock || val.getLsbD 63).toNat * 2 ^ 63 + lvl 0 + lvl 1 * 4 + lvl 2 * 16 + lvl 3 * 64) }

/-- ALARM (R461): the highest level of the sources that trip is applied, and each source posts a record. -/
def State.alarm (s : State) (pkg : Nat) (sources : BitVec 4) : State :=
  let srcs := (List.range 4).filter fun i => sources.getLsbD i
  let lvl := srcs.foldl (fun a i => max a (alarmLevel (s.pkg pkg).alarmcfg i)) 0
  let s := s.modPkg pkg fun p =>
    { p with dbglk := p.dbglk || 1 ≤ lvl, sessionKeys := p.sessionKeys && lvl < 2, allKeys := p.allKeys && lvl < 3,
             locked := p.locked || 3 ≤ lvl }
  srcs.foldl (fun s i => s.postEvent (pkg * 8) 0x23 (BitVec.ofNat 64 (i + lvl * 256)) 0 0) s

/-- SECSTAT (R464). -/
def Pkg.secstat (p : Pkg) : Word :=
  BitVec.ofNat 64 (p.locked.toNat * 2 ^ 63 + p.dbglk.toNat * 2 ^ 62 + p.attBusy.toNat * 2 ^ 61 + p.attErr * 2 ^ 48 + p.index)

/-- The 136-byte message of an attestation (R465). -/
def Pkg.attMessage (p : Pkg) : List Byte :=
  p.nonce ++ ((List.range 3).flatMap fun k => (List.range 32).map fun i => Config.firmwareDigest k i) ++ leBytes 8 p.secstat.toNat

/-- The XMSS signature by a device of a message at a one-time index (R462): the index in four bytes, most significant first, as
RFC 8391 lays a signature out (PRESUMED, log entry 114), and the bytes that only the device's key gives. -/
def xmssSign (pkg i : Nat) (msg : List Byte) : List Byte :=
  (leBytes 4 i).reverse ++ (List.range 2816).map fun k => Config.xmssByte pkg i (4 + k) msg

/-- ATTCMD (R463, R465): the index is taken and advanced before the signature is made; a refusal leaves only ERR. The steps
from BUSY set to BUSY clear are one step here, and SECSTAT is read with BUSY set. -/
def State.attest (s : State) (pkg : Nat) : State :=
  let p := s.pkg pkg
  if p.attBusy then s
  else if p.locked then s.setPkg pkg { p with attErr := 1 }
  else if 2 ^ 20 ≤ p.index then s.setPkg pkg { p with attErr := 2 }
  else
    let msg := { p with attBusy := true }.attMessage
    s.setPkg pkg { p with index := p.index + 1, attErr := 0, attOut := msg ++ xmssSign pkg p.index msg }

/-! ### Event counters -/

/-- Levels of counters: 0 core, 1 die, 2 switch die (R222, R466). -/
def cntLevel (i : Nat) : Nat := if i < 8 then 0 else if i < 24 then 1 else 2

/-- The sources that a level offers. -/
def srcOffered (level : Nat) (src : Nat) : Bool :=
  match level with
  | 0 => [1, 2, 3, 4, 5, 7].contains src
  | 1 => [1, 6, 8, 9, 0xA].contains src
  | _ => [1, 0xB, 0xC, 0xD, 0xE].contains src

/-- Counter `i` as a core sees it (R222). -/
def State.counter (s : State) (core i : Nat) : Counter :=
  if i < 8 then (s.core core).cnt.getD i Counter.reset
  else if i < 24 then (s.die (dieOf core)).cnt.getD (i - 8) Counter.reset
  else (s.pkg (pkgOfCore core)).cnt.getD (i - 24) Counter.reset

def State.modCounter (s : State) (core i : Nat) (g : Counter → Counter) : State :=
  if i < 8 then s.modCore core fun c => { c with cnt := modAt c.cnt i g }
  else if i < 24 then s.modDie (dieOf core) fun d => { d with cnt := modAt d.cnt (i - 8) g }
  else s.modPkg (pkgOfCore core) fun p => { p with cnt := modAt p.cnt (i - 24) g }

def Counter.sel (c : Counter) : Word := BitVec.ofNat 64 (c.en.toNat * 2 ^ 63 + c.ovi.toNat * 2 ^ 62 + c.src.toNat)

def State.writeCntsel (s : State) (core i : Nat) (v : Word) : State :=
  s.modCounter core i fun c => { c with en := v.getLsbD 63, ovi := v.getLsbD 62, src := BitVec.ofNat 8 (wbits v 0 8) }

def State.writeCntval (s : State) (core i : Nat) (v : Word) : State :=
  s.modCounter core i fun c => { c with count := BitVec.ofNat 48 (wbits v 0 48) }

/-- COUNTER_EVENT (R467): an event of a counter's source; a wrap with OVI set posts CNTOVF. -/
def State.countEvent (s : State) (core i : Nat) : State :=
  let c := s.counter core i
  if i < 40 && c.en && srcOffered (cntLevel i) c.src.toNat then
    let s := s.modCounter core i fun c => { c with count := c.count + 1 }
    if c.count == BitVec.allOnes 48 && c.ovi then
      s.postEvent (if i < 24 then dieOf core else pkgOfCore core * 8) 0x24 (BitVec.ofNat 64 i) 0 0
    else s
  else s

end Sys2Proof.Machine
end

