-- ==== Sys2Proof/Machine/Mmio.lean ====
section
/-! DEFINITION. The register pages (R11, R323): every register that a chapter names, read and written by service code
through MMIO and by a host; AMOP (R366-R368) and bias flips (R426, R427). -/
namespace Sys2Proof.Machine

/-! ### Attraction-memory registers -/

/-- The outcome of an AM operation stands in AMOPST.ERR. -/
def State.amopEnd (s : State) (pkg err : Nat) : State := s.modPkg pkg fun p => { p with amErr := err }

/-- AMOP LOST (R366, R371): the package must be another one of the pod that has not been declared lost. -/
def State.amLost (s : State) (pkg q : Nat) : State :=
  if q = pkg || s.podN ≤ q || s.lostPkgs.contains q then s.amopEnd pkg 5 else (s.losePkg q).amopEnd pkg 0

/-- AMOP as last written, in its fields. -/
def amWord (op arg : Nat) : Word := BitVec.ofNat 64 (op % 4 * 2 ^ 62 + arg % 2 ^ 38)

/-- An AM operation by its OP (R366). -/
def State.amopRun (s : State) (pkg op arg : Nat) : State :=
  if op = 0 then let r := s.discard arg; r.2.amopEnd pkg r.1
  else if op = 1 then let r := s.pinPage pkg arg; r.2.amopEnd pkg r.1
  else if op = 2 then let r := s.unpinPage pkg arg; r.2.amopEnd pkg r.1
  else s.amLost pkg arg

/-- A write of AMOP (R366): BUSY is never seen set, since an operation is one step here. -/
def State.amop (s : State) (pkg : Nat) (x : Word) : State :=
  if (s.pkg pkg).amBusy then s
  else (s.modPkg pkg fun p => { p with amop := x }).amopRun pkg (wbits x 62 2) (if wbits x 62 2 = 3 then wbits x 0 12 else wbits x 0 38)

/-- AMCFG (R346): WAYS in bits [33:32] as 0, 1 and 2 for 2, 4 and 8. -/
def Pkg.amcfg (p : Pkg) : Nat := (if p.ways = 8 then 2 else if p.ways = 4 then 1 else 0) * 2 ^ 32 + p.nsets % 2 ^ 32

def Pkg.amnbr (p : Pkg) : Nat :=
  p.nbr.getD 3 0 % 2 ^ 12 * 2 ^ 48 + p.nbr.getD 2 0 % 2 ^ 12 * 2 ^ 32 + p.nbr.getD 1 0 % 2 ^ 12 * 2 ^ 16
    + p.nbr.getD 0 0 % 2 ^ 12

/-- Rank of a way among the ways of its set, 0 the oldest (R352). -/
def Pkg.lruRank (p : Pkg) (set way : Nat) : Nat :=
  let st (w : Nat) : Nat := (p.way set w).stamp
  ((List.range p.ways).filter fun w => st w < st way || (st w == st way && w < way)).length

/-- AMTAG (R353): the tag that AMTAGSEL selects. -/
def Pkg.amtag (p : Pkg) : Nat :=
  let set := wbits p.amtagsel 0 32
  let way := wbits p.amtagsel 32 3
  if p.nsets ≤ set || p.ways ≤ way then 0
  else
    let x := p.way set way
    x.st.toNat * 2 ^ 62 + x.pin.toNat * 2 ^ 61 + x.guard.toNat * 2 ^ 60 + p.lruRank set way % 8 * 2 ^ 57
      + popN 256 x.valid.toNat * 2 ^ 48 + x.gpn % 2 ^ 38

/-! ### Bias flips (R426, R427) -/

/-- Drop every translation of a GPN, pod-wide: leaves whose frame or shadow is the page. -/
def State.dropGpnTlb (s : State) (gpn : Nat) : State :=
  let hit (t : TlbEntry) : Bool :=
    let f := wbits t.lo 26 38
    let l : Leaf := { lo := t.lo, hi := t.hi, level := 0, vsel := t.vsel }
    wbits t.lo 6 4 == tGLOBAL && (f / 2 ^ (t.bits - 16) == gpn / 2 ^ (t.bits - 16) || l.shadow == gpn)
  s.tlbDrop (fun _ => true) (fun _ => true) hit fun _ => false

/-- Dirty data that a host returns goes into the master slot. -/
def State.takeHostDirty (s : State) (gpn : Nat) : State :=
  let m := (s.dirEnt gpn).hostDirty
  let s := (List.range 256).foldl (fun s l =>
    let sec := (m >>> (8 * l)).setWidth 8
    if sec == 0 then s else s.masterTakes (gpn * 256 + l) sec) s
  s.modDir gpn fun d => { d with hostDirty := 0 }

/-- A flip that succeeds: dirty lines and M granules reach the master slot, every cached line and replica goes, and a flip to
device bias takes what the host holds dirty. A set that gains a way takes from its reserve pool (R364). -/
def State.flip (s : State) (gpn : Nat) (to_ : Option Nat) : State :=
  let s := (s.dropGpnTlb gpn).flushPage gpn
  match to_ with
  | some h =>
    let gone := (s.holders gpn).filter fun x => !((s.pkg x.1).slotAt x.2).isMaster
    let s := gone.foldl (fun s x => s.invalidate x.1 x.2) s
    let s := s.modDir gpn fun d => { d with hostBias := some h, replicas := [], guardAt := none, hostLines := [], hostDirty := 0 }
    (s.relist gpn).poolMoves gpn (gone.map Prod.fst)
  | none => (s.takeHostDirty gpn).modDir gpn fun d => { d with hostBias := none, hostLines := [] }

/-- Why BIASOP changes nothing (R426). -/
def State.biasBad (s : State) (pkg op host gpn : Nat) : Option Nat :=
  let d := s.dirEnt gpn
  if 1 < op then some 5
  else
    match d.master with
    | none => some 1
    | some m =>
      if op = 0 then (if d.hostBias.isNone then some 4 else none)
      else if !(s.pkg pkg).hasHost host then some 2
      else if d.dup || d.opened then some 3
      else if d.hostBias.isSome then some 4
      else
        let pinned := match (s.pkg m).masterOf gpn with | some a => s.pinned ((s.pkg m).slotAt a) | none => true
        if !pinned && s.pinFull m gpn then some 6 else none

/-- BIASOP as last written, in its fields. -/
def biasWord (op host gpn : Nat) : Word := BitVec.ofNat 64 (op % 4 * 2 ^ 62 + host % 16 * 2 ^ 50 + gpn % 2 ^ 38)

/-- The operation that BIASOP names, once no copy or engine uses a translation of the page (R226, R427): BUSY stands until then,
and the flip itself is one step. -/
def State.biasRun (s : State) (pkg : Nat) : State :=
  let x := (s.pkg pkg).biasop
  let gpn := wbits x 0 38
  let fin (s : State) (err : Nat) : State :=
    let h := (s.dirEnt gpn).hostBias.isSome
    s.modPkg pkg fun p => { p with biasErr := err, biasH := h, biasBusy := false }
  match s.biasBad pkg (wbits x 62 2) (wbits x 50 4) gpn with
  | some err => fin s err
  | none =>
    if s.inFlight.any (usesPage [gpn]) then s.modPkg pkg fun p => { p with biasBusy := true }
    else fin (s.flip gpn (if wbits x 62 2 = 0 then none else some (wbits x 50 4))) 0

/-- A write of BIASOP; one while BUSY is set is ignored. -/
def State.biasop (s : State) (pkg : Nat) (x : Word) : State :=
  if (s.pkg pkg).biasBusy then s else (s.modPkg pkg fun p => { p with biasop := x }).biasRun pkg

/-- A flip that waits for copies goes on. -/
def State.biasGo (s : State) (pkg : Nat) : State := if (s.pkg pkg).biasBusy then s.biasRun pkg else s

/-! ### The switch die's page -/

/-- Eight bytes of a list from an offset. -/
def word8 (bs : List Byte) (off : Nat) : Nat := leNat ((bs.drop off).take 8)

/-- What a 64-bit register of the switch die's page reads; an offset that no chapter names reads zero (R323). -/
def State.readSwitch (s : State) (pkg off : Nat) : Nat :=
  let p := s.pkg pkg
  if 0x1000 ≤ off && off < 0x1200 then
    let c := s.chain pkg ((off - 0x1000) / 32)
    match (off - 0x1000) % 32 with
    | 0 => c.readHead.toNat
    | 8 => recAddr c.tail.toNat
    | 16 => c.readDone.toNat
    | _ => 0
  else if 0x2000 ≤ off && off < 0x2080 then
    match p.buckets[(off - 0x2000) / 8]? with
    | some b => (decide (b.level < 0)).toNat * 2 ^ 63 + b.depth.toNat * 2 ^ 32 + b.rate.toNat
    | none => 0
  else if 0x6000 ≤ off && off < 0x6080 then (s.port pkg ((off - 0x6000) / 8)).stat.toNat
  else if 0x7020 ≤ off && off < 0x7040 then word8 p.nonce (off - 0x7020)
  else if 0x8000 ≤ off && off < 0x10000 then word8 p.attOut (off - 0x8000)
  else if 0x4010 ≤ off && off < 0x4040 then p.am.getD ((off - 0x4010) / 8) 0
  else
    match off with
    | 0x3000 => p.bfcfg.toNat
    | 0x3008 => p.bfstat.toNat
    | 0x4000 => p.amcfg
    | 0x4008 => p.amnbr
    | 0x4048 => p.amBusy.toNat * 2 ^ 63 + p.amErr * 2 ^ 48
    | 0x4050 => (s.podN - 1) % 2 ^ 12 * 2 ^ 16 + pkg % 2 ^ 12
    | 0x4058 => p.amtagsel.toNat
    | 0x4060 => p.amtag
    | 0x5000 => p.cxlcfg.toNat
    | 0x5108 => p.biasBusy.toNat * 2 ^ 63 + p.biasH.toNat * 2 ^ 62 + p.biasErr * 2 ^ 48
    | 0x5200 => p.ctxtab.toNat
    | 0x7000 => p.secstat.toNat
    | 0x7100 => p.bootStep % 16 + p.bootFail % 16 * 16
    | _ => 0

/-- A write of a 64-bit register of the switch die's page. -/
def State.writeSwitch (s : State) (pkg off : Nat) (v : Word) : State :=
  if 0x1000 ≤ off && off < 0x1200 then
    let c := (off - 0x1000) / 32
    match (off - 0x1000) % 32 with
    | 0 => s.writeHead pkg c v
    | 8 => s.appendTail pkg c v
    | _ => s
  else if 0x2000 ≤ off && off < 0x2080 then
    s.modPkg pkg fun p => { p with buckets := modAt p.buckets ((off - 0x2000) / 8) fun (b : Bucket) =>
      { b with depth := BitVec.ofNat 24 (wbits v 32 24), rate := BitVec.ofNat 24 (wbits v 0 24) } }
  else if 0x7020 ≤ off && off < 0x7040 then
    let k := off - 0x7020
    s.modPkg pkg fun p => { p with nonce := p.nonce.take k ++ leBytes 8 v.toNat ++ p.nonce.drop (k + 8) }
  else
    match off with
    | 0x3000 => s.writeBfcfg pkg v
    | 0x4008 => s.modPkg pkg fun p => { p with nbr := (List.range 4).map fun i => wbits v (16 * i) 12 }
    | 0x4040 => s.amop pkg v
    | 0x4058 => s.modPkg pkg fun p => { p with amtagsel := v &&& 0x00000007FFFFFFFF }
    | 0x5000 => s.modPkg pkg fun p => { p with cxlcfg := v &&& 0x000000000FFF0FFF }
    | 0x5100 => s.biasop pkg v
    | 0x5200 => s.modPkg pkg fun p => { p with ctxtab := v &&& 0x00FFFFFFFFC00000 }
    | 0x7008 => s.attest pkg
    | _ => s

/-! ### A compute die's page -/

def State.readDie (s : State) (die off : Nat) : Nat :=
  let d := s.die die
  match off with
  | 0x100 => d.scrbctl.toNat
  | 0x108 => d.scrbptb.toNat
  | 0x200 => (s.hbm die 0).half.toNat * 2 ^ 32 + (s.hbm die 0).lflt.toNat
  | 0x208 => (s.hbm die 1).half.toNat * 2 ^ 32 + (s.hbm die 1).lflt.toNat
  | 0x210 => (s.hbm die 0).ncnt.toNat
  | 0x218 => (s.hbm die 1).ncnt.toNat
  | _ => 0

def State.writeDie (s : State) (die off : Nat) (v : Word) : State :=
  match off with
  | 0x100 => s.modDie die fun d => { d with scrbctl := v &&& 0x8000FFFFFFFFFFFF }
  | 0x108 => s.modDie die fun d => { d with scrbptb := v &&& 0x00FFFFFFFFFF8000 }
  | _ => s

/-! ### Accesses -/

def State.readReg (s : State) (pkg page off : Nat) : Nat :=
  if page = 0 then s.readSwitch pkg off else s.readDie (pkg * 8 + (page - 1)) off

def State.writeReg (s : State) (pkg page off : Nat) (v : Word) : State :=
  if page = 0 then s.writeSwitch pkg off v else s.writeDie (pkg * 8 + (page - 1)) off v

/-- A read of 4 or 8 bytes at an aligned offset of a register page (R323). -/
def State.mmioRead (s : State) (pkg page off size : Nat) : Nat :=
  let x := s.readReg pkg page (off / 8 * 8)
  if size = 4 then (if off % 8 = 4 then x / 2 ^ 32 else x % 2 ^ 32) else x

/-- The value that a register holds: AMOP and BIASOP read zero and hold what was last written (R366, R426). -/
def State.keptReg (s : State) (pkg page off : Nat) : Nat :=
  if page = 0 && off = 0x4040 then (s.pkg pkg).amop.toNat
  else if page = 0 && off = 0x5100 then (s.pkg pkg).biasop.toNat
  else s.readReg pkg page off

/-- A write of 4 or 8 bytes: the half that a 32-bit write does not reach keeps its value (R323). A write of either half of AMOP
or BIASOP starts the operation that the whole register then names (DESIGN CHOICE, log entry 88). -/
def State.mmioWrite (s : State) (pkg page off size : Nat) (v : Nat) : State :=
  let r := off / 8 * 8
  let x := s.keptReg pkg page r
  let y := if size = 4 then (if off % 8 = 4 then v % 2 ^ 32 * 2 ^ 32 + x % 2 ^ 32 else x / 2 ^ 32 * 2 ^ 32 + v % 2 ^ 32) else v
  s.writeReg pkg page r (BitVec.ofNat 64 y)

end Sys2Proof.Machine
end

