-- ==== Sys2Proof/Machine/MemOps.lean ====
section
/-! DEFINITION. Group 0x8, loads and stores (R150-R163), and the shared parts of every memory access of an instruction:
addresses, accessed bytes, checks, and bytes of memory and of registers of register pages. -/
namespace Sys2Proof.Machine

/-! ### Addresses (R150) -/

/-- What one of the A and B positions of a memory operand contributes in a lane. -/
def Env.addrPart (e : Env) (s : State) (x : Src) (l : Nat) : Nat :=
  match x with
  | .v n =>
    let r := e.v n.toNat
    let t := r.tag.toNat
    let w := r.lanes.getD l 0
    if t == tagI32 || t == 7 then wrapN (toInt t (subEl t w 0)) 64 else w.toNat
  | .u n => (e.u n.toNat).toNat
  | .imm => 0
  | .sp c => special s e.w c.toNat l 0

/-- The address of a lane; with BLK set, lane `l` is `blk` bytes times `l` further on. -/
def Env.va (e : Env) (s : State) (blk l : Nat) : Nat :=
  wrapN ((e.addrPart s e.f.a l : Int) + e.addrPart s e.f.b l + sextN (immN e.f) 32
    + (if mdB e.f 8 then l * blk else 0 : Nat)) 64

/-- The address of a memory operand `[sA + off]`. -/
def Env.vaA (e : Env) (s : State) : Nat :=
  wrapN ((e.addrPart s e.f.a (e.leading.getD 0) : Int) + sextN (immN e.f) 32) 64

/-- The tag check of a class-00 B. -/
def Env.baseTag (e : Env) : Option Nat :=
  match e.tagOf e.f.b with
  | some t => if t == tagADDR || (7 ≤ t && t ≤ 0x0A) then none else some FMT
  | none => none

/-- Offsets of the accessed bytes of one register of format `t` under guard `g` (R153). -/
def fmtBytes (t : Nat) (g : PBits) : List Nat :=
  let w := fmtWidth t
  (List.range 8).filter fun k =>
    (List.range (nSub t)).any fun j => g.getLsbD j && w * j < 8 * (k + 1) && 8 * k < w * (j + 1)

/-- Element size in bytes (R152). -/
def elSize (t : Nat) : Nat := if fmtWidth t < 8 then 8 else fmtWidth t / 8

/-! ### Checked accesses -/

/-- A lane's access: its address and the offsets of its accessed bytes. -/
structure LaneAcc where
  lane : Nat
  va : Nat
  offs : List Nat
  deriving DecidableEq, Repr

/-- The checks of R154 for each lane: the faults, and the lanes that may go on with their translated lines. -/
def State.checkLanes (s : State) (w : Who) (a : Acc) (size : Nat) (xs : List LaneAcc) :
    List LaneFault × List (LaneAcc × Lines) :=
  let rs := xs.map fun (x : LaneAcc) =>
    (x, if x.va % size != 0 then (.inl (ALIGN, x.va) : (Nat × Nat) ⊕ Lines) else s.transAll w a (x.offs.map (vaAdd x.va)))
  (rs.filterMap fun r => match r.2 with
    | .inl f => some { lane := r.1.lane, code := f.1, addr := BitVec.ofNat 64 f.2 }
    | .inr _ => none,
   rs.filterMap fun r => match r.2 with
    | .inl _ => none
    | .inr ls => some (r.1, ls))

/-- The types that a format may reach: 32- and 64-bit formats also reach register pages (R155). -/
def fmtTypes (t : Nat) : Nat := if fmtWidth t = 32 || fmtWidth t = 64 then 0x1F else 0xF

def isMmio (ls : Lines) (va : Nat) : Bool := match placeOf ls va with | .mmio .. => true | .mem _ => false

/-- One byte of a register page. -/
def State.mmioByte (s : State) (ls : Lines) (va : Nat) : Byte :=
  match placeOf ls va with
  | .mmio p g o => BitVec.ofNat 8 (s.readReg p g (o / 8 * 8) / 2 ^ (8 * (o % 8)))
  | .mem _ => 0

/-- The bytes at virtual addresses, in order, with the effects of reading them. -/
def State.loadAt (s : State) (w : Who) (ls : Lines) (swz : Nat) (vas : List Nat) : List (Nat × Byte) × State :=
  let mem := vas.filter fun va => !isMmio ls va
  let r := s.getBytes w ls swz mem
  ((mem.zip r.1) ++ ((vas.filter (isMmio ls)).map fun va => (va, s.mmioByte ls va)), r.2)

/-- Writes to register pages: a whole register where all its bytes are given, else the halves (R323). -/
def State.mmioPut (s : State) (ls : Lines) (ws : List (Nat × Byte)) : State :=
  let heads := ((ws.map fun x => x.1 / 8 * 8).eraseDups)
  heads.foldl (fun s h =>
    let b (k : Nat) : Option Byte := (ws.find? fun x => x.1 == h + k).map Prod.snd
    let num (k n : Nat) : Nat := leNat ((List.range n).map fun i => (b (k + i)).getD 0)
    match (b 0).isSome, (b 4).isSome with
    | true, true => (match placeOf ls h with | .mmio p g o => s.mmioWrite p g o 8 (num 0 8) | .mem _ => s)
    | true, false => (match placeOf ls h with | .mmio p g o => s.mmioWrite p g o 4 (num 0 4) | .mem _ => s)
    | false, true => (match placeOf ls (h + 4) with | .mmio p g o => s.mmioWrite p g o 4 (num 4 4) | .mem _ => s)
    | false, false => s) s

/-- Writes of register pages to which no route stands are dropped and reported, one error for each line (R387, R446). -/
def State.mmioCut (s : State) (w : Who) (ls : Lines) (src : Nat) (ws : List (Nat × Byte)) : State × List (Nat × Byte) :=
  let cut (va : Nat) : Option Nat := match placeOf ls va with
    | .mmio _ g o => if s.reachesPage w.die g then none else some (mmioAddr g (o / 256 * 256))
    | .mem _ => none
  (((ws.filterMap fun x => cut x.1).eraseDups).foldl (fun s a =>
    s.errqPut w.pkg w.errq { asid := w.asid.toNat, addr := a, peer := w.pkg, cause := RLOAD, src := src, wg := w.wgIndex }) s,
   ws.filter fun x => (cut x.1).isNone)

/-- Obtain the lines that a store writes; an error is a first write that finds no way. -/
def State.claimAt (s : State) (w : Who) (ls : Lines) (swz : Nat) (vas : List Nat) : Try State :=
  s.claim w ls swz (vas.filter fun va => !isMmio ls va)

/-- Write bytes at virtual addresses whose lines have been obtained. -/
def State.storeClaimed (s : State) (w : Who) (ls : Lines) (swz src : Nat) (ws : List (Nat × Byte)) : State :=
  let r := (s.putClaimed w ls swz src (ws.filter fun x => !isMmio ls x.1)).mmioCut w ls src (ws.filter fun x => isMmio ls x.1)
  r.1.mmioPut ls r.2

/-- Write bytes at virtual addresses; an error is a first write that finds no way. -/
def State.storeAt (s : State) (w : Who) (ls : Lines) (swz src : Nat) (ws : List (Nat × Byte)) : Try State :=
  (s.claimAt w ls swz (ws.map Prod.fst)).map fun s => s.storeClaimed w ls swz src ws

/-- A memory-class instruction of a class whose bucket is below zero is held (R276); one whose guard is zero in each of the
`n` sub-elements that it acts on issues all the same (R46). -/
def Env.gate (e : Env) (s : State) (k : State) (n : Nat := 1) : State :=
  if e.acts n && (s.pkg (pkgOfCore e.w.core)).stalled (s.bucketOf e.w) then e.holds s .bucket else k

/-- The instruction has issued in a state in which faults may have parked lanes. -/
def Env.finish (e : Env) (s : State) (g : Warp → Warp) : State :=
  match aget s.warps e.key with
  | some w => e.done s (g w)
  | none => { s with cur := none }

/-- Extension of a value of format `t` into a uniform register (R55). The rule names no extension for SC8: its byte is
zero-extended (DESIGN CHOICE, log entry 97). -/
def uniExt (t x : Nat) : Word := BitVec.ofNat 64 (if fmtSigned t && t != 0x0F then wrapN (sextN x (fmtWidth t)) 64 else x)

/-! ### Loads -/

/-- The lanes that make an access of `regs` registers in format `t`. -/
def Env.laneAccs (e : Env) (s : State) (t regs : Nat) : List LaneAcc :=
  let g := e.guardOf
  (lanesOf e.lanes).filterMap fun l =>
    let b := fmtBytes t (g.getD l 0)
    if b.isEmpty then none
    else some { lane := l, va := e.va s (8 * regs) l, offs := (List.range regs).flatMap fun r => b.map fun k => 8 * r + k }

/-- Read the accesses of the lanes that passed: each lane's bytes by offset. -/
def State.loadLanes (s : State) (w : Who) (swz : Nat) (xs : List (LaneAcc × Lines)) : AMap (List (Nat × Byte)) × State :=
  xs.foldl (fun a x =>
    let r := a.2.loadAt w x.2 swz (x.1.offs.map (vaAdd x.1.va))
    let bs := x.1.offs.filterMap fun k => (r.1.find? fun p => p.1 == vaAdd x.1.va k).map fun p => (k, p.2)
    (aset a.1 x.1.lane bs, r.2)) ([], s)

/-- The eight bytes of register `r` of a lane's access, absent ones zero. -/
def wordAt (got : AMap (List (Nat × Byte))) (l r : Nat) : Word :=
  let bs := (aget got l).getD []
  BitVec.ofNat 64 (leNat ((List.range 8).map fun k => ((bs.find? fun p => p.1 == 8 * r + k).map Prod.snd).getD 0))

/-- Lanes of a memory access park on their faults; loads among them whose packets failed have had theirs (R400). -/
def Env.memFaults (e : Env) (s : State) (kind : Nat) (fs : List LaneFault) : State :=
  takeFaults (s.loadsFaulted (e.who s) (fs.map fun x => (x.code, x.addr.toNat))) e.key e.pc kind 0 fs

/-- `ld`, `ldb` and `ldnf` (R158, R160, R162): with `quiet`, every fault but ALIGN gives zero and clears E. -/
def Env.load (e : Env) (s : State) (regs : Nat) (quiet : Bool) : State :=
  let t := mdN e.f 0 5
  let swz := mdN e.f 5 3
  e.check s e.baseTag <| (e.gate s · (nSub t)) <|
    let who := e.who s
    let r := s.checkLanes who { Acc.load with types := fmtTypes t } (elSize t) (e.laneAccs s t regs)
    if r.2.any fun x => s.anyReset who x.2 then e.holds s .reset
    else
      let (parks, softs) := r.1.partition fun x => !quiet || x.code == ALIGN
      let got := s.loadLanes who swz r.2
      let s := e.memFaults got.2 0 parks
      let live := e.lanes &&& ~~~(maskOf (parks.map LaneFault.lane))
      let e1 := { e with lanes := live }
      let ws := e.vecWrites t ((List.range regs).map fun k =>
        e1.vecWrite (e.f.d.toNat + k) t .general (fun _ => true) fun l j => subEl t (wordAt got.1 l k) j)
      let bad := maskOf (softs.map LaneFault.lane)
      let g := e.guardOf
      let pw := e1.predWrite e.f.e.toNat
        (fun l => if bad.getLsbD l || (g.getD l 0).getLsbD 0 then allOnes16 else 0)
        (fun l => if bad.getLsbD l then 0 else allOnes16)
      e.finish { s with nextId := s.nextId + 1 } fun w =>
        w.fly s.nextId e.free (if quiet then ws ++ [pw] else ws) 0 e.paired

def execLd (f : Fields) (s : State) : Out := issued (.ld f) f s fun e s => e.load s 1 false

def execLdb (f : Fields) (s : State) : Out := issued (.ldb f) f s fun e s => e.load s 4 false

def execLdnf (f : Fields) (s : State) : Out := issued (.ldnf f) f s fun e s => e.load s 1 true

/-! ### Stores -/

/-- The 64 bits that a store writes from its data operand in a lane: register `k` of the operand. -/
def Env.dataWord (e : Env) (s : State) (t : Nat) (l k : Nat) : Word :=
  match e.f.c with
  | .v n => e.lane64 (n.toNat + k) l
  | x => let v := e.el s t x l
         BitVec.ofNat 64 ((List.range (nSub t)).foldl (fun a j => a + v j * 2 ^ (fmtWidth t * j)) 0)

/-- The bytes that a lane's access stores, with their virtual addresses. -/
def Env.laneBytes (e : Env) (s : State) (t : Nat) (x : LaneAcc) : List (Nat × Byte) :=
  x.offs.map fun k => (vaAdd x.va k, BitVec.ofNat 8 ((e.dataWord s t x.lane (k / 8)).toNat / 2 ^ (8 * (k % 8))))

/-- The lines of every lane are obtained before any lane writes: a store that waits for a way has written nothing (R363). -/
def Env.claimLanes (e : Env) (s0 : State) (xs : List (LaneAcc × Lines)) (s : State) : Try State :=
  xs.foldlM (fun s x => s.claimAt (e.who s0) x.2 (mdN e.f 5 3) (x.1.offs.map (vaAdd x.1.va))) s

/-- The lanes write in ascending order. `s0` is the state at issue. -/
def Env.putLanes (e : Env) (s0 : State) (t : Nat) (xs : List (LaneAcc × Lines)) (s : State) : State :=
  xs.foldl (fun s x => s.storeClaimed (e.who s0) x.2 (mdN e.f 5 3) 0 (e.laneBytes s0 t x.1)) s

/-- `st` and `stb` (R159, R160). -/
def Env.store (e : Env) (s : State) (t regs : Nat) : State :=
  (e.gate s · (nSub t)) <|
    let who := e.who s
    let r := s.checkLanes who { Acc.store with types := fmtTypes t } (elSize t) (e.laneAccs s t regs)
    if r.2.any fun x => s.anyReset who x.2 true then e.holds s .reset
    else
      match (Try.clean s (e.claimLanes s r.2 s)).map (e.putLanes s t r.2) with
      | .error x => e.waits x
      | .ok s => e.finish (takeFaults s e.key e.pc 1 0 r.1) id

/-- The format of a store (R159): the tag of a class-00 C, else FMT. -/
def Env.storeFmt (e : Env) : Nat := (e.tagOf e.f.c).getD (mdN e.f 0 5)

/-- A store's tag checks: B, a VOID C, and a special operand that needs a 64-bit format. -/
def Env.storeTag (e : Env) : Option Nat :=
  if e.baseTag.isSome || e.storeFmt == 0 then some FMT else e.valueFault e.storeFmt e.f.c

def execSt (f : Fields) (s : State) : Out :=
  issued (.st f) f s fun e s => e.check s e.storeTag (e.store s e.storeFmt 1)

/-- The four registers of `stb` carry one tag (R160). -/
def Env.quadTags (e : Env) : Bool :=
  match e.f.c with
  | .v n => (List.range 4).all fun k => (e.v (n.toNat + k)).tag == (e.v n.toNat).tag
  | _ => true

def execStb (f : Fields) (s : State) : Out :=
  issued (.stb f) f s fun e s =>
    e.check s (if e.quadTags then e.storeTag else some FMT) (e.store s e.storeFmt 4)

/-! ### Uniform accesses (R161) -/

/-- The whole issuing lane set parks. -/
def Env.parkAll (e : Env) (s : State) (kind code va : Nat) : State :=
  { takeFaults (s.loadsFaulted (e.who s) [(code, va)]) e.key e.pc kind 0 ((lanesOf e.lanes).map fun l =>
      { lane := l, code := code, addr := BitVec.ofNat 64 va }) with cur := none }

/-- An access of `n` bytes at one address: its fault, or its translated lines. -/
def State.checkOne (s : State) (w : Who) (a : Acc) (align va n : Nat) : (Nat × Nat) ⊕ Lines :=
  if va % align != 0 then .inl (ALIGN, va) else s.transAll w a (vaRange va n)

/-- The number that `n` bytes at an address hold, and the state after reading them. -/
def State.loadNum (s : State) (w : Who) (ls : Lines) (swz va n : Nat) : Nat × State :=
  let vas := vaRange va n
  let r := s.loadAt w ls swz vas
  (leNat (vas.map fun a => ((r.1.find? fun p => p.1 == a).map Prod.snd).getD 0), r.2)

/-- Write a number of `n` bytes. -/
def State.storeNum (s : State) (w : Who) (ls : Lines) (swz src va n x : Nat) : Try State :=
  s.storeAt w ls swz src ((vaRange va n).zip (leBytes n x))

def execLdu (f : Fields) (s : State) : Out :=
  issued (.ldu f) f s fun e s =>
    match e.leading with
    | none => e.done s e.w
    | some l =>
      let t := mdN f 0 5
      let n := fmtWidth t / 8
      let va := e.va s 0 l
      if e.w.busy f.d.toNat then e.holds s .counter
      else e.gate s <|
        let who := e.who s
        match s.checkOne who { Acc.load with types := fmtTypes t } n va n with
        | .inl x => e.parkAll s 0 x.1 x.2
        | .inr ls =>
          if s.anyReset who ls then e.holds s .reset
          else
            let r := s.loadNum who ls (mdN f 5 3) va n
            e.uniFly r.2 f.d.toNat (uniExt t r.1)

/-- The value of a class 01 or 11 data operand in format `t`. -/
def Env.uniData (e : Env) (s : State) (t : Nat) (x : Src) : Nat := e.el s t x (e.leading.getD 0) 0

def execStu (f : Fields) (s : State) : Out :=
  issued (.stu f) f s fun e s =>
    let t := mdN f 0 5
    e.check s (e.valueFault t f.c) <|
    match e.leading with
    | none => e.done s e.w
    | some l =>
      let n := fmtWidth t / 8
      let va := e.va s 0 l
      e.gate s <|
        let who := e.who s
        match s.checkOne who { Acc.store with types := fmtTypes t } n va n with
        | .inl x => e.parkAll s 1 x.1 x.2
        | .inr ls =>
          if s.anyReset who ls true then e.holds s .reset
          else
            match s.storeNum who ls (mdN f 5 3) 0 va n (e.uniData s t f.c) with
            | .error x => e.waits x
            | .ok s => e.finish s id

/-! ### Prefetch and cache control (R163) -/

/-- The keys of a byte that the three instructions act on: none where its address is not canonical, in the aperture, without a
valid translation, or of a target that no L2 caches. They need no permission (R331) and meet no check of R154 past the
translation. Both storages of an open page are named where `both` asks for them (R337). -/
def State.cachedKeys (s : State) (w : Who) (both : Bool) (va : Nat) : List Nat :=
  if !canonicalVa va || inAperture va then []
  else
    match s.leafOf w.core w.asid w.ptbase va with
    | none => []
    | some l =>
      if !l.valid || 3 ≤ l.type || (l.place w.pkg false va |> s.missing w.pkg) then []
      else
        ([l.place w.pkg false va] ++ if both && l.type == tGLOBAL && l.sopen then [l.place w.pkg true va] else []).filterMap fun p =>
          match s.backing w.pkg p with | .mem k => some k | .mmio .. => none

/-- The keys that the taking lanes name. -/
def Env.laneKeys (e : Env) (s : State) (both : Bool) : List Nat :=
  (lanesOf e.taking).flatMap fun l => s.cachedKeys (e.who s) both (e.va s 0 l)

/-- It never faults past its decode: a lane whose address does not translate is dropped. Nothing is poisoned by a prefetch. -/
def execPf (f : Fields) (s : State) : Out :=
  issued (.pf f) f s fun e s => e.check s e.baseTag <| e.gate s <|
    let w := e.who s
    e.finish ((e.laneKeys s false).foldl (fun s k =>
      if s.resetHeld w.die k false || !s.reaches w.die k || !s.intact w.pkg k then s else s.touchLine w k) s) id

/-- The dies whose L2s an instruction of a scope acts on: from `.pkg` up every die of the package, since a warp that has migrated
left dirty lines in the L2 of another (R350). The model holds no L1 (log entry 2), so narrower scopes have nothing to write. -/
def controlDies (scope core : Nat) : List Nat := if scope < 3 then [] else (List.range 8).map fun d => pkgOfCore core * 8 + d

/-- `.pkg` and wider: the L2 writes its dirty sectors back to the target that backs the line. -/
def Env.cacheControl (e : Env) (s : State) (inv : Bool) : State :=
  e.check s e.baseTag <| e.gate s <|
    let dies := controlDies (mdN e.f 9 3) e.w.core
    let lines := (e.laneKeys s true).map lineKey
    if dies.any fun d => lines.any fun l => s.dirtyIn d l && s.backHeld l then e.holds s .reset
    else
      let s := dies.foldl (fun s die =>
        lines.foldl (fun s l => if inv then s.evictLine die l else s.cleanLine die l) s) s
      e.finish { s with nextId := s.nextId + 1 } fun w => w.fly s.nextId e.free [] 0 e.paired

def execCflu (f : Fields) (s : State) : Out := issued (.cflu f) f s fun e s => e.cacheControl s false

def execCinv (f : Fields) (s : State) : Out := issued (.cinv f) f s fun e s => e.cacheControl s true

end Sys2Proof.Machine
end

