-- ==== Sys2Proof/Machine/Atomics.lean ====
section
/-! DEFINITION. Group 0x9, atomics and fences (R164-R168). -/
namespace Sys2Proof.Machine

/-- The operations of AOP on element bits (R63, R165); no float flag is kept. -/
def atomOp (op t m c : Nat) : Nat :=
  let w := fmtWidth t
  let ti := if t == tagADDR then 0x0A else t
  let lt := decide (toInt ti m < toInt ti c)
  match op with
  | 0 => (m + c) % 2 ^ w
  | 1 => (m + 2 ^ w - c % 2 ^ w) % 2 ^ w
  | 2 => if lt then m else c
  | 3 => if lt then c else m
  | 4 => Nat.land m c
  | 5 => Nat.lor m c
  | 6 => Nat.xor m c
  | 7 => c
  | 8 => (fAdd (ffOf t) 0 false (fmtValue t m) (fmtValue t c)).1
  | 9 => (fMinMax (ffOf t) false m c).1
  | _ => (fMinMax (ffOf t) true m c).1

/-- The new element: `none` for the operation makes it a compare-and-swap with `swap`. -/
def atomNew (op : Option Nat) (t m c swap : Nat) : Nat :=
  match op with
  | some o => atomOp o t m c
  | none => if m = c then swap else m

/-- A data operand's tag check: FMT, with ADDR and I64 interchangeable. -/
def atomTag (t : Nat) (tag : Nat) : Bool :=
  tag == t || ((tag == 0x0A || tag == tagADDR) && (t == 0x0A || t == tagADDR))

/-- One indivisible read and write of an element (R165): what it held, and the state after; an error is a first write that
finds no way. -/
def State.atomStep (s : State) (w : Who) (ls : Lines) (swz va n : Nat) (g : Nat → Nat) : Try (Nat × State) :=
  let r := s.loadNum w ls swz va n
  (r.2.storeNum w ls swz 0 va n (g r.1)).map fun s => (r.1, s)

/-- The data of a lane: C and, for a compare-and-swap, E. -/
def Env.atomData (e : Env) (s : State) (t l : Nat) : Nat × Nat := (e.el s t e.f.c l 0, e.el s t (.v e.f.e) l 0)

/-- The lanes act in ascending order: what each found, and the state after. `s0` is the state at issue. -/
def Env.atomLanes (e : Env) (s0 : State) (op : Option Nat) (t : Nat) :
    List (LaneAcc × Lines) → AMap Nat × State → Try (AMap Nat × State)
  | [], a => .ok a
  | x :: xs, a =>
    let d := e.atomData s0 t x.1.lane
    (a.2.atomStep (e.who s0) x.2 (mdN e.f 5 3) x.1.va (fmtWidth t / 8) fun m => atomNew op t m d.1 d.2).bind fun r =>
      e.atomLanes s0 op t xs (aset a.1 x.1.lane r.1, r.2)

/-- The accesses of the lanes with guard bit 0. -/
def Env.atomAccs (e : Env) (s : State) (n : Nat) : List LaneAcc :=
  (lanesOf e.taking).map fun l => { lane := l, va := e.va s 0 l, offs := List.range n }

/-- The vector forms of the atomics. Where no issuing lane has guard bit 0 set they write nothing, D's tag among it, whatever the
other guard bits: sub-element 0 alone acts (DESIGN CHOICE, log entry 83; R164 and R60 do not settle the tag). -/
def Env.atomic (e : Env) (s : State) (op : Option Nat) (ret : Bool) : State :=
  let t := mdN e.f 0 5
  let n := fmtWidth t / 8
  let tagBad := (match e.tagOf e.f.c with | some x => !atomTag t x | none => false)
    || (op.isNone && !atomTag t (e.v e.f.e.toNat).tag.toNat)
  e.check s (if e.baseTag.isSome || tagBad then some FMT else e.valueFault t e.f.c) <| e.gate s <|
    let who := e.who s
    let r := s.checkLanes who Acc.atomic n (e.atomAccs s n)
    if r.2.any fun x => s.anyReset who x.2 true then e.holds s .reset
    else
      match Try.clean s ((e.claimLanes s r.2 s).bind fun s1 => e.atomLanes s op t r.2 ([], s1)) with
      | .error x => e.waits x
      | .ok got =>
        let s := e.memFaults got.2 2 r.1
        let e1 := { e with lanes := e.lanes &&& ~~~(maskOf (r.1.map LaneFault.lane)) }
        let rw := e1.vecWrite e.f.d.toNat t .general (fun j => j == 0) fun l _ => (aget got.1 l).getD 0
        e.finish { s with nextId := s.nextId + 1 } fun w =>
          if ret then w.fly s.nextId e.free (if e.taking == 0 then [] else [rw]) 0 e.paired else w

def execAtom (f : Fields) (s : State) : Out := issued (.atom f) f s fun e s => e.atomic s (some (mdN f 14 4)) true

def execAcas (f : Fields) (s : State) : Out := issued (.acas f) f s fun e s => e.atomic s none true

def execRed (f : Fields) (s : State) : Out := issued (.red f) f s fun e s => e.atomic s (some (mdN f 14 4)) false

/-- The uniform forms act once, through the leading lane (R167). -/
def Env.atomicU (e : Env) (s : State) (op : Option Nat) : State :=
  let t := mdN e.f 0 5
  e.check s (e.valueFault t e.f.c) <|
  match e.leading with
  | none => e.done s e.w
  | some l =>
    let n := fmtWidth t / 8
    let va := e.va s 0 l
    if e.w.busy e.f.d.toNat then e.holds s .counter
    else e.gate s <|
      let who := e.who s
      match s.checkOne who Acc.atomic n va n with
      | .inl x => e.parkAll s 2 x.1 x.2
      | .inr ls =>
        if s.anyReset who ls true then e.holds s .reset
        else
          let c := e.uniData s t e.f.c
          let sw := (e.u e.f.e.toNat).toNat % 2 ^ fmtWidth t
          match s.atomStep who ls (mdN e.f 5 3) va n fun m => atomNew op t m c sw with
          | .error x => e.waits x
          | .ok r => e.uniFly r.2 e.f.d.toNat (uniExt t r.1)

def execAtomu (f : Fields) (s : State) : Out := issued (.atomu f) f s fun e s => e.atomicU s (some (mdN f 14 4))

def execAcasu (f : Fields) (s : State) : Out := issued (.acasu f) f s fun e s => e.atomicU s none

/-- R168: in the one coherent memory of the model every access is already in order (log entry 2). -/
def execFence (f : Fields) (s : State) : Out :=
  issued (.fence f) f s fun e s => e.gate s <|
    e.done { s with nextId := s.nextId + 1 } (if e.taking == 0 then e.w else e.w.fly s.nextId e.free [] 0 e.paired)

end Sys2Proof.Machine
end

