-- ==== Sys2Proof/Machine/Tiles.lean ====
section
/-! DEFINITION. The tile table (R281-R285), group 0xA's tile instructions (R169-R172) and asynchronous copies (R173-R178). -/
namespace Sys2Proof.Machine

/-! ### Tiles of a placement unit -/

def State.group? (s : State) (w : Warp) : Option Group := if w.kind == .service then none else aget s.groups w.gid

/-- Number of tile entries that the agent's unit reserved. -/
def State.tileCount (s : State) (w : Warp) : Nat := match s.group? w with | some g => g.tiles.length | none => 0

def State.tile (s : State) (gid n : Nat) : Tile :=
  match aget s.groups gid with | some g => g.tiles.getD n Tile.void | none => Tile.void

def State.modTile (s : State) (gid n : Nat) (g : Tile → Tile) : State :=
  s.modGroup gid fun x => { x with tiles := modAt x.tiles n g }

/-- Enter EMPTY: the flag arrays and the poison flag clear (R282). -/
def Tile.empty (t : Tile) : Tile := { t with state := 0, psn := false, nanRow := 0, infRow := 0, nanCol := 0, infCol := 0 }

def Tile.nRows (t : Tile) : Nat := t.rows.toNat + 1
def Tile.pitchB (t : Tile) : Nat := 32 * (t.pitch.toNat + 1)
def Tile.rowBytes (t : Tile) : Nat := 32 * (t.rowb.toNat + 1)

/-- The core and the first byte of the allocation that a tile of core number `c` counts from (R171, R281). -/
def Group.allocOn (g : Group) (c : Nat) : Option (Nat × Nat) :=
  let core := g.pkg * 256 + 4 * g.quad + c
  (g.wgs.find? fun w => w.core == core).map fun w => (core, w.spad)

/-- The scratchpad key of byte `b` of row `i` of a tile (R151, R281). -/
def Group.tileKey (g : Group) (t : Tile) (i b : Nat) : Nat :=
  let a := (g.allocOn t.core.toNat).getD (0, 0)
  spadKey a.1 (swizzle t.swz.toNat (a.2 + 256 * t.base.toNat + i * t.pitchB + b))

/-- A read reference stands on a tile (R284). -/
def Group.referenced (g : Group) (n : Nat) : Bool := g.mops.any fun m => m.src.contains n

def State.referenced (s : State) (gid n : Nat) : Bool :=
  match aget s.groups gid with | some g => g.referenced n | none => false

/-- A copy into a tile is outstanding. -/
def State.copyInto (s : State) (gid n : Nat) : Bool := s.copies.any fun c => c.2.gid == gid && c.2.tile == n && !c.2.isOut

/-- A change of a tile's entry is outstanding (R237). -/
def State.changing (s : State) (gid n : Nat) : Bool :=
  s.warps.any fun e => e.2.kind != .service && e.2.gid == gid && e.2.flights.any fun x =>
    match x.tile with | some (t, _) => t == n | none => false

/-- A unit is stopped at its fourth matrix fetch fault: its tiles stay as they are until `trapret` acts on it (R448). -/
def State.unitStopped (s : State) (gid : Nat) : Bool := match aget s.groups gid with | some g => g.phase == .stopped | none => false

/-- The change of an entry that a result makes as it returns (R237). -/
def State.applyTile (s : State) (gid : Nat) (a : Nat × TileAct) : State :=
  s.modTile gid a.1 fun t =>
    match a.2 with
    | .define d => d
    | .enter st => if st == 0 then t.empty else { t with state := st }

/-! ### Asking an entry (R169, R284) -/

/-- What an instruction asks of a tile's entry: the tile, and the state it needs: 0 EMPTY, 1 FILLING, 2 READY, and 3 for READY
without a read reference. -/
abbrev Ask := Nat × Nat

/-- The entry allows what is asked of it: it stands in the state, and no change of it is under way. -/
def State.allows (s : State) (gid : Nat) (a : Ask) : Bool :=
  (s.tile gid a.1).state.toNat == min a.2 2 && (a.2 != 3 || !s.referenced gid a.1) && !s.changing gid a.1

/-- The place of an agent in the order in which the table grants: the sequencer, then ascending core, then ascending slot. -/
def grantPlace (key : Nat) : Nat := if key % 64 = 40 then 0 else key + 1

/-- Two asks cannot both be granted: one of them is not for reading. -/
def asksMeet (a b : Ask) : Bool := a.1 == b.1 && !(a.2 == 2 && b.2 == 2)

/-- What a warp's held instruction at an address asks. -/
def Warp.asksAt (w : Warp) (pc : Word) : List Ask := (w.asks.filter fun a => a.2.2 == pc).map fun a => (a.1, a.2.1)

/-- A held instruction of another agent, which the table grants first, gets what is asked (R284): the held instructions of an
entry ask for it again in the cycle after its change, and one that loses is held as in the state that the winner leaves. -/
def Env.loses (e : Env) (s : State) (xs : List Ask) : Bool :=
  s.warps.any fun p =>
    p.1 != e.key && p.2.kind != .service && p.2.gid == e.w.gid && grantPlace p.1 < grantPlace e.key &&
      p.2.lanes.any fun x =>
        (match x.st with | .run => true | .hold .tile => true | _ => false) &&
          (let ys := p.2.asksAt x.pc
           (ys.any fun y => xs.any (asksMeet y)) && ys.all (s.allows e.w.gid))

/-- The instruction is held for a tile; what it asks stands with it. -/
def Env.holdsTile (e : Env) (s : State) (xs : List Ask) : State :=
  ({ e with w0 := { e.w0 with asks := e.w0.asks ++ xs.map fun (x : Ask) => (x.1, x.2, e.pc) } }).holds s .tile

/-- Go on with an instruction when the table grants everything that it asks; it is held otherwise. -/
def Env.asking (e : Env) (s : State) (xs : List Ask) (k : State) : State :=
  if !xs.all (s.allows e.w.gid) || e.loses s xs then e.holdsTile s xs else k

/-- The instruction has issued, and its change of a tile's entry is outstanding (R237). -/
def Env.doneTile (e : Env) (s : State) (n : Nat) (a : TileAct) : State :=
  e.done { s with nextId := s.nextId + 1 } (e.w.fly s.nextId e.free [] 0 e.paired (some (n, a)))

/-- The checks on naming a tile: a migrated warp (R217), an index beyond the reservation, an undefined tile (R169). -/
def Env.tileFault (e : Env) (s : State) (n : Nat) (needDef : Bool) : Option Nat :=
  if e.w.away.isSome then some PERM
  else if s.tileCount e.w ≤ n || (needDef && !(s.tile e.w.gid n).defd) then some TILE
  else none

/-- Faults of execution of group 0xA park the whole issuing lane set (R169). -/
def Env.checkOp (e : Env) (s : State) (r : Option Nat) (k : State) : State :=
  match r with
  | some c => e.parkAll s 3 c (Config.faultAddr e.free).toNat
  | none => k

/-- An instruction without a taking lane has nothing to do (R77). -/
def Env.once (e : Env) (s : State) (k : State) : State := match e.leading with | none => e.done s e.w | some _ => k

/-- The bucket gate of an async/tile instruction; in the sequencer only for one that reads or writes memory (R276). -/
def Env.gateTile (e : Env) (s : State) (mem : Bool) (k : State) : State := if e.isSeq && !mem then k else e.gate s k

/-! ### Tile instructions -/

/-- The extent of a definition lies in the allocation on its core (R171). -/
def State.tileFits (s : State) (w : Warp) (core a rows pitch rowb : Nat) : Bool :=
  match s.group? w with
  | none => false
  | some g =>
    match g.allocOn core, s.recOf w with
    | some _, some r => a + (rows - 1) * pitch + rowb ≤ r.spad
    | _, _ => false

/-- `tdef` (R171): ALIGN, then PERM; held until the tile is EMPTY or undefined. -/
def execTdef (f : Fields) (s : State) : Out :=
  issued (.tdef f) f s fun e s => e.once s <| e.gateTile s false <|
    let n := f.d.toNat
    e.checkOp s (e.tileFault s n false) <| e.asking s [(n, 0)] <|
        let a := e.addrPart s f.a (e.leading.getD 0)
        let core := mdN f 8 2
        let rows := mdN f 10 8 + 1
        let pitch := 32 * (bitsN (immN f) 0 8 + 1)
        let rowb := 32 * (bitsN (immN f) 8 8 + 1)
        e.checkOp s (if a % 256 != 0 then some ALIGN else if s.tileFits e.w core a rows pitch rowb then none else some PERM) <|
          let t : Tile :=
            { defd := true, state := 0, psn := false, scl := bitsN (immN f) 22 1 == 1,
              sct := if bitsN (immN f) 22 1 == 1 then BitVec.ofNat 6 (bitsN (immN f) 16 6) else 0,
              swz := BitVec.ofNat 3 (mdN f 5 3), fmt := BitVec.ofNat 5 (mdN f 0 5), core := BitVec.ofNat 2 core,
              rowb := BitVec.ofNat 8 (bitsN (immN f) 8 8), pitch := BitVec.ofNat 8 (bitsN (immN f) 0 8),
              rows := BitVec.ofNat 8 (rows - 1), base := BitVec.ofNat 12 (a / 256),
              nanRow := 0, infRow := 0, nanCol := 0, infCol := 0 }
          e.doneTile s n (.define t)

/-- An instruction that moves a tile from a state that it needs to another, and is held while the tile is in none such. -/
def Env.tileStep (e : Env) (s : State) (need : Nat) (to_ : BitVec 2) : State :=
  e.once s <| e.gateTile s false <|
    let n := e.f.d.toNat
    e.checkOp s (e.tileFault s n true) <| e.asking s [(n, need)] <| e.doneTile s n (.enter to_)

def execTacq (f : Fields) (s : State) : Out :=
  issued (.tacq f) f s fun e s => e.tileStep s 0 1

/-- `trdy` completes at once and changes nothing while a copy into the tile is outstanding (R172). -/
def execTrdy (f : Fields) (s : State) : Out :=
  issued (.trdy f) f s fun e s =>
    if s.copyInto e.w.gid f.d.toNat then
      e.once s <| e.gateTile s false <| e.checkOp s (e.tileFault s f.d.toNat true) <| e.asking s [(f.d.toNat, 1)] <| e.done s e.w
    else e.tileStep s 1 2

def execTrel (f : Fields) (s : State) : Out :=
  issued (.trel f) f s fun e s => e.tileStep s 3 0

/-- The value of `tstat` (R172). -/
def Tile.stat (t : Tile) : Nat :=
  if !t.defd then t.state.toNat
  else t.rows.toNat * 2 ^ 13 + t.fmt.toNat * 2 ^ 8 + t.core.toNat * 2 ^ 6 + t.psn.toNat * 2 ^ 5
    + (t.infRow != 0 || t.infCol != 0).toNat * 2 ^ 4 + (t.nanRow != 0 || t.nanCol != 0).toNat * 2 ^ 3 + 4 + t.state.toNat

def execTstat (f : Fields) (s : State) : Out :=
  issued (.tstat f) f s fun e s => e.once s <| e.gateTile s false <|
    e.checkOp s (e.tileFault s f.e.toNat false) <|
      e.uniFly s f.d.toNat (BitVec.ofNat 64 (s.tile e.w.gid f.e.toNat).stat)

/-! ### Asynchronous copies -/

/-- The cores whose scratchpads a copy may reach (R176). -/
def Group.cores_ (g : Group) : List Nat := g.wgs.map Wg.core

def Acc.copyIn (cores : List Nat) : Acc := { rd := true, psn := true, types := 0xF, cores := some cores }
def Acc.copyOut (cores : List Nat) : Acc := { wr := true, cow := true, types := 0xF, cores := some cores }

/-- The sectors of a copy from the memory address of each tile row. -/
def Group.sectors (g : Group) (t : Tile) (rows : List Nat) : List Sector :=
  (mapFrom 0 (fun i a => (List.range (t.rowBytes / 32)).map fun k =>
    ({ va := vaAdd a (32 * k), spad := g.tileKey t i (32 * k) } : Sector)) rows).flatten

/-- The first fault of row addresses that must be multiples of 32. -/
def misaligned (rows : List Nat) : Option (Nat × Nat) := (rows.find? fun a => a % 32 != 0).map fun a => (ALIGN, a)

/-- Raise a completion counter at issue (R175): `none` when it would pass 65,535. -/
def Warp.raiseCtr (w : Warp) (c : Nat) : Option Warp :=
  match aget w.bound c with
  | none => some ((w.contest (1, c)).setCount c 1)
  | some n => if 65535 ≤ n then none else some (w.setCount c (n + 1))

/-- A counter falls by 1 at completion (R175). -/
def State.dropCtr (s : State) (key : Nat) (c : Option Nat) : State :=
  match c with
  | none => s
  | some c => s.modWarp key fun w => match aget w.bound c with | some n => w.setCount c (n - 1) | none => w

/-- A copy whose tile row addresses are known: every page is translated and checked, then the tile and the counter change
and the copy is outstanding (R173-R176). -/
def Env.copy (e : Env) (s : State) (isOut : Bool) (g : Group) (rows : List Nat) : State :=
  let n := e.f.d.toNat
  let t := s.tile e.w.gid n
  let secs := g.sectors t rows
  let who := e.who s
  let r : (Nat × Nat) ⊕ Lines := match misaligned rows with
    | some x => .inl x
    | none => s.transAll who (if isOut then Acc.copyOut g.cores_ else Acc.copyIn g.cores_) (secs.map Sector.va)
  match r with
  | .inl x => e.parkAll s 3 x.1 x.2
  | .inr ls =>
    let ctr := if mdB e.f 1 then some e.f.e.toNat else none
    match (match ctr with | some c => e.w.raiseCtr c | none => some e.w) with
    | none => e.holds s .counter
    | some w =>
      let c : Copy := { gid := e.w.gid, warp := e.key, ctr := ctr, isOut := isOut, tile := n, sectors := secs, who := who, lines := ls, parts := [] }
      let s := s.modTile e.w.gid n fun t => { t with state := if isOut then 3 else 1 }
      e.done { s with copies := aset s.copies s.nextId c, nextId := s.nextId + 1 } w

/-- What comes before either kind of copy: the tile's checks and holds, and POISON for `.out` of a poisoned tile (R173). -/
def Env.copyGate (e : Env) (s : State) (isOut : Bool) (k : Group → State) : State :=
  e.once s <| e.gateTile s true <|
    let n := e.f.d.toNat
    e.checkOp s (e.tileFault s n true) <|
      match aget s.groups e.w.gid with
      | none => { s with cur := none }
      | some g =>
        let t := s.tile e.w.gid n
        if isOut && t.psn then e.parkAll s 3 POISON (Config.faultAddr e.free).toNat
        else e.asking s [(n, if isOut then 3 else 0)] (k g)

/-- Row addresses of `acopy`. -/
def Env.copyRows (e : Env) (s : State) (t : Tile) : List Nat :=
  let pitch := sextN (e.addrPart s e.f.b (e.leading.getD 0)) 64
  (List.range t.nRows).map fun (i : Nat) => wrapN ((e.vaA s : Int) + (i : Int) * pitch) 64

def Env.acopy (e : Env) (s : State) (isOut : Bool) : State :=
  e.copyGate s isOut fun g =>
    if e.vaA s % 32 != 0 then e.parkAll s 3 ALIGN (e.vaA s)
    else if e.addrPart s e.f.b (e.leading.getD 0) % 32 != 0 then e.parkAll s 3 ALIGN (e.vaA s)
    else e.copy s isOut g (e.copyRows s (s.tile e.w.gid e.f.d.toNat))

def execAcopyIn (f : Fields) (s : State) : Out := issued (.acopyIn f) f s fun e s => e.acopy s false

def execAcopyOut (f : Fields) (s : State) : Out := issued (.acopyOut f) f s fun e s => e.acopy s true

/-- `acopyg` (R174): the table of row addresses is read at issue. -/
def Env.acopyg (e : Env) (s : State) (isOut : Bool) : State :=
  e.copyGate s isOut fun g =>
    let t := s.tile e.w.gid e.f.d.toNat
    let va := e.vaA s
    let who := e.who s
    match s.checkOne who { Acc.load with cores := some g.cores_ } 8 va (8 * t.nRows) with
    | .inl x => e.parkAll s 3 x.1 x.2
    | .inr ls =>
      if s.anyReset who ls then e.holds s .reset
      else
        let r := s.getBytes who ls 0 (vaRange va (8 * t.nRows))
        let b := sextN (e.addrPart s e.f.b (e.leading.getD 0)) 64
        e.copy r.2 isOut g ((List.range t.nRows).map fun i => wrapN ((word8 r.1 (8 * i) : Int) + b) 64)

def execAcopygIn (f : Fields) (s : State) : Out := issued (.acopygIn f) f s fun e s => e.acopyg s false

def execAcopygOut (f : Fields) (s : State) : Out := issued (.acopygOut f) f s fun e s => e.acopyg s true

/-- `waitz` (R177). -/
def execWaitz (f : Fields) (s : State) : Out :=
  issued (.waitz f) f s fun e s => e.once s <| e.gateTile s false <|
    match f.a with
    | .u n => if e.w.busy n.toNat then e.holds s .waitz else e.done s e.w
    | _ => e.done s e.w

/-! ### The work of a copy (R173, R176, R178) -/

/-- A copy has completed: its counter falls and what waited for it may end. -/
def State.copyDone (s : State) (id : Nat) (c : Copy) : State :=
  ((((({ s with copies := adel s.copies id }).settleHalt c.who.die).dropCtr c.warp c.ctr).settle c.warp).reapGroup c.gid)

/-- The bytes of a source sector of a `.in` copy: zeros, and true, for one of a poisoned or lost line (R176). -/
def State.sectorIn (s : State) (c : Copy) (x : Sector) : List Byte × Bool × State :=
  let k := keyOf c.lines 0 x.va
  let bad := !s.intact c.who.pkg k || !s.reaches c.who.die k || s.loadFails c.who.pkg k
  if bad then (List.replicate 32 0, true, s.loadFaulted c.who.pkg k) else (s.bytes k 32, false, s.touchLine c.who k)

/-- Read a source sector that has not been read: its bytes stand with the copy from then on. -/
def State.copyRead (s : State) (c : Copy) (i : Nat) : SectorPart × State :=
  match aget c.parts i, c.sectors[i]? with
  | some p, _ => (p, s)
  | none, none => ({ bytes := [], bad := false, done := 0 }, s)
  | none, some x =>
    if c.isOut then ({ bytes := s.bytes x.spad 32, bad := false, done := 0 }, s)
    else let r := s.sectorIn c x; ({ bytes := r.1, bad := r.2.1, done := 0 }, r.2.2)

/-- The bytes of a sector that have not been written, with their places from `base` on; of those, only the ones of a mask. -/
def SectorPart.rest (p : SectorPart) (m : BitVec 32) (base : Nat) : List (Nat × Byte) :=
  (mapFrom 0 (fun i b => (i, (base + i, b))) p.bytes).filterMap fun e =>
    if m.getLsbD e.1 && !p.done.getLsbD e.1 then some e.2 else none

/-- Read every source sector that has not been read. -/
def State.copyReads (s : State) (c : Copy) : List Nat → AMap SectorPart × State
  | [] => (c.parts, s)
  | i :: is =>
    let r := s.copyReads c is
    let p := r.2.copyRead c i
    (aset r.1 i p.1, p.2)

/-- Bytes that a copy has still to write: into a tile by their keys, out of one by their addresses. -/
def Copy.rest (c : Copy) (ps : AMap SectorPart) : List (Nat × Byte) :=
  (mapFrom 0 (fun i x => (i, x)) c.sectors).flatMap fun (e : Nat × Sector) =>
    match aget ps e.1 with
    | some p => p.rest (BitVec.allOnes 32) (if c.isOut then e.2.va else e.2.spad)
    | none => []

/-- Before its completion a copy reads the source of one sector, when it has not yet, and writes some of the sector's bytes
(R178). A write that would be reported, or that waits, comes with the completion. -/
def State.copyMove (s : State) (id i : Nat) (m : BitVec 32) : State :=
  match aget s.copies id with
  | none => s
  | some c =>
    match c.sectors[i]? with
    | none => s
    | some x =>
      if s.unitStopped c.gid || s.anyReset c.who c.lines c.isOut then s
      else
        let r := s.copyRead c i
        let s1 (done : BitVec 32) (t : State) : State :=
          { t with copies := aset t.copies id { c with parts := aset c.parts i { r.1 with done := done } } }
        if !c.isOut then s1 (r.1.done ||| m) (r.2.write (r.1.rest m x.spad))
        else if (s.storeBad c.who (keyOf c.lines 0 x.va)).isSome then s1 r.1.done r.2
        else r.2.tryAs (Trier.copy id).key fun t =>
          (Try.clean t (t.putBytes c.who c.lines 0 1 (r.1.rest m x.va))).map (s1 (r.1.done ||| m))

/-- COPY_IN_LANDED (R173): the last byte lands; a poisoned sector leaves the tile's poison flag set. -/
def State.copyInLand (s : State) (id : Nat) : State :=
  match aget s.copies id with
  | none => s
  | some c =>
    if c.isOut || s.unitStopped c.gid || s.anyReset c.who c.lines then s
    else
      let r := s.copyReads c (List.range c.sectors.length)
      let s := r.2.write (c.rest r.1)
      let s := s.modTile c.gid c.tile fun t => { t with state := 2, psn := t.psn || r.1.any fun p => p.2.bad }
      s.copyDone id c

/-- COPY_OUT_ACCEPTED (R173): the last write is accepted; a failed one is reported (R176). A first write that finds no way
waits. -/
def State.copyOutAccept (s : State) (id : Nat) : State :=
  match aget s.copies id with
  | none => s
  | some c =>
    if !c.isOut || s.unitStopped c.gid || s.anyReset c.who c.lines true then s
    else
      s.tryAs (Trier.copy id).key fun s =>
        let r := s.copyReads c (List.range c.sectors.length)
        (Try.clean s (r.2.putBytes c.who c.lines 0 1 (c.rest r.1))).map fun s =>
          (s.modTile c.gid c.tile Tile.empty).copyDone id c

def everywhere : Nat → Bool := fun _ => true

end Sys2Proof.Machine
end

