-- ==== Sys2Proof/Machine/Engines.lean ====
section
/-! DEFINITION. Capacity-tier copies (R179, R180), shadows and publish (R181-R183, R337-R340), and checksums (R184, R341). -/
namespace Sys2Proof.Machine

/-- The first fault of several in the order of R154. -/
def firstFault (fs : List (Nat × Nat)) : Option (Nat × Nat) :=
  fs.foldl (fun b f => match b with
    | none => some f
    | some x => if faultRank f.1 < faultRank x.1 then some f else some x) none

def faultOf (r : (Nat × Nat) ⊕ Lines) : List (Nat × Nat) := match r with | .inl f => [f] | .inr _ => []

/-! ### Engines -/

/-- The barrier object of an engine: read and written, of a target that `barv` accepts (R179, R213). -/
def Acc.barrier : Acc := { rd := true, wr := true, rmw := true, types := 0xF }

/-- Source and destination of an engine: CAP to GLOBAL for `apf`, GLOBAL to CAP for `aev`. What the engine reads meets the
checks of a load on poisoned and unreachable lines too (R375, R422); at issue only translation and permission are checked. -/
def Acc.engineSrc (isApf line : Bool) : Acc := { rd := true, line := line, types := if isApf then 2 else 1 }
def Acc.engineDst (isApf : Bool) : Acc := { wr := true, types := if isApf then 1 else 2 }

/-- `apf` and `aev` (R179): alignment, then the first and the last page of each range, then the barrier object. `apf` copies from
the address in B to the address in A; `aev` from the address in A to the address in B, as R179 words it, although the encodings'
table calls A the destination of both (DESIGN CHOICE, log entry 89). -/
def Env.engine (e : Env) (s : State) (isApf : Bool) : State :=
  e.once s <| e.gateTile s true <|
    let l := e.leading.getD 0
    let a := e.addrPart s e.f.a l
    let b := e.addrPart s e.f.b l
    let dst := if isApf then a else b
    let src := if isApf then b else a
    let len := e.addrPart s e.f.c l
    let bo := (e.u e.f.e.toNat).toNat
    let who := { e.who s with apf := isApf }
    let ends (x : Nat) : List Nat := if len = 0 then [] else [x, vaAdd x (len - 65536)]
    let al := [a, b, len].find? fun x => x % 65536 != 0
    match (if al.isSome || 2 ^ 36 < len then some (ALIGN, al.getD dst) else if bo % 8 != 0 then some (ALIGN, bo)
      else firstFault (faultOf (s.transAll who (Acc.engineDst isApf) (ends dst))
        ++ faultOf (s.transAll who (Acc.engineSrc isApf false) (ends src)) ++ faultOf (s.transAll who Acc.barrier [bo]))) with
    | some x => e.parkAll s 3 x.1 x.2
    | none =>
      let k := match s.transAll who Acc.barrier [bo] with | .inr ls => keyOf ls 0 bo | .inl _ => 0
      let en : Engine := { isApf := isApf, dst := dst, src := src, len := len, bo := k, boVa := bo, who := who, parts := [] }
      e.done { s with engines := aset s.engines s.nextId en, nextId := s.nextId + 1 } e.w

def execApf (f : Fields) (s : State) : Out := issued (.apf f) f s fun e s => e.engine s true

def execAev (f : Fields) (s : State) : Out := issued (.aev f) f s fun e s => e.engine s false

/-- The addresses of the lines of a page. -/
def pageLineVas (va : Nat) : List Nat := (List.range 256).map fun i => vaAdd va (256 * i)

/-- Read sector `j` of an engine's range, when it has not been read. -/
def State.engineRead (s : State) (en : Engine) (ls : Lines) (j : Nat) : SectorPart × State :=
  match aget en.parts j with
  | some p => (p, s)
  | none =>
    let r := s.getBytes en.who ls 0 (vaRange (vaAdd en.src (32 * j)) 32)
    ({ bytes := r.1, bad := false, done := 0 }, r.2)

/-- Before its completion an engine reads one sector of its range, when it has not yet, and writes some of the sector's bytes
(R178, R180). What fails, or is reported, comes with the completion. -/
def State.engineMove (s : State) (id j : Nat) (m : BitVec 32) : State :=
  match aget s.engines id with
  | none => s
  | some en =>
    if en.len ≤ 32 * j then s
    else
      let dst := vaAdd en.dst (32 * j)
      match s.transAll en.who (Acc.engineSrc en.isApf true) [vaAdd en.src (32 * j)],
          s.transAll en.who (Acc.engineDst en.isApf) [dst] with
      | .inr ls, .inr ld =>
        if s.anyReset en.who ls || s.anyReset en.who ld true then s
        else
          let r := s.engineRead en ls j
          let put (done : BitVec 32) (t : State) : State :=
            { t with engines := aset t.engines id { en with parts := aset en.parts j { r.1 with done := done } } }
          if (s.storeBad en.who (keyOf ld 0 dst)).isSome then put r.1.done r.2
          else r.2.tryAs (Trier.engine id).key fun t =>
            (Try.clean t (t.putBytes en.who ld 0 2 (r.1.rest m dst))).map (put (r.1.done ||| m))
      | _, _ => s

/-- Read some sectors of an engine's range; the bytes that remain to be written, by address. -/
def State.engineBytes (en : Engine) (ls : Lines) : List Nat → State → List (Nat × Byte) × State
  | [], s => ([], s)
  | j :: js, s =>
    let r := s.engineRead en ls j
    let q := State.engineBytes en ls js r.2
    (r.1.rest (BitVec.allOnes 32) (vaAdd en.dst (32 * j)) ++ q.1, q.2)

/-- The sectors of page `i` of an engine's range. -/
def pageSectors (i : Nat) : List Nat := (List.range 2048).map fun k => 2048 * i + k

/-- The rest of page `i` of an engine's copy: the fault that ends it early, with its line's address and the state then. An error is a set
on a die in reset, or a first write that finds no way, which the engine waits for. -/
def State.enginePage (en : Engine) (i : Nat) (s : State) : Except (Option Wait) (Option (Nat × Nat) × State) :=
  match s.transAll en.who (Acc.engineSrc en.isApf true) (pageLineVas (vaAdd en.src (65536 * i))),
      s.transAll en.who (Acc.engineDst en.isApf) (pageLineVas (vaAdd en.dst (65536 * i))) with
  | .inr ls, .inr ld =>
    if s.anyReset en.who ls || s.anyReset en.who ld true then .error none
    else
      let r := State.engineBytes en ls (pageSectors i) s
      match r.2.putBytes en.who ld 0 2 r.1 with
      | .error x => .error (some x)
      | .ok t => .ok (none, t)
  | .inl f, _ => .ok (some (f.1, s.failAddr en.who false f.2), s.loadsFaulted en.who [f])
  | _, .inl f => .ok (some (f.1, s.failAddr en.who true f.2), s)

/-- The pages after one that neither failed nor waits. -/
def afterPage (next : State → Except (Option Wait) (Option (Nat × Nat) × State)) :
    Except (Option Wait) (Option (Nat × Nat) × State) → Except (Option Wait) (Option (Nat × Nat) × State)
  | .ok (none, t) => next t
  | r => r

/-- Some pages of an engine's copy, in order, until one fails or waits. -/
def State.enginePages (en : Engine) : List Nat → State → Except (Option Wait) (Option (Nat × Nat) × State)
  | [], s => .ok (none, s)
  | i :: is, s => afterPage (State.enginePages en is) (State.enginePage en i s)

/-- The decrement of an engine's barrier object (R215): a write, which clears CKV of its page (R342). -/
def State.engineDec (s : State) (en : Engine) : Try State :=
  let s := match s.leafOf en.who.core en.who.asid en.who.ptbase en.boVa with
    | some l => if l.ckv && !inAperture en.boVa then s.clearCkv en.who en.boVa else s
    | none => s
  if isSpadKey en.bo then .ok (s.writeLe en.bo 8 (barObjStep (s.le en.bo 8)))
  else if isCapKey en.bo then .ok ((s.flushLine (lineKey en.bo) fun _ => true).writeLe en.bo 8 (barObjStep (s.le en.bo 8)))
  else s.barDecrement en.who.pkg en.bo

/-- CAP_COPY_COMPLETE (R180): the pages are copied in order until one fails, which is reported; the decrement is performed
either way. A failing line of a readable page is reported with its own cause, POISON or RLOAD (DESIGN CHOICE, log entry 67). -/
def State.engineComplete (s : State) (id : Nat) : State :=
  match aget s.engines id with
  | none => s
  | some en =>
    s.tryAs (Trier.engine id).key fun s =>
      match State.enginePages en (List.range (en.len / 65536)) s with
      | .error none => .ok s
      | .error (some x) => Try.clean s (.error x)
      | .ok r =>
        (Try.clean s (r.2.engineDec en)).map fun t =>
          let t := match r.1 with
            | some f => { t with freeN := t.freeN + 1 }.errqPut en.who.pkg en.who.errq
                { asid := en.who.asid.toNat, addr := f.2, peer := en.who.pkg, cause := f.1, src := 2, wg := en.who.wgIndex }
            | none => t
          ({ t with engines := adel t.engines id }).settleHalt en.who.die

/-! ### Shadows -/

/-- The pages of a range. -/
def pagesOfRange (va len : Nat) : List Nat := (List.range (len / 65536)).map fun i => vaAdd va (65536 * i)

/-- The checks of `shopen` and `publ` on a range (R181, R183). -/
def State.checkShadows (s : State) (w : Who) (va len : Nat) : Option (Nat × Nat) :=
  if va % 65536 != 0 || len % 65536 != 0 || 2 ^ 36 < len then some (ALIGN, va)
  else firstFault ((pagesOfRange va len).filterMap fun a =>
    match s.trans w { types := 1 } a with
    | .fault c => some (c, a)
    | .at _ (some l) => if l.shd == 0 then some (XLATE, a) else none
    | .at _ none => some (PERM, a))

/-- The leaf of a page as a walk finds it, with the key of its entry. -/
def State.pageLeaf (s : State) (w : Who) (va : Nat) : Option (Nat × Leaf) :=
  match s.walk w.die w.ptbase va with
  | .leaf key level lo hi => some (key, s.mkLeaf level lo hi)
  | .fail _ => none

/-- A copy or an engine uses a translation of a page: an invalidation of the page's translations waits for it (R176, R226). -/
def State.pageCopying (s : State) (l : Leaf) : Bool := s.inFlight.any (usesPage [l.frame, l.shadow])

/-- Invalidate a page's translations in every die of the pod, whatever the context that cached them. -/
def State.dropPage (s : State) (asid : BitVec 16) (va : Nat) (l : Leaf) : State :=
  (s.dropGpnTlb l.frame).tlbInvAddr everywhere everywhere asid va

/-- Open one page (R338): SOPEN, the sector mask, the translations of every die. -/
def State.openPage (s : State) (w : Who) (va : Nat) : State :=
  match s.pageLeaf w va with
  | none => s
  | some (key, l) =>
    if l.sopen then s
    else
      let s := s.entryWrite w.pkg (key + 8) (leBytes 8 (l.hi ||| ((1 : Word) <<< 59)).toNat)
      let s := s.modDir l.frame fun d => { d with mask := 0, opened := true }
      (s.dropPage w.asid va l).modGroup w.gid fun g => { g with shopens := g.shopens ++ [(w.ptbase.toNat, va)] }

/-- A page of a range that is not open yet, and that a copy uses. -/
def State.opensBusy (s : State) (w : Who) (va : Nat) : Bool :=
  match s.pageLeaf w va with | some (_, l) => !l.sopen && s.pageCopying l | none => false

def execShopen (f : Fields) (s : State) : Out :=
  issued (.shopen f) f s fun e s => e.once s <| e.gateTile s true <|
    let l := e.leading.getD 0
    let va := e.addrPart s f.a l
    let len := e.addrPart s f.b l
    let who := e.who s
    match s.checkShadows who va len with
    | some x => e.parkAll s 3 x.1 x.2
    | none =>
      if (pagesOfRange va len).any (s.opensBusy who) then e.holds s .copies
      else
        let s := (pagesOfRange va len).foldl (fun s a => s.openPage who a) s
        e.finish { s with nextId := s.nextId + 1 } fun w => w.fly s.nextId e.free [] 0 e.paired

/-- The sectors that the shadow did not receive take the live version's value (R339). -/
def State.fillShadow (s : State) (pkg live other : Nat) (mask : BitVec 2048) : Try State :=
  ((List.range 2048).filter fun k => !mask.getLsbD k).foldlM (fun s k =>
    s.agentWrite pkg (other * 65536 + 32 * k) (s.bytes (live * 65536 + 32 * k) 32)) s

/-- Flip one open page (R339). A shadow that finds no place waits. -/
def State.publishPage (s : State) (w : Who) (va : Nat) : Try State :=
  match s.pageLeaf w va with
  | none => .ok s
  | some (key, l) =>
    if !l.sopen then .ok s
    else
      let t := ((s.dropPage w.asid va l).flushPage l.live).flushPage l.other
      (Try.clean s (t.fillShadow w.pkg l.live l.other (s.dirEnt l.frame).mask)).map fun s =>
        let s := s.entryWrite w.pkg (key + 8) (leBytes 8 (l.hi &&& ~~~((1 : Word) <<< 59) &&& ~~~((1 : Word) <<< 61)).toNat)
        let s := (s.modDir l.frame fun d => { d with vsel := !d.vsel, opened := false }).copyVsel l.frame l.shadow
        { s with groups := s.groups.map fun (e : Nat × Group) =>
            (e.1, { e.2 with shopens := e.2.shopens.filter fun x => x != (w.ptbase.toNat, va) }) }

/-- The next page of a `publ`, in ascending order, flips (R183, R339), once the copies that use its translations have finished. -/
def State.publishStep (s : State) (id : Nat) : State :=
  match aget s.publs id with
  | none => s
  | some p =>
    let set (xs : List Nat) (t : State) : State :=
      { t with publs := if xs.isEmpty then adel t.publs id else aset t.publs id { p with pages := xs } }
    match p.pages with
    | [] => set [] s
    | x :: xs =>
      if (match s.pageLeaf p.who x with | some (_, l) => l.sopen && s.pageCopying l | none => false) then s
      else s.tryAs (Trier.publish id).key fun s => (s.publishPage p.who x).map (set xs)

/-- R183: the pages flip one at a time after the issue, and the result returns when the last has flipped. -/
def execPubl (f : Fields) (s : State) : Out :=
  issued (.publ f) f s fun e s => e.once s <| e.gateTile s true <|
    let l := e.leading.getD 0
    let va := e.addrPart s f.a l
    let len := e.addrPart s f.b l
    let who := e.who s
    match s.checkShadows who va len with
    | some x => e.parkAll s 3 x.1 x.2
    | none =>
      let s1 := if len = 0 then s
        else { s with publs := aset s.publs s.nextId { warp := e.key, who := who, pages := pagesOfRange va len } }
      e.done { s1 with nextId := s.nextId + 1 } (e.w.fly s.nextId e.free [] 0 e.paired)

/-! ### Checksums -/

/-- The checksum of the live version of a page. -/
def State.pageCrc (s : State) (l : Leaf) : Nat := crc32c (s.bytes (l.live * 65536) 65536)

/-- R184, R341: at issue CKV is set and the page's translations go, once nothing uses them; the sum follows (`ksumEnd`), and until
it stands the outstanding result shows the register's own value. Its reads meet poisoned and unreachable lines as loads do (R422).
It needs RD of the page, and faults with PERM without it: R331 does not name `kvsum` (DESIGN CHOICE, log entry 21). -/
def execKvsum (f : Fields) (s : State) : Out :=
  issued (.kvsum f) f s fun e s => e.once s <|
    if e.w.busy f.d.toNat then e.holds s .counter
    else e.gateTile s true <|
      let va := e.addrPart s f.a (e.leading.getD 0)
      let who := e.who s
      if va % 65536 != 0 then e.parkAll s 3 ALIGN va
      else
        match s.trans who { rd := true, types := 1 } va, s.pageLeaf who va with
        | .fault c, _ => e.parkAll s 3 c va
        | .at _ _, none => e.parkAll s 3 XLATE va
        | .at _ l, some (key, lf) =>
          if !(match l with | some l => l.cke | none => false) then e.parkAll s 3 PERM va
          else
            match s.transAll who { rd := true, line := true, types := 1 } (pageLineVas va) with
            | .inl x => e.parkAll s 3 x.1 x.2
            | .inr ls =>
              if s.pageCopying lf then e.holds s .copies
              else if s.anyReset who ls then e.holds s .reset
              else
                let s1 := (s.entryWrite who.pkg (key + 8) (leBytes 8 (lf.hi ||| ((1 : Word) <<< 61)).toNat)).dropPage who.asid va lf
                let k : Ksum := { warp := e.key, reg := f.d.toNat, who := who, entry := key, live := lf.live, parts := [] }
                e.uniFly { s1 with ksums := aset s1.ksums s1.nextId k } f.d.toNat (e.w.u f.d.toNat)

/-- Read one sector of the page of a `kvsum`, when it has not been read. -/
def State.ksumRead (s : State) (k : Ksum) (i : Nat) : List Byte × State :=
  match aget k.parts i with
  | some bs => (bs, s)
  | none => (s.bytes (k.live * 65536 + 32 * i) 32, s.touchLine k.who (k.live * 65536 + 32 * i))

/-- A set that the page of a `kvsum` needs stands on a die in reset (R370). -/
def State.ksumHeld (s : State) (k : Ksum) : Bool :=
  (List.range 256).any fun i => s.resetHeld k.who.die (k.live * 65536 + 256 * i) false

/-- A `kvsum` reads a sector before others: a store that races it is seen by some sectors and missed by others (R184). -/
def State.ksumMove (s : State) (id i : Nat) : State :=
  match aget s.ksums id with
  | none => s
  | some k =>
    if 2048 ≤ i || s.ksumHeld k then s
    else
      let r := s.ksumRead k i
      { r.2 with ksums := aset r.2.ksums id { k with parts := aset k.parts i r.1 } }

/-- The sectors of the page of a `kvsum` in order, those left read now. -/
def State.ksumBytes (k : Ksum) : List Nat → State → List Byte × State
  | [], s => ([], s)
  | i :: is, s =>
    let r := s.ksumRead k i
    let q := State.ksumBytes k is r.2
    (r.1 ++ q.1, q.2)

/-- The result that an outstanding register write carries. -/
def Warp.fillResult (w : Warp) (id : Nat) (n : Nat) (val : Word) : Warp :=
  { w with flights := w.flights.map fun g =>
      if g.id = id then { g with writes := g.writes.map fun p => match p.1 with
        | .u m x => (.u m (if m = n then val else x), p.2)
        | _ => p } else g }

/-- The sum of a `kvsum` stands (R341): CRC is written into the entry, CKV stays as it has become meanwhile, and the result may
return with the sum. -/
def State.ksumEnd (s : State) (id : Nat) : State :=
  match aget s.ksums id with
  | none => s
  | some k =>
    if s.ksumHeld k then s
    else
      let r := State.ksumBytes k (List.range 2048) s
      let c := crc32c r.1
      let s := r.2.entryWrite k.who.pkg (k.entry + 8) (leBytes 4 c)
      { s.modWarp k.warp (fun w => w.fillResult id k.reg (BitVec.ofNat 64 c)) with ksums := adel s.ksums id }

end Sys2Proof.Machine
end

