-- ==== Sys2Proof/Machine/Array.lean ====
section
/-! DEFINITION. The matrix engine's arithmetic and shared steps: accumulator elements (R39-R41, R289), operand tiles (R191,
R282, R286), interlocks, grants, and the issue and completion of an instruction of groups 0xB and 0xC (R187, R278, R284). -/
namespace Sys2Proof.Machine

/-! ### Configuration (R190) -/

def MatCfg.afmt (c : MatCfg) : Nat := bitsN c.toNat 0 5
def MatCfg.wfmt (c : MatCfg) : Nat := bitsN c.toNat 5 5
def MatCfg.mode (c : MatCfg) : Nat := bitsN c.toNat 10 2
def MatCfg.width (c : MatCfg) : Nat := 2 ^ bitsN c.toNat 12 2
def isI8 (t : Nat) : Bool := t == 3 || t == 4
def MatCfg.isInt (c : MatCfg) : Bool := isI8 c.afmt
def MatCfg.isL6 (c : MatCfg) : Bool := c.afmt == 0x0E
def MatCfg.isFloat (c : MatCfg) : Bool := c.mode == 0

/-- Whether an integer element of a role is read as signed (R191). -/
def MatCfg.signedAs (c : MatCfg) (act : Bool) (tag : Nat) : Bool :=
  if act then (if c.getLsbD 14 then c.getLsbD 15 else fmtSigned tag)
  else (if c.getLsbD 16 then c.getLsbD 17 else fmtSigned tag)

/-- A tile's tag meets the configuration's format for its role (R191). -/
def roleOk (tag want : Nat) : Bool := tag == want || (isI8 tag && isI8 want)

/-! ### AF96 and the trees (R39, R41) -/

def fAF (x : BitVec 96) : FVal := ffDecode ffAF96 x.toNat

/-- An exact value, infinity or NaN rounded into a format, nearest-even. -/
def roundV (p : FF) (sat : Bool) (v : FVal) : Nat :=
  match v with
  | .nan _ => ffNan p
  | .inf n => (ffInfSat p sat n).1
  | .fin n m e => (ffRound p 0 sat n m 1 e).1

def roundAF (v : FVal) : BitVec 96 := BitVec.ofNat 96 (roundV ffAF96 false v)

/-- a + b in AF96, as a value. -/
def addAF (a b : FVal) : FVal := ffDecode ffAF96 (fAdd ffAF96 0 false a b).1

def zeroF : FVal := .fin false 0 0

def pairUp {α : Type} (g : α → α → α) : List α → List α
  | a :: b :: r => g a b :: pairUp g r
  | xs => xs

/-- The fixed tree over `2 ^ n` leaves. -/
def treeN {α : Type} (g : α → α → α) : Nat → List α → List α
  | 0, xs => xs
  | n + 1, xs => treeN g n (pairUp g xs)

/-- The leaves padded to `2 ^ n` and summed in AF96 (R41). -/
def treeAF (n : Nat) (xs : List FVal) : FVal :=
  (treeN addAF n (xs ++ List.replicate (2 ^ n - xs.length) zeroF)).headD zeroF

/-- The factor of a pair of block scales (R37). -/
def scaleVal (k : Int) : FVal := .fin false (sc8Factor k).1 (sc8Factor k).2

/-! ### Products and the addition by form (R35, R40, R193) -/

/-- An element of a product operand. -/
inductive MEl where
  | f (v : FVal)
  | i (x : Int)
  | l (code : Nat)
  deriving DecidableEq, Repr

def MEl.special : MEl → Bool
  | .f (.nan _) => true
  | .f (.inf _) => true
  | _ => false

/-- The magnitude of an L6 product in units of 2^-48. -/
def l6Prod (a b : Nat) (k : Int) : Int :=
  if l6Zero a || l6Zero b then 0
  else
    let e := l6E a + l6E b + k
    let i := e / 4 + 17
    let t := l6T (Int.toNat (e % 4))
    let m := if 0 ≤ i then t * 2 ^ i.toNat else roundMag 0 false t (2 ^ (-i).toNat)
    if bitsN a 5 1 != bitsN b 5 1 then -(m : Int) else m

/-- The pass sum over one block of products, as the addend of an accumulator: exact, or the AF96 tree times its scales. -/
inductive Pass where
  | f (sum scale : FVal)
  | i (sum : Int)
  deriving DecidableEq, Repr

/-- A product of two elements; a special one counts as zero. -/
def prodF : MEl → MEl → FVal
  | .f a, .f b => if (MEl.f a).special || (MEl.f b).special then zeroF else (fMulExact a b).getD zeroF
  | _, _ => zeroF

def prodI (k : Int) : MEl → MEl → Int
  | .i a, .i b => a * b
  | .l a, .l b => l6Prod a b k
  | _, _ => 0

/-- One pass of up to 128 products with scales of sum `k` (R41, R37, R35). -/
def passSum (isFloat : Bool) (k : Int) (as bs : List MEl) : Pass :=
  if isFloat then .f (treeAF 7 (List.zipWith prodF as bs)) (scaleVal k)
  else .i ((List.zipWith (prodI k) as bs).foldl (· + ·) 0)

/-- Addition of a pass to an element by the mode's form (R40). -/
def addByForm (mode : Nat) (el : BitVec 96) (p : Pass) : BitVec 96 :=
  match p with
  | .f sum scale => BitVec.ofNat 96 (fFma ffAF96 0 false sum scale (fAF el)).1
  | .i x =>
    let v := el.toInt + x
    if mode = 2 then BitVec.ofInt 96 (sextN (wrapN v 32) 32)
    else if mode = 3 then BitVec.ofInt 96 (satInt v 32 true)
    else BitVec.ofInt 96 v

/-! ### The accumulator store (R289) -/

/-- Two sorted lists as one. -/
def amerge {α : Type} : Nat → AMap α → AMap α → AMap α
  | 0, a, _ => a
  | _ + 1, [], b => b
  | _ + 1, a, [] => a
  | n + 1, (k, v) :: a, (k', v') :: b =>
    if k < k' then (k, v) :: amerge n a ((k', v') :: b)
    else if k = k' then (k', v') :: amerge n a b
    else (k', v') :: amerge n ((k, v) :: a) b

/-- The entries `xs` take the place of those of `m` under the keys that `into` names, which are theirs. -/
def aputs {α : Type} (into : Nat → Bool) (m xs : AMap α) : AMap α :=
  amerge (m.length + xs.length) (m.filter fun e => !into e.1) xs

/-- The keys, on core `k`, of the elements in rows `r0 …` and global columns `c0 …`. -/
def inRegion (r0 nr c0 nc k x : Nat) : Bool :=
  r0 ≤ x / 256 && x / 256 < r0 + nr && c0 ≤ 256 * k + x % 256 && 256 * k + x % 256 < c0 + nc

def AccEl.zero : AccEl := { v := 0, sp := false }

def MatCore.el (c : MatCore) (r col : Nat) : AccEl := (aget c.acc (256 * r + col)).getD AccEl.zero

def Group.mc (g : Group) (k : Nat) : MatCore := g.cores.getD k MatCore.init

/-- An element by its global column (R186). -/
def Group.el (g : Group) (r c : Nat) : AccEl := (g.mc (c / 256)).el r (c % 256)

def Group.modCore (g : Group) (k : Nat) (h : MatCore → MatCore) : Group := { g with cores := modAt g.cores k h }

/-- Change the elements of rows `r0 …` and global columns `c0 …`: `h i j` acts on the element of offset (i, j). -/
def Group.mapRegion (g : Group) (r0 nr c0 nc : Nat) (h : Nat → Nat → AccEl → AccEl) : Group :=
  (List.range 4).foldl (fun (g : Group) k =>
    let cols := (List.range 256).filter fun c => c0 ≤ 256 * k + c && 256 * k + c < c0 + nc
    if cols.isEmpty then g
    else g.modCore k fun (m : MatCore) =>
      { m with acc := aputs (inRegion r0 nr c0 nc k) m.acc ((List.range nr).flatMap fun i => cols.map fun c =>
          (256 * (r0 + i) + c, h i (256 * k + c - c0) (m.el (r0 + i) c))) }) g

def Group.row (g : Group) (r : Nat) : RowState := g.rows.getD r RowState.init
def Group.modRow (g : Group) (r : Nat) (h : RowState → RowState) : Group := { g with rows := modAt g.rows r h }

/-! ### Operand tiles (R191, R282) -/

def Tile.tag (t : Tile) : Nat := t.fmt.toNat

/-- Elements that a row holds. -/
def Tile.perRow (t : Tile) : Nat := if t.tag == 0x0E then t.rowBytes / 8 * 10 else t.rowBytes * 8 / fmtWidth t.tag

/-- The little-endian number of `n` bytes of a tile row. -/
def State.tileNum (s : State) (g : Group) (t : Tile) (i b n : Nat) : Nat :=
  leNat ((List.range n).map fun k => memGet s.mem (g.tileKey t i (b + k)))

/-- The bits of element `j` of row `i`. -/
def State.tileEl (s : State) (g : Group) (t : Tile) (i j : Nat) : Nat :=
  if t.tag == 0x0E then bitsN (s.tileNum g t i (8 * (j / 10)) 8) (6 * (j % 10)) 6
  else if fmtWidth t.tag == 4 then bitsN (s.tileNum g t i (j / 2) 1) (4 * (j % 2)) 4
  else s.tileNum g t i (fmtWidth t.tag / 8 * j) (fmtWidth t.tag / 8)

/-- An element as a product operand. -/
def matEl (c : MatCfg) (act : Bool) (tag x : Nat) : MEl :=
  if tag == 0x0E then .l x
  else if isI8 tag then .i (if c.signedAs act tag then sextN x 8 else x)
  else .f (fmtValue tag x)

/-- Bytes of element `j` of a destination row of format `t`. -/
def Group.elBytes (g : Group) (t : Tile) (i j x : Nat) : List (Nat × Byte) :=
  let n := fmtWidth t.tag / 8
  mapFrom 0 (fun k b => (g.tileKey t i (n * j + k), b)) (leBytes n x)

/-- The detector's formats (R282). -/
def detected (tag : Nat) : Bool := fmtFloat tag

def isNanEl : MEl → Bool
  | .f (.nan _) => true
  | _ => false

def isInfEl : MEl → Bool
  | .f (.inf _) => true
  | _ => false

def bit256 (p : Nat → Bool) : BitVec 256 :=
  BitVec.ofNat 256 ((List.range 256).foldl (fun a i => if p i then a + 2 ^ i else a) 0)

/-- Row flags of a tile fetched as an activation operand of the given rows (R282). -/
def Tile.flagRows (t : Tile) (rows : List (List MEl)) : Tile :=
  let has (q : MEl → Bool) (i : Nat) : Bool := match rows[i]? with | some r => r.any q | none => false
  { t with nanRow := t.nanRow ||| bit256 (has isNanEl), infRow := t.infRow ||| bit256 (has isInfEl) }

/-- Column flags of a tile fetched as a weight operand: `cols` lists the fetched columns (R282). -/
def Tile.flagCols (t : Tile) (cols : List (List MEl)) : Tile :=
  let has (q : MEl → Bool) (b : Nat) : Bool :=
    (mapFrom 0 (fun j c => j % 256 == b && c.any q) cols).any id
  { t with nanCol := t.nanCol ||| bit256 (has isNanEl), infCol := t.infCol ||| bit256 (has isInfEl) }

/-! ### Holds (R187) -/

def rangesMeet (a b : Nat × Nat) : Bool := a.1 < b.2 && b.1 < a.2

/-- Some range of one list meets some range of another. -/
def anyMeet (xs ys : List (Nat × Nat)) : Bool := xs.any fun x => ys.any fun y => rangesMeet x y

/-- Two instructions share matrix state. Those that only read a plane, or its pointer, do not share it (R288). -/
def Foot.shares (a b : Foot) : Bool :=
  (rangesMeet a.rows b.rows && ((a.rowSt && b.rowSt) || anyMeet a.cols b.cols))
  || anyMeet a.rsum b.rsum || anyMeet a.csum b.csum
  || (a.wr &&& (b.rd ||| b.wr)) != 0 || (b.wr &&& a.rd) != 0

def isAttn : Instr → Bool
  | .attn _ => true
  | _ => false

def isMmul : Instr → Bool
  | .mmul _ => true
  | _ => false

def isMldw : Instr → Bool
  | .mldw _ => true
  | _ => false

/-- An instruction under way shares state with one that touches `b`, which therefore does not overlap it (R187). A plane that
it has finished reading it no longer shares (R192, R288). -/
def MOp.bars (m : MOp) (b : Foot) : Bool := { m.foot with rd := if m.fed then 0 else m.foot.rd }.shares b

def State.unit (s : State) (e : Env) : Group :=
  (aget s.groups e.w.gid).getD (mkGroup (parseRecord []) 0 0 0 [])

/-- What every instruction of groups 0xB and 0xC meets first: the guard, the tiles it names (R169, R187, R283), what it asks of
their entries (R284), the earlier instructions that share state with it, and a poisoned source. -/
def Env.matrix (e : Env) (s : State) (foot : Foot) (srcs : List Nat) (dst : Option Nat) (k : Group → State) : State :=
  e.once s <|
    let g := s.unit e
    let named := match dst with | some d => d :: srcs | none => srcs
    match named.findSome? fun n => e.tileFault s n true with
    | some c => e.parkAll s 3 c (Config.faultAddr e.free).toNat
    | none =>
      e.asking s (srcs.map (fun n => (n, 2)) ++ match dst with | some d => [(d, 0)] | none => []) <|
      if g.mops.any fun m => m.bars foot then e.holds s .interlock
      else if srcs.any fun n => (g.tiles.getD n Tile.void).psn then e.parkAll s 3 POISON (Config.faultAddr e.free).toNat
      else k g

/-- A linked scale tile is named too (R284, R286). -/
def Group.withScale (g : Group) (n : Nat) : List Nat :=
  let t := g.tiles.getD n Tile.void
  if t.scl then [n, t.sct.toNat] else [n]

/-- The checks on a linked scale tile of an operand of format `fmt` (R36, R37, R286). -/
def Group.scaleFault (g : Group) (n rows bytes : Nat) : Option Nat :=
  let t := g.tiles.getD n Tile.void
  if !t.scl then none
  else
    let sc := g.tiles.getD t.sct.toNat Tile.void
    if sc.tag != 0x0F || !(t.tag == 0x0E || t.tag == 0x0C || t.tag == 0x0D) then some FMT
    else if sc.nRows != rows || sc.rowBytes < bytes then some SCALE
    else none

/-- A scale tile linked to an operand whose format takes none (R37, R286): the fault that it raises. -/
def Env.linkFault (e : Env) (s : State) (g : Group) (n : Nat) : Option Nat :=
  let t := g.tiles.getD n Tile.void
  if !t.scl then none
  else match e.tileFault s t.sct.toNat true with
    | some c => some c
    | none => g.scaleFault n 0 0

/-- Byte `b` of row `i` of the scale tile linked to a tile, as a signed scale; 0 without one. -/
def State.scaleByte (s : State) (g : Group) (n i b : Nat) : Int :=
  let t := g.tiles.getD n Tile.void
  if t.scl then sextN (s.tileNum g (g.tiles.getD t.sct.toNat Tile.void) i b 1) 8 else 0

/-- The first fault among several conditions. -/
def firstOf (xs : List (Bool × Nat)) : Option Nat := (xs.find? fun x => x.1).map Prod.snd

/-- A fault of the formats, else one of a scale link, else one of the extents. -/
def firstFault3 (fmts : List (Bool × Nat)) (link : Option Nat) (tiles : List (Bool × Nat)) : Option Nat :=
  (firstOf fmts).orElse fun _ => link.orElse fun _ => firstOf tiles

/-! ### Issue and completion -/

/-- The listed bytes of the scratchpads on which a unit stands. -/
def Group.spadBytes (g : Group) (s : State) : List Host.Cell :=
  s.mem.filter fun c => isSpadKey c.1 && g.wgs.any fun w => w.core == (c.1 - 2 ^ 80) / 2 ^ 20

/-- What an instruction leaves to do once it has issued. -/
structure MatIssue where
  srcs : List Nat := []
  dst : Option Nat := none
  ctr : Option Nat := none
  out : List (Nat × Byte) := []
  desc : List Byte := []
  regs : List Nat := []
  heavy : Option Nat := none      -- units that its power grant charges (R458)
  access : Option (Who × Lines) := none
  left : List (Nat × Byte) := []
  foot : Foot

/-- The instruction issues: the unit's state is `g`, its destination tile fills, and it completes later. A heavy one uses a
held grant or asks for one (R219, R278). The warp `w` has raised its counter. -/
def Env.matIssue (e : Env) (s : State) (i : Instr) (g : Group) (w : Warp) (x : MatIssue) : State :=
  let id := s.nextId
  let held := x.heavy.isSome && g.grants != 0
  let m : MOp := { id := id, instr := i, src := x.srcs, dst := x.dst, ctr := x.ctr, out := x.out, desc := x.desc,
                   granted := x.heavy.isNone || held, fed := false, pc := e.pc, foot := x.foot, regs := x.regs,
                   access := x.access, left := x.left,
                   seen := if x.srcs.isEmpty then [] else (s.unit e).spadBytes s,
                   was := if x.srcs.isEmpty then ([], []) else ((s.unit e).cores, (s.unit e).rows) }
  let g := { g with mops := g.mops ++ [m], grants := if held then g.grants - 1 else g.grants,
                    tiles := match x.dst with
                      | some d => modAt g.tiles d fun t => { t with state := 1 }
                      | none => g.tiles }
  let s := { s.setGroup e.w.gid g with nextId := id + 1 }
  let s := match x.heavy with
    | some u =>
      if held then s
      else s.requestGrant (dieOf e.w.core)
        { gid := e.w.gid, mop := some id, n := 1, units := u,
          prio := match aget s.launches g.lid with | some l => l.record.prio | none => 0 }
    | none => s
  e.done s (w.fly id e.free [] 0 e.paired)

/-- An instruction that has completed leaves the unit: its bytes stand in its tile, which is READY, its counter has fallen,
and the switch marker that waits for it sees its result (R187). -/
def State.matFinish (s : State) (gid : Nat) (m : MOp) : State :=
  match aget s.groups gid with
  | none => s
  | some g =>
    let g := { g with mops := g.mops.filter fun x => x.id != m.id,
                      tiles := match m.dst with
                        | some d => modAt g.tiles d fun t => { t with state := 2 }
                        | none => g.tiles }
    let s := (s.setGroup gid g).write m.out
    match g.seq with
    | none => s.reapGroup gid
    | some k =>
      (((s.flightDone k m.id).dropCtr k m.ctr).settle k).reapGroup gid

end Sys2Proof.Machine
end

