-- ==== Sys2Proof/Machine/Matrix.lean ====
section
/-! DEFINITION. Group 0xB, the matrix engine (R190-R197, R287-R292). -/
namespace Sys2Proof.Machine

def noRows : Nat × Nat := (0, 0)

/-- The footprint of a region's elements. -/
def regionFoot (f : Fields) (rowSt : Bool) : Foot :=
  { rows := (rowN f, rowN f + nrN f), cols := [(colN f, colN f + ncN f)], rowSt := rowSt, rd := 0, wr := 0 }

def Group.width (g : Group) : Nat := g.cfg.width

/-- The footprint of `mdrain`, which reads sums only where it corrects for zero points (R197). -/
def drainFoot (f : Fields) : Foot :=
  { regionFoot f false with rsum := if mdB f 1 then [(rowN f, rowN f + nrN f)] else [],
                            csum := if mdB f 1 then [(colN f, colN f + ncN f)] else [] }

/-- Columns of core `k` among `n` (R192). -/
def coreCols (n k : Nat) : Nat := min 256 (n - 256 * k)

/-- The most columns that one core holds of global columns from `c` on. -/
def maxCols (c n : Nat) : Nat :=
  (List.range 4).foldl (fun a k => max a (min (c + n) (256 * k + 256) - max c (256 * k))) 0

/-! ### Configuration and planes -/

/-- R190. -/
def execMcfg (f : Fields) (s : State) : Out :=
  issued (.mcfg f) f s fun e s =>
    e.matrix s { rows := (0, 128), cols := [(0, 1024)], rowSt := true, rd := 7, wr := 7 } [] none fun g =>
      let c : MatCfg := BitVec.ofNat 18 (mdN f 0 18)
      let coop := match s.recOf e.w with | some r => r.coop | none => 1
      if coop < c.width then e.parkAll s 3 PERM (Config.faultAddr e.free).toNat
      else if !g.mops.isEmpty then e.holds s .interlock
      else
        let clear (p : Plane) : Plane := { p with valid := false }
        let g := { g with cfg := c, cores := g.cores.map fun (m : MatCore) => { m with plane0 := clear m.plane0, plane1 := clear m.plane1 } }
        e.matIssue s (.mcfg f) g e.w { foot := { rows := noRows, cols := [], rowSt := false, rd := 7, wr := 7 } }

/-- Instructions that touch planes only: what they read and write of planes 0 and 1 and of the pointer. -/
def planeFoot (rd wr : BitVec 3) : Foot := { rows := noRows, cols := [], rowSt := false, rd := rd, wr := wr }

/-- The active plane of a core, and the other one, as bits of a footprint. -/
def MatCore.activeBit (m : MatCore) : BitVec 3 := if m.active then 2 else 1
def MatCore.otherBit (m : MatCore) : BitVec 3 := if m.active then 1 else 2

/-- The planes that some cores' footprints name. -/
def orBits (xs : List (BitVec 3)) : BitVec 3 := xs.foldl (· ||| ·) 0

def MatCore.activeP (m : MatCore) : Plane := if m.active then m.plane1 else m.plane0
def MatCore.otherP (m : MatCore) : Plane := if m.active then m.plane0 else m.plane1
def MatCore.setActive (m : MatCore) (p : Plane) : MatCore := if m.active then { m with plane1 := p } else { m with plane0 := p }
def MatCore.setOther (m : MatCore) (p : Plane) : MatCore := if m.active then { m with plane0 := p } else { m with plane1 := p }

/-- The 16 bits that a plane keeps of a weight: an integer's value, else the element's bits. -/
def weightBits (x : Nat) : MEl → BitVec 16
  | .i v => BitVec.ofInt 16 v
  | _ => BitVec.ofNat 16 x

/-- A weight of a plane as a product operand. -/
def Plane.weight (p : Plane) (c : MatCfg) (t col : Nat) : MEl :=
  let x := (aget p.w (128 * t + col)).getD 0
  if c.isInt then .i x.toInt
  else if c.isL6 then .l (x.toNat % 64)
  else .f (fmtValue c.wfmt x.toNat)

/-- Columns `c0 … c0 + n - 1` of a weight tile as a plane (R192). -/
def State.loadPlane (s : State) (g : Group) (e n k : Nat) (half : BitVec 2) (c0 cn : Nat) : Plane :=
  let t := g.tiles.getD e Tile.void
  let raw (i j : Nat) : Nat := s.tileEl g t i (c0 + j)
  let el (i j : Nat) : MEl := matEl g.cfg false t.tag (raw i j)
  { valid := true, half := half, k := k, n := cn,
    special := BitVec.ofNat 128 ((List.range cn).foldl (fun a j =>
      if (List.range k).any fun i => (el i j).special then a + 2 ^ j else a) 0),
    scale := if t.scl && c0 < n then
        (List.range cn).map fun j => BitVec.ofInt 8 (s.scaleByte g e 0 (c0 + j))
      else [],
    w := (List.range k).flatMap fun i => (List.range cn).map fun j => (128 * i + j, weightBits (raw i j) (el i j)) }

/-- Whether an `mldw` of `cols` columns is a wide one (R192). -/
def wideLoad (cols : Nat) : Bool := 128 < coreCols cols 0

/-- The planes that `mldw` loads (R192). -/
def State.mldwOn (s : State) (g : Group) (f : Fields) : Group :=
  let n := f.e.toNat
  let k := bitsN (immN f) 0 7 + 1
  let cols := bitsN (immN f) 7 10 + 1
  (List.range g.width).foldl (fun (h : Group) c =>
    let nk := coreCols cols c
    h.modCore c fun m =>
      if wideLoad cols then
        (m.setOther (s.loadPlane g n cols k 1 (256 * c) (min 128 nk))).setActive
          (s.loadPlane g n cols k 2 (256 * c + 128) (nk - 128))
      else m.setOther (s.loadPlane g n cols k 0 (256 * c) nk)) g

/-- The columns that `mldw` fetches. -/
def State.mldwCols (s : State) (g : Group) (f : Fields) : List (List MEl) :=
  let t := g.tiles.getD f.e.toNat Tile.void
  (List.range (bitsN (immN f) 7 10 + 1)).map fun j =>
    (List.range (bitsN (immN f) 0 7 + 1)).map fun i => matEl g.cfg false t.tag (s.tileEl g t i j)

/-- R192. -/
def execMldw (f : Fields) (s : State) : Out :=
  issued (.mldw f) f s fun e s =>
    let n := f.e.toNat
    let k := bitsN (immN f) 0 7 + 1
    let cols := bitsN (immN f) 7 10 + 1
    let g0 := s.unit e
    let foot := planeFoot 4 (if wideLoad cols then 3 else orBits ((List.range g0.width).map fun c => (g0.mc c).otherBit))
    e.matrix s foot (g0.withScale n) none fun g =>
      let t := g.tiles.getD n Tile.void
      match firstOf [(!roleOk t.tag g.cfg.wfmt, FMT)], g.scaleFault n 1 cols,
          firstOf [(256 * g.width < cols || t.nRows < k || t.perRow < cols, TILE)] with
      | some c, _, _ => e.parkAll s 3 c (Config.faultAddr e.free).toNat
      | none, some c, _ => e.parkAll s 3 c (Config.faultAddr e.free).toNat
      | none, none, some c => e.parkAll s 3 c (Config.faultAddr e.free).toNat
      | none, none, none =>
        -- a wide load waits for every earlier `mmul`, a narrow one for those that still read the plane that it writes
        if g.mops.any fun m => isMmul m.instr && (wideLoad cols || (!m.fed && (m.foot.rd &&& foot.wr) != 0)) then e.holds s .interlock
        else e.matIssue s (.mldw f) (s.mldwOn g f) e.w { srcs := g0.withScale n, foot := foot }

/-- R192: the active pointer of cores 0 to W − 1 flips, once every earlier `mldw` has finished writing and every earlier `mmul`
reading. -/
def execMswap (f : Fields) (s : State) : Out :=
  issued (.mswap f) f s fun e s =>
    e.matrix s (planeFoot 4 4) [] none fun g =>
      if g.mops.any fun m => (isMmul m.instr && !m.fed) || isMldw m.instr then e.holds s .interlock
      else
        let g := (List.range g.width).foldl (fun (g : Group) c => g.modCore c fun m => { m with active := !m.active }) g
        e.matIssue s (.mswap f) g e.w { foot := planeFoot 4 4 }

/-! ### Products -/

/-- Columns of a core's active plane, with the HI plane of a wide load (R287). Where a later narrow `mldw` has overwritten the HI
plane, those of the LO plane alone are left (DESIGN CHOICE, log entry 115: R193 does not say which n_k an `mmul` then has). -/
def MatCore.planeCols (m : MatCore) : Nat :=
  m.activeP.n + (if m.activeP.half == 1 && m.otherP.valid && m.otherP.half == 2 then m.otherP.n else 0)

/-- The planes that an `mmul` reads on a core, as bits of a footprint. -/
def MatCore.readBits (m : MatCore) : BitVec 3 :=
  m.activeBit ||| (if m.activeP.half == 1 && m.otherP.valid && m.otherP.half == 2 then m.otherBit else 0)

/-- The plane and its column for local column `c` (R193). -/
def MatCore.planeFor (m : MatCore) (c : Nat) : Plane × Nat := (if c < 128 then m.activeP else m.otherP, c % 128)

/-- The elements of activation row `m`: the first `k`. -/
def State.actRow (s : State) (g : Group) (t : Tile) (m k : Nat) : List MEl :=
  (List.range k).map fun j => matEl g.cfg true t.tag (s.tileEl g t m j)

/-- One element's new value (R193): `old` is zero for `.set`. -/
def mmulEl (cfg : MatCfg) (set : Bool) (row : List MEl) (ka : Int) (p : Plane) (c : Nat) (old : AccEl) : AccEl :=
  let ws := (List.range p.k).map fun t => p.weight cfg t c
  let kb : Int := ((p.scale[c]?).map fun b => sextN b.toNat 8).getD 0
  let pass := passSum cfg.isFloat (ka + kb) (row.take p.k) ws
  let sp := (row.take p.k).any MEl.special || p.special.getLsbD c
  if set then { v := addByForm cfg.mode 0 pass, sp := sp }
  else { v := addByForm cfg.mode old.v pass, sp := old.sp || sp }

/-- Rows entering the array per cycle, and the charge per cycle of occupancy (R287, R458). -/
def MatCfg.rate (c : MatCfg) : Nat := if c.isL6 then 4 else if c.afmt == 0x10 || c.afmt == 0x11 then 1 else 2
def MatCfg.charge (c : MatCfg) : Nat := if c.isL6 then 2 else if c.afmt == 0x10 || c.afmt == 0x11 then 4 else 3

/-- Elements of each activation row that some core's plane meets. -/
def Group.kMax (g : Group) : Nat := (List.range g.width).foldl (fun a k => max a (g.mc k).activeP.k) 0

/-- The activation rows that `mmul` fetches. -/
def State.mmulRows (s : State) (g : Group) (f : Fields) : List (List MEl) :=
  let t := g.tiles.getD f.e.toNat Tile.void
  (List.range t.nRows).map fun m => s.actRow g t m g.kMax

/-- The elements that `mmul` leaves in its region (R193), from the cores of `was`. -/
def State.mmulOn (s : State) (g was : Group) (f : Fields) : Group :=
  let row := rowN f
  let col := bitsN (immN f) 7 8
  let rows := s.mmulRows was f
  (List.range g.width).foldl (fun (h : Group) k =>
    let c0 := was.mc k
    h.modCore k fun m =>
      let els := ((mapFrom 0 (fun i r => (i, r)) rows).map fun (p : Nat × List MEl) =>
        (List.range c0.planeCols).map fun c =>
          let pc := c0.planeFor c
          (256 * (row + p.1) + col + c,
           mmulEl g.cfg (mdB f 0) p.2 (s.scaleByte was f.e.toNat p.1 0) pc.1 pc.2 (c0.el (row + p.1) (col + c)))).flatten
      { m with acc := aputs (inRegion row rows.length (256 * k + col) c0.planeCols k) m.acc els }) g

/-- R193. -/
def execMmul (f : Fields) (s : State) : Out :=
  issued (.mmul f) f s fun e s =>
    let n := f.e.toNat
    let g0 := s.unit e
    let t0 := g0.tiles.getD n Tile.void
    let row := rowN f
    let col := bitsN (immN f) 7 8
    let foot : Foot := { rows := (row, row + t0.nRows), rowSt := false, wr := 0,
                         rd := 4 ||| orBits ((List.range g0.width).map fun k => (g0.mc k).readBits),
                         cols := (List.range g0.width).map fun k => (256 * k + col, 256 * k + col + (g0.mc k).planeCols) }
    e.matrix s foot (g0.withScale n) none fun g =>
      let t := g.tiles.getD n Tile.void
      let ms := t.nRows
      let cores := List.range g.width
      match firstOf [(!roleOk t.tag g.cfg.afmt, FMT)], g.scaleFault n ms 1,
          firstOf [(cores.any fun k => !(g.mc k).activeP.valid || (g.mc k).activeP.half == 2, TILE),
                   (128 < ms || 128 < row + ms, TILE),
                   (cores.any fun k => 256 < col + (g.mc k).planeCols || t.perRow < (g.mc k).activeP.k, TILE)] with
      | some c, _, _ => e.parkAll s 3 c (Config.faultAddr e.free).toNat
      | none, some c, _ => e.parkAll s 3 c (Config.faultAddr e.free).toNat
      | none, none, some c => e.parkAll s 3 c (Config.faultAddr e.free).toNat
      | none, none, none =>
        let h := if cores.any fun k => 128 < (g.mc k).planeCols then 2 else 1
        e.matIssue s (.mmul f) (s.mmulOn g g f) e.w
          { srcs := g0.withScale n, foot := foot, heavy := some (h * ((ms + g.cfg.rate - 1) / g.cfg.rate) * g.cfg.charge) }

/-- R194. -/
def execMzero (f : Fields) (s : State) : Out :=
  issued (.mzero f) f s fun e s =>
    e.matrix s (regionFoot f false) [] none fun g =>
      if 256 * g.width < colN f + ncN f then e.parkAll s 3 TILE (Config.faultAddr e.free).toNat
      else
        e.matIssue s (.mzero f) (g.mapRegion (rowN f) (nrN f) (colN f) (ncN f) fun _ _ _ => AccEl.zero) e.w
          { foot := regionFoot f false }

/-! ### Row and column sums (R195) -/

/-- The integer value of an element, 0 for one that is none. -/
def MEl.int : MEl → Int
  | .i x => x
  | _ => 0

def wrap64 (x : Int) : Word := BitVec.ofInt 64 x

/-- The footprint of an instruction that touches sums only: of some rows, or of some global columns. -/
def sumFoot (rs cs : List (Nat × Nat)) : Foot := { rows := noRows, cols := [], rowSt := false, rd := 0, wr := 0, rsum := rs, csum := cs }

/-- The row sums that `mrsum` leaves, from those of `was`. -/
def State.mrsumOn (s : State) (g was : Group) (f : Fields) : Group :=
  let t := g.tiles.getD f.e.toNat Tile.void
  let row := bitsN (immN f) 0 7
  (List.range t.nRows).foldl (fun (h : Group) i =>
    let x := ((s.actRow g t i (bitsN (immN f) 7 7 + 1)).map MEl.int).foldl (· + ·) 0
    h.modRow (row + i) fun r => { r with rowsum := if mdB f 0 then (was.row (row + i)).rowsum + wrap64 x else wrap64 x }) g

def execMrsum (f : Fields) (s : State) : Out :=
  issued (.mrsum f) f s fun e s =>
    let n := f.e.toNat
    let row := bitsN (immN f) 0 7
    let k := bitsN (immN f) 7 7 + 1
    let foot := sumFoot [(row, row + ((s.unit e).tiles.getD n Tile.void).nRows)] []
    e.matrix s foot [n] none fun g =>
      let t := g.tiles.getD n Tile.void
      match firstFault3 [(!g.cfg.isInt || !isI8 t.tag, FMT)] (e.linkFault s g n) [(128 < row + t.nRows || t.perRow < k, TILE)] with
      | some c => e.parkAll s 3 c (Config.faultAddr e.free).toNat
      | none => e.matIssue s (.mrsum f) (s.mrsumOn g g f) e.w { srcs := [n], foot := foot }

/-- The column sums that `mcsum` leaves, from those of `was`. -/
def State.mcsumOn (s : State) (g was : Group) (f : Fields) : Group :=
  let t := g.tiles.getD f.e.toNat Tile.void
  let cols := bitsN (immN f) 7 10 + 1
  let col := bitsN (immN f) 17 8
  let colSum (j : Nat) : Int :=
    ((List.range (bitsN (immN f) 0 7 + 1)).map fun i => (matEl g.cfg false t.tag (s.tileEl g t i j)).int).foldl (· + ·) 0
  (List.range g.width).foldl (fun (h : Group) c =>
    h.modCore c fun m =>
      { m with colsum := aputs (fun x => col ≤ x && x < col + coreCols cols c) m.colsum ((List.range (coreCols cols c)).map fun j =>
          let x := wrap64 (colSum (256 * c + j))
          (col + j, if mdB f 0 then (aget (was.mc c).colsum (col + j)).getD 0 + x else x)) }) g

/-- The global columns whose sums `mcsum` leaves in cores 0 to `w - 1`. -/
def sumCols (w cols col : Nat) : List (Nat × Nat) :=
  (List.range w).map fun c => (256 * c + col, 256 * c + col + coreCols cols c)

def execMcsum (f : Fields) (s : State) : Out :=
  issued (.mcsum f) f s fun e s =>
    let n := f.e.toNat
    let k := bitsN (immN f) 0 7 + 1
    let cols := bitsN (immN f) 7 10 + 1
    let col := bitsN (immN f) 17 8
    let foot := sumFoot [] (sumCols (s.unit e).width cols col)
    e.matrix s foot [n] none fun g =>
      let t := g.tiles.getD n Tile.void
      let cores := List.range g.width
      match firstFault3 [(!g.cfg.isInt || !isI8 t.tag, FMT)] (e.linkFault s g n)
          [(256 * g.width < cols || t.nRows < k || t.perRow < cols || cores.any fun c => 256 < col + coreCols cols c, TILE)] with
      | some c => e.parkAll s 3 c (Config.faultAddr e.free).toNat
      | none => e.matIssue s (.mcsum f) (s.mcsumOn g g f) e.w { srcs := [n], foot := foot }

/-! ### Loading and draining (R196, R197) -/

/-- Tags that `mload` takes in the current mode. -/
def mloadTag (c : MatCfg) (t : Nat) : Bool :=
  if c.mode == 0 || c.isL6 then fmtFloat16up t else 3 ≤ t && t ≤ 0x0A

/-- One element of `mload`. -/
def mloadEl (c : MatCfg) (t x : Nat) : AccEl :=
  if c.mode == 0 then { v := roundAF (fmtValue t x), sp := false }
  else if c.isL6 then
    match fmtValue t x with
    | .fin neg m e =>
      let y := (toIntegral 0 neg m (e + 48)).1
      { v := BitVec.ofInt 96 (if neg then -(y : Int) else y), sp := false }
    | _ => { v := 0, sp := true }
  else
    let y := toInt t x
    { v := BitVec.ofInt 96 (if c.mode = 2 then sextN (wrapN y 32) 32 else if c.mode = 3 then satInt y 32 true else y), sp := false }

/-- The region that `mload` leaves. -/
def State.mloadOn (s : State) (g : Group) (f : Fields) : Group :=
  let t := g.tiles.getD f.e.toNat Tile.void
  g.mapRegion (rowN f) (nrN f) (colN f) (ncN f) fun i j _ => mloadEl g.cfg t.tag (s.tileEl g t i j)

def execMload (f : Fields) (s : State) : Out :=
  issued (.mload f) f s fun e s =>
    let n := f.e.toNat
    e.matrix s (regionFoot f false) [n] none fun g =>
      let t := g.tiles.getD n Tile.void
      match firstFault3 [(!mloadTag g.cfg t.tag, FMT)] (e.linkFault s g n)
          [(t.nRows < nrN f || t.perRow < ncN f || 256 * g.width < colN f + ncN f, TILE)] with
      | some c => e.parkAll s 3 c (Config.faultAddr e.free).toNat
      | none =>
        e.matIssue s (.mload f) (s.mloadOn g f) e.w { srcs := [n], foot := regionFoot f false }

/-- a + b, exact. -/
def addV (a b : FVal) : FVal :=
  match a, b with
  | .fin n1 m1 e1, .fin n2 m2 e2 => let r := addExact n1 m1 e1 n2 m2 e2 false; .fin r.1 r.2.1 r.2.2
  | .inf n1, .inf n2 => if n1 == n2 then .inf n1 else .nan false
  | .inf n, .fin _ _ _ => .inf n
  | .fin _ _ _, .inf n => .inf n
  | _, _ => .nan false

/-- a × b, exact; a NaN for an invalid product. -/
def mulV (a b : FVal) : FVal := (fMulExact a b).getD (.nan false)

/-- Division by a power of two and to nearest, ties away from zero (R197). -/
def shrRound (x : Int) (n : Nat) : Int :=
  let m := roundMag 4 false x.natAbs (2 ^ n)
  if x < 0 then -(m : Int) else m

/-- The function of an ACT code from 2 on, on an F64 operand, as an F64 value (R197). -/
def actFn (act : Nat) (v : FVal) : FVal :=
  let fn : TFun := if act = 2 then .tanh else if act = 3 then .sigm else if act = 4 then .silu else .gelu
  ffDecode ffF64 (tEval fn ffF64 0 false 24 v v).1

def toF64 (v : FVal) : FVal := ffDecode ffF64 (roundV ffF64 false v)

/-- Operands of the drain's stages for one column. -/
structure DrainCol where
  mult : Int
  bias : Int
  shift : Nat
  fscale : FVal
  fbias : FVal
  colsum : Int
  deriving DecidableEq, Repr

/-- The integer path (R291): the bits of an element of tag `td`. -/
def drainInt (f : Fields) (td : Nat) (v rowsum za zw zo kt : Int) (c : DrainCol) : Nat :=
  let act := mdN f 3 3
  let frac := mdN f 6 4
  let v := if mdB f 1 then v - zw * rowsum - za * c.colsum + za * zw * kt else v
  let v := if mdB f 2 then shrRound (v * c.mult) (31 + c.shift) + c.bias else v
  let v := if act = 1 then max v 0
    else if 2 ≤ act then
      match actFn act (toF64 (.fin (decide (v < 0)) v.natAbs (-(frac : Int)))) with
      | .fin neg m e => let y := (toIntegral 0 neg m (e + frac)).1; if neg then -(y : Int) else y
      | _ => 0
    else v
  fitInt td true (v + zo)

/-- The float path (R291). -/
def drainFloat (f : Fields) (td : Nat) (x : FVal) (c : DrainCol) : Nat :=
  let act := mdN f 3 3
  let x := if mdB f 2 then addV (mulV x c.fscale) c.fbias else x
  let x := if act = 1 then (if isNan x || fLess false (.fin false 0 0) x then x else .fin false 0 0)
    else if 2 ≤ act then actFn act (toF64 x) else x
  roundV (ffOf td) (mdB f 0) x

def drainFloatTag (t : Nat) : Bool := t == 0x12 || t == 0x10 || t == 0x11 || t == 0x0C || t == 0x0D

/-- The bytes that `mdrain` writes, with the values of sA and sB. -/
def State.drainBytes (s : State) (g : Group) (f : Fields) (za zb : Nat) : List (Nat × Byte) :=
  let td := g.tiles.getD f.d.toNat Tile.void
  let te := g.tiles.getD f.e.toNat Tile.void
  let int := g.cfg.isInt
  let dcol (j : Nat) : DrainCol :=
    let x (i : Nat) : Nat := if mdB f 2 then s.tileEl g te i j else 0
    let c := colN f + j
    { mult := sextN (x 0) 32, bias := sextN (x 1) 32, shift := if int then x 2 % 32 else 0,
      fscale := ffDecode ffF32 (x 0), fbias := ffDecode ffF32 (x 1),
      colsum := ((aget (g.mc (c / 256)).colsum (c % 256)).getD 0).toInt }
  let cols := (List.range (ncN f)).map fun j => (j, dcol j)
  (List.range (nrN f)).flatMap fun i =>
    let r := rowN f + i
    cols.flatMap fun (p : Nat × DrainCol) =>
      let a := g.el r (colN f + p.1)
      let x :=
        if int then drainInt f td.tag a.v.toInt (g.row r).rowsum.toInt (sextN (bitsN za 0 16) 16) (sextN (bitsN za 16 16) 16)
          (sextN (bitsN za 32 16) 16) (sextN zb 64) p.2
        else if a.sp then ffNan (ffOf td.tag)
        else drainFloat f td.tag (if g.cfg.isL6 then .fin (decide (a.v.toInt < 0)) a.v.toInt.natAbs (-48) else fAF a.v) p.2
      g.elBytes td i p.1 x

/-- R197. Only operands that are read meet the check of a scale link: one of the destination D raises nothing (DEDUCED, log entry
71: R188 calls D a tile operand, and R37 speaks of operands with elements to scale). -/
def execMdrain (f : Fields) (s : State) : Out :=
  issued (.mdrain f) f s fun e s =>
    let d := f.d.toNat
    let srcs := if mdB f 2 then [f.e.toNat] else []
    e.matrix s (drainFoot f) srcs (some d) fun g =>
      let td := g.tiles.getD d Tile.void
      let te := g.tiles.getD f.e.toNat Tile.void
      let int := g.cfg.isInt
      let dOk := if int then 3 ≤ td.tag && td.tag ≤ 8 else drainFloatTag td.tag
      let eOk := !mdB f 2 || te.tag == (if int then 8 else 0x12)
      match firstFault3 [(!dOk || !eOk || (!int && mdB f 1), FMT)] (if mdB f 2 then e.linkFault s g f.e.toNat else none)
          [(td.nRows < nrN f || td.perRow < ncN f || 256 * g.width < colN f + ncN f
            || (mdB f 2 && (te.nRows < (if int then 3 else 2) || te.perRow < ncN f)), TILE)] with
      | some c => e.parkAll s 3 c (Config.faultAddr e.free).toNat
      | none =>
        let za := e.addrPart s f.a 0
        let zb := e.addrPart s f.b 0
        e.matIssue s (.mdrain f) g e.w
          { srcs := srcs, dst := some d, out := s.drainBytes g f za zb, regs := [za, zb], foot := drainFoot f }

end Sys2Proof.Machine
end

