-- ==== Sys2Proof/Machine/Softmax.lean ====
section
/-! DEFINITION. Group 0xC: streaming softmax (R198-R203, R296-R299), the confidence test (R207) and `bfq` (R208). -/
namespace Sys2Proof.Machine

/-! ### e2 (R198) -/

def negInf32 : BitVec 32 := 0xFF800000

def f32 (x : BitVec 32) : FVal := ffDecode ffF32 x.toNat

/-- e2 of an exact value, as F32 bits. -/
def e2V (v : FVal) : BitVec 32 :=
  BitVec.ofNat 32 (match v with
    | .inf true => 0
    | .inf false => ffInfBits ffF32
    | .nan _ => ffNan ffF32
    | .fin neg m e => e2Fin (smant neg m) e)

/-- e2(a − b), the difference taken exactly. -/
def e2Diff (a b : FVal) : BitVec 32 := e2V (addV a (fneg b))

def max32 (a b : BitVec 32) : BitVec 32 := BitVec.ofNat 32 (fMinMax ffF32 true a.toNat b.toNat).1

/-! ### Row state -/

/-- R199. -/
def execSmxi (f : Fields) (s : State) : Out :=
  issued (.smxi f) f s fun e s =>
    let foot : Foot := { rows := (rowN f, rowN f + nrN f), cols := [], rowSt := true, rd := 0, wr := 0 }
    e.matrix s foot [] none fun g =>
      let g1 := (List.range (nrN f)).foldl (fun (g : Group) i =>
        g.modRow (rowN f + i) fun r => { r with m := negInf32, l := 0, nan := false, empty := false }) g
      e.matIssue s (.smxi f) g1 e.w { foot := foot }

/-- What one row of scores gives (R200): the row state, the factor of its output elements (`none`: they become +0;
`some none`: they stay), and the delivered probabilities. -/
structure SmxRow where
  st : RowState
  alpha : Option (Option (BitVec 32))
  pd : List Nat

/-- The least `n` with `2 ^ n ≥ x`. -/
def ceilLog2 (x : Nat) : Nat := if x ≤ 1 then 0 else (x - 1).log2 + 1

/-- One row of `smxu` (R200): the scores with their SP bits and masks, the format `td` of the probabilities. -/
def smxRow (st : RowState) (scores : List (AccEl × Bool)) (td : Nat) (pden : Bool) : SmxRow :=
  let s32 (x : AccEl) : BitVec 32 := BitVec.ofNat 32 (roundV ffF32 false (fAF x.v))
  let special (x : AccEl) : Bool := x.sp || (match f32 (s32 x) with | .fin _ _ _ => false | _ => true)
  let nan := scores.any fun x => !x.2 && special x.1
  let live : List (Option (BitVec 32)) := scores.map fun x => if x.2 || special x.1 then none else some (s32 x.1)
  let st := { st with nan := st.nan || nan }
  let fresh := st.m == negInf32
  if fresh && live.all Option.isNone then { st := st, alpha := some none, pd := scores.map fun _ => 0 }
  else
    let mNew := (live.filterMap id).foldl max32 st.m
    let alpha := e2Diff (f32 st.m) (f32 mNew)
    let l0 : BitVec 96 := if fresh then 0 else roundAF (mulV (f32 alpha) (fAF st.l))
    let p : List (BitVec 32) := live.map fun x => match x with | some x => e2Diff (f32 x) (f32 mNew) | none => 0
    let pd := p.map fun x => roundV (ffOf td) false (f32 x)
    let leaf := if pden then pd.map fun x => ffDecode (ffOf td) x else p.map f32
    let l := roundAF (addV (fAF l0) (treeAF (ceilLog2 leaf.length) leaf))
    { st := { st with l := l, m := mNew }, alpha := if fresh then none else some (some alpha), pd := pd }

/-- The effect of a row on its output elements. -/
def SmxRow.scaleEl (r : SmxRow) (x : AccEl) : AccEl :=
  match r.alpha with
  | none => { x with v := 0 }
  | some none => x
  | some (some a) => { x with v := roundAF (mulV (f32 a) (fAF x.v)) }

/-- Row states of consecutive rows, and the change of their output elements, which were those of `was`. -/
def Group.applyRows (g was : Group) (r0 c0 nc : Nat) (rs : List SmxRow) : Group :=
  let g := (mapFrom 0 (fun i r => (i, r)) rs).foldl (fun (g : Group) p => g.modRow (r0 + p.1) fun _ => p.2.st) g
  g.mapRegion r0 rs.length c0 nc fun i j x => match rs[i]? with | some r => r.scaleEl (was.el (r0 + i) (c0 + j)) | none => x

/-- What `smxu` leaves in its rows and output elements, from those of `was`, and the bytes of its probabilities (R200). -/
def State.smxuOn (s : State) (g was : Group) (f : Fields) : Group × List (Nat × Byte) :=
  let td := g.tiles.getD f.d.toNat Tile.void
  let te := g.tiles.getD f.e.toNat Tile.void
  let rs := (List.range (nrN f)).map fun i =>
    smxRow { was.row (rowN f + i) with rowsum := (g.row (rowN f + i)).rowsum }
      ((List.range (ncN f)).map fun j => (was.el (rowN f + i) (colN f + j), mdB f 18 && s.tileEl g te i j != 0)) td.tag (mdB f 19)
  (g.applyRows was (rowN f) (ocolN f) (oncN f) rs,
   ((mapFrom 0 (fun i r => (i, r)) rs).map fun (p : Nat × SmxRow) =>
      (mapFrom 0 (fun j x => g.elBytes td p.1 j x) p.2.pd).flatten).flatten)

/-- R200. -/
def execSmxu (f : Fields) (s : State) : Out :=
  issued (.smxu f) f s fun e s =>
    let d := f.d.toNat
    let msk := mdB f 18
    let srcs := if msk then [f.e.toNat] else []
    let foot : Foot := { rows := (rowN f, rowN f + nrN f), rowSt := true, rd := 0, wr := 0,
                         cols := [(colN f, colN f + ncN f), (ocolN f, ocolN f + oncN f)] }
    e.matrix s foot srcs (some d) fun g =>
      let td := g.tiles.getD d Tile.void
      let te := g.tiles.getD f.e.toNat Tile.void
      match firstFault3 [(g.cfg.mode != 0 || !drainFloatTag td.tag || (msk && te.tag != 3), FMT)]
          (if msk then e.linkFault s g f.e.toNat else none)
          [(td.nRows < nrN f || td.perRow < ncN f || (msk && (te.nRows < nrN f || te.perRow < ncN f))
            || 256 * g.width < colN f + ncN f || 256 * g.width < ocolN f + oncN f, TILE)] with
      | some c => e.parkAll s 3 c (Config.faultAddr e.free).toNat
      | none =>
        let r := s.smxuOn g g f
        let units := nrN f * ((ncN f + 15) / 16) + (nrN f * maxCols (ocolN f) (oncN f) + 63) / 64
        e.matIssue s (.smxu f) r.1 e.w
          { srcs := srcs, dst := some d, out := r.2, heavy := some units, foot := foot }

/-- One row pair of `smxm` (R201): the merged state and the factors of the two sides; `none` makes the output row +0. -/
def mergeRow (a b : RowState) : RowState × Option (BitVec 32 × BitVec 32) :=
  let nan := a.nan || b.nan
  if a.m == negInf32 && b.m == negInf32 then ({ a with l := 0, nan := nan }, none)
  else
    let m := max32 a.m b.m
    let a1 := e2Diff (f32 a.m) (f32 m)
    let a2 := e2Diff (f32 b.m) (f32 m)
    ({ a with m := m, nan := nan, l := roundAF (addV (mulV (f32 a1) (fAF a.l)) (mulV (f32 a2) (fAF b.l))) }, some (a1, a2))

/-- R201, R290: a destination element's SP becomes the OR of its own and the source's. -/
def execSmxm (f : Fields) (s : State) : Out :=
  issued (.smxm f) f s fun e s =>
    let sr := mdN f 0 7
    let sc := mdN f 7 10
    let lo := min sr (rowN f)
    let foot : Foot := { rows := (lo, max sr (rowN f) + nrN f), rowSt := true, rd := 0, wr := 0,
                         cols := [(colN f, colN f + ncN f), (sc, sc + ncN f)] }
    e.matrix s foot [] none fun g =>
      match firstOf [(g.cfg.mode != 0, FMT),
          (256 * g.width < colN f + ncN f || 256 * g.width < sc + ncN f, TILE)] with
      | some c => e.parkAll s 3 c (Config.faultAddr e.free).toNat
      | none =>
        let ms := (List.range (nrN f)).map fun i => mergeRow (g.row (rowN f + i)) (g.row (sr + i))
        let g1 := (mapFrom 0 (fun i r => (i, r)) ms).foldl (fun (h : Group) p => h.modRow (rowN f + p.1) fun _ => p.2.1) g
        let g2 := g1.mapRegion (rowN f) (nrN f) (colN f) (ncN f) fun i j x =>
          let y := g.el (sr + i) (sc + j)
          match ms[i]? with
          | some (_, some (a1, a2)) =>
            { v := roundAF (addV (mulV (f32 a1) (fAF x.v)) (mulV (f32 a2) (fAF y.v))), sp := x.sp || y.sp }
          | _ => { v := 0, sp := x.sp || y.sp }
        e.matIssue s (.smxm f) g2 e.w { foot := foot }

/-- A zero AF96. -/
def isZeroAF (x : BitVec 96) : Bool := match fAF x with | .fin _ m _ => m == 0 | _ => false

/-- round(o / l), the exact quotient rounded once (R202). -/
def finishEl (td : Nat) (sat : Bool) (st : RowState) (x : AccEl) : Nat :=
  let p := ffOf td
  if st.nan || x.sp then ffNan p
  else if isZeroAF st.l then 0
  else
    match fAF x.v, fAF st.l with
    | .nan _, _ => ffNan p
    | _, .nan _ => ffNan p
    | .inf _, .inf _ => ffNan p
    | .inf a, .fin b _ _ => (ffInfSat p sat (a != b)).1
    | .fin a _ _, .inf b => ffSign p (a != b)
    | .fin a m e, .fin b n k => (ffRound p 0 sat (a != b) m n (e - k)).1

/-- The bytes that finishing a region into a tile writes, and the EMPTY flags (R202). -/
def Group.finishRows (g : Group) (td : Tile) (sat : Bool) (r0 nr c0 nc : Nat) : List (Nat × Byte) × Group :=
  ((List.range nr).flatMap fun i => (List.range nc).flatMap fun j =>
      g.elBytes td i j (finishEl td.tag sat (g.row (r0 + i)) (g.el (r0 + i) (c0 + j))),
   (List.range nr).foldl (fun (h : Group) i => h.modRow (r0 + i) fun r => { r with empty := isZeroAF r.l }) g)

/-- R202. -/
def execSmxf (f : Fields) (s : State) : Out :=
  issued (.smxf f) f s fun e s =>
    let d := f.d.toNat
    e.matrix s (regionFoot f true) [] (some d) fun g =>
      let td := g.tiles.getD d Tile.void
      match firstOf [(g.cfg.mode != 0 || !drainFloatTag td.tag, FMT),
          (td.nRows < nrN f || td.perRow < ncN f || 256 * g.width < colN f + ncN f, TILE)] with
      | some c => e.parkAll s 3 c (Config.faultAddr e.free).toNat
      | none =>
        let r := g.finishRows td (mdB f 0) (rowN f) (nrN f) (colN f) (ncN f)
        e.matIssue s (.smxf f) r.2 e.w { dst := some d, out := r.1, foot := regionFoot f true }

/-! ### Row records (R203) -/

/-- Record stride. -/
def recStride (nc : Nat) (sto : Bool) : Nat := if sto then 32 else (32 + 12 * nc + 31) / 32 * 32

/-- The bytes of row `r`'s record; the NAN flag takes in the SP bits of the region (R290). -/
def Group.recordBytes (g : Group) (r c0 nc : Nat) (sto : Bool) : List Byte :=
  let st := g.row r
  let els := (List.range nc).map fun j => g.el r (c0 + j)
  let nan := st.nan || els.any AccEl.sp
  let head := leBytes 4 st.m.toNat ++ leBytes 12 st.l.toNat ++ leBytes 2 (st.empty.toNat + 2 * nan.toNat) ++ leBytes 14 0
  if sto then head
  else
    let body := els.flatMap fun x => leBytes 12 x.v.toNat
    head ++ body ++ List.replicate (recStride nc false - 32 - 12 * nc) 0

/-- The virtual addresses of the records of a region. -/
def recordVas (va nr nc : Nat) (sto : Bool) : List Nat := vaRange va (nr * recStride nc sto)

/-- R203: the records are those of the region at issue, and their bytes are stored at moments until the completion (R187, R409). -/
def execSmxs (f : Fields) (s : State) : Out :=
  issued (.smxs f) f s fun e s =>
    e.matrix s (regionFoot f true) [] none fun g => e.gate s <|
      let sto := mdB f 0
      let va := e.addrPart s f.a 0
      let who := e.who s
      let vas := recordVas va (nrN f) (ncN f) sto
      if 256 * g.width < colN f + ncN f then e.parkAll s 3 TILE (Config.faultAddr e.free).toNat
      else if va % 32 != 0 then e.parkAll s 3 ALIGN va
      else
        match s.transAll who Acc.store vas with
        | .inl x => e.parkAll s 3 x.1 x.2
        | .inr ls =>
          let bs := (List.range (nrN f)).flatMap fun i => g.recordBytes (rowN f + i) (colN f) (ncN f) sto
          e.matIssue s (.smxs f) g e.w
            { access := some (who, ls), left := vas.zip bs, regs := [va], foot := regionFoot f true }

/-- A row state and elements from a record's bytes. -/
def loadRecord (st : RowState) (bs : List Byte) : RowState :=
  { st with m := BitVec.ofNat 32 (leNat (bs.take 4)), l := BitVec.ofNat 96 (leNat ((bs.drop 4).take 12)),
            empty := leNat ((bs.drop 16).take 1) % 2 == 1, nan := leNat ((bs.drop 16).take 1) / 2 % 2 == 1 }

/-- What the bytes of its records leave in the region of an `smxl`. -/
def Group.loadRecords (g : Group) (f : Fields) (bs : List Byte) : Group :=
  let sto := mdB f 0
  let recs := (List.range (nrN f)).map fun i => (bs.drop (i * recStride (ncN f) sto)).take (recStride (ncN f) sto)
  let g1 := (mapFrom 0 (fun i b => (i, b)) recs).foldl (fun (h : Group) (p : Nat × List Byte) =>
    h.modRow (rowN f + p.1) fun st => loadRecord st p.2) g
  if sto then g1
  else g1.mapRegion (rowN f) (nrN f) (colN f) (ncN f) fun i j _ =>
    { v := BitVec.ofNat 96 (leNat (((recs.getD i []).drop (32 + 12 * j)).take 12)), sp := false }

/-- R203: checked and translated at issue; the records are read at moments until the completion (R187, R409). -/
def execSmxl (f : Fields) (s : State) : Out :=
  issued (.smxl f) f s fun e s =>
    e.matrix s (regionFoot f true) [] none fun g => e.gate s <|
      let va := e.addrPart s f.a 0
      let who := e.who s
      if 256 * g.width < colN f + ncN f then e.parkAll s 3 TILE (Config.faultAddr e.free).toNat
      else if va % 32 != 0 then e.parkAll s 3 ALIGN va
      else
        match s.transAll who Acc.load (recordVas va (nrN f) (ncN f) (mdB f 0)) with
        | .inl x => e.parkAll s 3 x.1 x.2
        | .inr ls => e.matIssue s (.smxl f) g e.w { access := some (who, ls), regs := [va], foot := regionFoot f true }

/-! ### Early exit -/

/-- The comparison `x ≥ y` of exact values; false with a NaN. -/
def geV (x y : FVal) : Bool := !isNan x && !isNan y && !fLess false x y

def isFin : FVal → Bool
  | .fin _ _ _ => true
  | _ => false

/-- h × l, exact, for a finite positive l: `conf ≥ h` is `c ≥ h × l`. -/
def conftExit (mrg : Bool) (z1 z2 m l h : FVal) : Bool :=
  let c1 := f32 (e2Diff z1 m)
  let c := if mrg then addV c1 (fneg (f32 (e2Diff z2 m))) else c1
  isFin l && fLess false zeroF l && isFin z1 && isFin m && !isNan z2 && !isNan h && geV m z1 && geV c (mulV h l)

/-- R207. -/
def Env.conft (e : Env) (s : State) (mrg : Bool) : State :=
  let bad := e.tagOf e.f.a != some 0x12 || e.tagOf e.f.b != some 0x12 ||
    (match e.tagOf e.f.c with | some t => t != 0x12 | none => false)
  e.check s (e.vecFault 0x12 (!bad) [e.f.a, e.f.b, e.f.c]) <|
    let v (x : Src) (l j : Nat) : FVal := ffDecode ffF32 (e.el s 0x12 x l j)
    let out (l : Nat) : Bool := conftExit mrg (v e.f.a l 0) (v e.f.a l 1) (v e.f.b l 0) (v e.f.b l 1) (v e.f.c l 0)
    e.flyDone s [e.predWrite e.f.d.toNat (fun l => if e.taking.getLsbD l then allOnes16 else 0)
      (fun l => if out l then allOnes16 else 0)] 0

def execConftTop (f : Fields) (s : State) : Out := issued (.conftTop f) f s fun e s => e.conft s false

def execConftMrg (f : Fields) (s : State) : Out := issued (.conftMrg f) f s fun e s => e.conft s true

/-- R208: held while the request queue is full. -/
def execBfq (f : Fields) (s : State) : Out :=
  issued (.bfq f) f s fun e s => e.once s <|
    let l := e.leading.getD 0
    let page := e.addrPart s f.a l
    let pkg := pkgOfCore e.w.core
    if page % 65536 != 0 then e.parkAll s 3 ALIGN page
    else
      match s.trans (e.who s) { types := 1 } page with
      | .fault c => e.parkAll s 3 c page
      | .at _ _ =>
        if 1024 ≤ (s.pkg pkg).bfQueue.length then e.holds s .queue
        else
          let b := e.addrPart s f.b l
          let r : BfReq := { page := BitVec.ofNat 64 page, seqNo := BitVec.ofNat 32 b, pos := BitVec.ofNat 32 (b / 2 ^ 32),
                             layer := BitVec.ofNat 16 (e.addrPart s f.c l), asid := e.w.ctx.asid }
          e.finish { s.modPkg pkg fun k => { k with bfQueue := k.bfQueue ++ [r] } with nextId := s.nextId + 1 } fun w =>
            w.fly s.nextId e.free [] 0 e.paired

end Sys2Proof.Machine
end

