-- ==== Sys2Proof/Machine/Attn.lean ====
section
/-! DEFINITION. The attention walk (R204-R206, R303-R305, R315), the memory accesses of `smxs` and `smxl`, the completion of the instructions of groups 0xB and 0xC
(R187) and matrix fetch faults (R447, R448). -/
namespace Sys2Proof.Machine

/-! ### The KV layout descriptor (R204) -/

/-- The fields of a descriptor's 64 bytes. -/
structure Kvd where
  btab : Nat
  rsa : Nat
  sct : Nat
  t0 : Nat
  nt : Nat
  koff : Nat
  voff : Nat
  krowb : Nat
  vrowb : Nat
  kfmt : Nat
  vfmt : Nat
  dk : Nat
  layer : Nat
  nlayers : Nat
  qpos : Nat
  qstep : Nat
  causal : Bool
  stall : Bool
  dv : Nat
  deriving DecidableEq, Repr

def parseKvd (bs : List Byte) : Kvd :=
  let x := leNat bs
  let g (off n : Nat) : Nat := bitsN x (8 * off) (8 * n)
  { btab := g 0 8, rsa := g 8 8, sct := g 0x10 8, t0 := g 0x18 4, nt := g 0x1C 4, koff := g 0x20 4, voff := g 0x24 4,
    krowb := g 0x28 2, vrowb := g 0x2A 2, kfmt := g 0x2C 1, vfmt := g 0x2D 1, dk := g 0x2E 2, layer := g 0x30 2,
    nlayers := g 0x32 2, qpos := g 0x34 4, qstep := g 0x38 1, causal := g 0x39 1 % 2 == 1, stall := g 0x39 1 / 2 % 2 == 1,
    dv := g 0x3A 2 }

/-- The formats of K and V. -/
def kvFmt (t : Nat) : Bool := t == 0x10 || t == 0x11 || t == 0x0C || t == 0x0D

/-- Blocks of 128 along DK. -/
def Kvd.blocks (d : Kvd) : Nat := (d.dk + 127) / 128

/-- The table entries of the walked tokens. -/
def Kvd.pages (d : Kvd) : List Nat :=
  if d.nt = 0 then []
  else (List.range ((d.t0 + d.nt - 1) / 16 - d.t0 / 16 + 1)).map fun i => d.t0 / 16 + i

/-- Token `t` is masked for query row `i` by its range or by CAUSAL (R205, step 3). -/
def Kvd.masked (d : Kvd) (t i : Nat) : Bool :=
  t < d.t0 || d.t0 + d.nt ≤ t || (d.causal && d.qpos + i * d.qstep < t)

/-! ### Issue (R204, R205, R303) -/

/-- The checks at issue on the descriptor, the query tile and the region; after FMT come SCALE and TILE, then ALIGN. -/
def Group.attnFault (g : Group) (f : Fields) (d : Kvd) : Option Nat :=
  let te := g.tiles.getD f.e.toNat Tile.void
  let td := g.tiles.getD f.d.toNat Tile.void
  let wide := d.kfmt == 0x10 || d.kfmt == 0x11 || d.vfmt == 0x10 || d.vfmt == 0x11
  let fin := mdB f 1
  match firstOf [(!kvFmt d.kfmt || !kvFmt d.vfmt || te.tag != d.kfmt || g.cfg.mode != 0 || (d.sct != 0 && wide)
                    || (fin && !drainFloatTag td.tag), FMT)],
      (if kvFmt d.kfmt && d.dk != 0 && d.dk ≤ 256 then g.scaleFault f.e.toNat te.nRows d.blocks else none),
      firstOf [(d.dk == 0 || 256 < d.dk || d.dv == 0 || 256 < d.dv || 1 < d.qstep || te.perRow < d.dk, TILE),
               (nrN f != te.nRows || ncN f != d.dv || 256 * g.width < colN f + ncN f, TILE),
               (fin && (td.nRows < nrN f || td.perRow < ncN f), TILE),
               (d.koff % 32 != 0 || d.voff % 32 != 0 || d.krowb % 32 != 0 || d.vrowb % 32 != 0, ALIGN)] with
  | some c, _, _ => some c
  | none, some c, _ => some c
  | none, none, r => r

/-- R204: the descriptor is read at issue; the walk takes place at completion. -/
def execAttn (f : Fields) (s : State) : Out :=
  issued (.attn f) f s fun e s =>
    let fin := mdB f 1
    let foot : Foot := { rows := (rowN f, rowN f + nrN f), cols := [(colN f, colN f + ncN f)], rowSt := true, rd := 4, wr := 3 }
    let srcs := (s.unit e).withScale f.e.toNat
    let dst := if fin then some f.d.toNat else none
    e.matrix s foot srcs dst fun g => e.gate s <|
      let va := e.addrPart s f.a 0
      let who := e.who s
      match s.checkOne who Acc.load 64 va 64 with
      | .inl x => e.parkAll s 3 x.1 x.2
      | .inr ls =>
        if s.anyReset who ls then e.holds s .reset
        else
          let r := s.getBytes who ls 0 (vaRange va 64)
          let d := parseKvd r.1
          match g.attnFault f d with
          | some c => e.parkAll s 3 c (Config.faultAddr e.free).toNat
          | none =>
            let ctr := match f.b with | .u n => if mdB f 0 then some n.toNat else none | _ => none
            match (match ctr with | some c => e.w.raiseCtr c | none => some e.w) with
            | none => e.holds s .counter
            | some w =>
              e.matIssue r.2 (.attn f) (r.2.unit e) w
                { srcs := srcs, dst := dst, ctr := ctr, desc := r.1, heavy := some 2048,
                  foot := if d.nt = 0 then { foot with rd := 0, wr := 0 } else foot }

/-! ### The walk -/

/-- What a read of a walk comes to: a set on a die in reset or a deferred token, which it waits for, with the state then, a fault
at an address, or what it has read. -/
inductive Fetch (α : Type) where
  | wait (s : State)
  | fault (code va : Nat)
  | got (x : α) (s : State)
  deriving DecidableEq, Repr

/-- One operand read of `n` bytes that must stand at a multiple of `align`. -/
def State.fetchMem (s : State) (w : Who) (align va n : Nat) : Fetch (List Byte) :=
  match s.checkOne w Acc.load align va n with
  | .inl x => .fault x.1 x.2
  | .inr ls =>
    if s.anyReset w ls then .wait s
    else let r := s.getBytes w ls 0 (vaRange va n); .got r.1 r.2

/-- One thing that a walk reads of a page: its table entry, its row-state word, its scales, a sector of its rows (by the numbers of
`PageRead`). -/
inductive Need where
  | entry
  | word
  | scales
  | row (n : Nat)
  deriving DecidableEq, Repr

/-- A walk may read this of a page beyond the one it is at (R304). -/
def Need.ahead : Need → Bool
  | .entry => true
  | .word => true
  | _ => false

def pageRead (m : AMap PageRead) (b : Nat) : PageRead := (aget m b).getD {}

/-- Tokens of page `b` that some of `nr` query rows does not mask (R205, step 3). -/
def Kvd.live (d : Kvd) (nr b : Nat) : List Nat := (List.range 16).filter fun k => (List.range nr).any fun i => !d.masked (16 * b + k) i

/-- Tokens of a page whose rows a walk reads: those whose bit it has found set (R315). -/
def Kvd.tokens (d : Kvd) (nr b word : Nat) : List Nat := (d.live nr b).filter fun k => bitsN word k 1 == 1

/-- Length of a K row (`v` false) or a V row, and its place in its page. -/
def Kvd.rowLen (d : Kvd) (v : Bool) : Nat := if v then d.dv * (fmtWidth d.vfmt / 8) else d.dk * (fmtWidth d.kfmt / 8)
def Kvd.rowOff (d : Kvd) (v : Bool) (k : Nat) : Nat := if v then d.voff + k * d.vrowb else d.koff + k * d.krowb

/-- The numbers of the sectors of token `k`'s K or V row. -/
def Kvd.rowSectors (d : Kvd) (v : Bool) (k : Nat) : List Nat :=
  (List.range ((d.rowLen v + 31) / 32)).map fun j => 32 * k + 16 * v.toNat + j

/-- What a walk has still to read of a page, as far as it knows: the entry, the word, the scales and the rows, in the order of
R304. -/
def Kvd.needs (d : Kvd) (nr b : Nat) (r : PageRead) : List Need :=
  match r.entry, r.word, r.scales with
  | none, _, _ => [.entry]
  | some 0, _, _ => []
  | _, none, _ => [.word]
  | _, _, none => [.scales]
  | _, some w, _ =>
    (((d.tokens nr b w).flatMap fun k => d.rowSectors false k ++ d.rowSectors true k).filter fun n => (aget r.rows n).isNone).map .row

/-- What a walk may read next, with its page: all it needs of the first page that it has not read whole, and the entries and
row-state words of the four pages after that (R304). -/
def Kvd.next (d : Kvd) (nr : Nat) (m : AMap PageRead) : List (Nat × Need) :=
  match d.pages.dropWhile fun b => (d.needs nr b (pageRead m b)).isEmpty with
  | [] => []
  | b :: bs =>
    (d.needs nr b (pageRead m b)).map (fun n => (b, n)) ++
      (bs.take 4).flatMap fun c => ((d.needs nr c (pageRead m c)).filter Need.ahead).map fun n => (c, n)

/-- Read one thing of a page. A word that leaves a token deferred in mode STALL is read again later (R205, step 4). -/
def State.fetchNeed (s : State) (w : Who) (d : Kvd) (nr b : Nat) (r : PageRead) : Need → Fetch PageRead
  | .entry =>
    match s.fetchMem w 8 (vaAdd d.btab (8 * b)) 8 with
    | .wait s => .wait s
    | .fault c a => .fault c a
    | .got bs s => if leNat bs % 65536 != 0 then .fault ALIGN (leNat bs) else .got { r with entry := some (leNat bs) } s
  | .word =>
    if d.rsa = 0 then .got { r with word := some 0xFFFF } s
    else
      match s.fetchMem w 2 (vaAdd d.rsa (2 * (b * d.nlayers + d.layer))) 2 with
      | .wait s => .wait s
      | .fault c a => .fault c a
      | .got bs s =>
        if d.stall && (d.live nr b).any fun k => bitsN (leNat bs) k 1 == 0 then .wait s
        else .got { r with word := some (leNat bs) } s
  | .scales =>
    if d.sct = 0 then .got { r with scales := some [0, 0] } s
    else
      match s.fetchMem w 1 (vaAdd d.sct (2 * b)) 2 with
      | .wait s => .wait s
      | .fault c a => .fault c a
      | .got bs s => .got { r with scales := some bs } s
  | .row n =>
    let v := n / 16 % 2 == 1
    match s.fetchMem w 1 (vaAdd (vaAdd (r.entry.getD 0) (d.rowOff v (n / 32))) (32 * (n % 16))) (min 32 (d.rowLen v - 32 * (n % 16))) with
    | .wait s => .wait s
    | .fault c a => .fault c a
    | .got bs s => .got { r with rows := aset r.rows n bs } s

/-- Read several things of a page in order, up to one that waits or faults; whether all were read. -/
def State.fetchNeeds (w : Who) (d : Kvd) (nr b : Nat) : List Need → PageRead → State → PageRead × State × Bool
  | [], r, s => (r, s, true)
  | n :: ns, r, s =>
    match s.fetchNeed w d nr b r n with
    | .got r s => State.fetchNeeds w d nr b ns r s
    | .wait s => (r, s, false)
    | .fault _ _ => (r, s, false)

/-- Read the rest of a page: what it shows that it needs, up to four times (R304's four points). -/
def State.fetchPage (w : Who) (d : Kvd) (nr b : Nat) : Nat → PageRead → State → PageRead × State × Bool
  | 0, r, s => (r, s, true)
  | k + 1, r, s =>
    let x := State.fetchNeeds w d nr b (d.needs nr b r) r s
    if x.2.2 then State.fetchPage w d nr b k x.1 x.2.1 else x

/-- Read the rest of some pages in order. -/
def State.fetchPages (w : Who) (d : Kvd) (nr : Nat) : List Nat → AMap PageRead → State → AMap PageRead × State × Bool
  | [], m, s => (m, s, true)
  | b :: bs, m, s =>
    let x := State.fetchPage w d nr b 4 (pageRead m b) s
    let m := if x.1 = pageRead m b then m else aset m b x.1
    if x.2.2 then State.fetchPages w d nr bs m x.2.1 else (m, x.2.1, false)

/-- A page as its reads have given it: the rows of the tokens read, by their place in the page, and the scales. -/
structure KvPage where
  block : Nat
  rows : List (Nat × List MEl × List MEl)
  kScale : Int
  vScale : Int

/-- The elements of a row of format `t`. -/
def rowEls (t n : Nat) (bs : List Byte) : List MEl :=
  (List.range n).map fun j => .f (fmtValue t (leNat ((bs.drop (fmtWidth t / 8 * j)).take (fmtWidth t / 8))))

/-- The bytes of a row, as its sectors were read. -/
def Kvd.rowBytes (d : Kvd) (r : PageRead) (v : Bool) (k : Nat) : List Byte :=
  (d.rowSectors v k).flatMap fun n => (aget r.rows n).getD []

/-- What a walk computes with of a page that it has read; nothing of one whose entry is 0 (R303). -/
def Kvd.page (d : Kvd) (nr b : Nat) (r : PageRead) : Option KvPage :=
  if r.entry = some 0 then none
  else
    let sb := r.scales.getD [0, 0]
    some { block := b,
           rows := (d.tokens nr b (r.word.getD 0)).map fun k =>
             (k, rowEls d.kfmt d.dk (d.rowBytes r false k), rowEls d.vfmt d.dv (d.rowBytes r true k)),
           kScale := sextN (leNat (sb.take 1)) 8, vScale := sextN (leNat (sb.drop 1)) 8 }

/-! ### The computation -/

/-- Consecutive blocks of 128. -/
def blocksOf {α : Type} (n : Nat) (xs : List α) : List (List α) :=
  (List.range n).map fun p => (xs.drop (128 * p)).take 128

/-- The score of a query row and a key row (R205, step 5): passes of 128 along DK, from zero. -/
def score (n : Nat) (q k : List MEl) (ka : List Int) (kb : Int) : AccEl :=
  { v := (zipWith3 (fun x y a => (x, y, a)) (blocksOf n q) (blocksOf n k) ka).foldl
      (fun acc p => addByForm 0 acc (passSum true (p.2.2 + kb) p.1 p.2.1)) 0,
    sp := q.any MEl.special || k.any MEl.special }

/-- One page's effect on the region of a walk (R205, steps 5 to 7). -/
def Group.attnPage (g : Group) (f : Fields) (d : Kvd) (q : List (List MEl)) (ka : List (List Int)) (p : KvPage) : Group :=
  let row (k : Nat) := p.rows.find? fun r => r.1 == k
  let rs := mapFrom 0 (fun i (x : List MEl × List Int) =>
    smxRow (g.row (rowN f + i))
      ((List.range 16).map fun k => match row k with
        | some r => (score d.blocks x.1 r.2.1 x.2 p.kScale, d.masked (16 * p.block + k) i)
        | none => (AccEl.zero, true)) d.vfmt (mdB f 2)) (q.zip ka)
  let g := g.applyRows g (rowN f) (colN f) (ncN f) rs
  let v (j : Nat) : List MEl := (List.range 16).map fun k => match row k with
    | some r => r.2.2.getD j (.f zeroF)
    | none => .f zeroF
  g.mapRegion (rowN f) rs.length (colN f) (ncN f) fun i j x =>
    match rs[i]? with
    | some r =>
      { v := addByForm 0 x.v (passSum true p.vScale (r.pd.map fun y => .f (ffDecode (ffOf d.vfmt) y)) (v j)),
        sp := x.sp || (v j).any MEl.special }
    | none => x

/-- The planes of the cores that a walk uses lose VALID (R205). -/
def Group.dropPlanes (g : Group) (c0 nc : Nat) : Group :=
  (List.range 4).foldl (fun (g : Group) k =>
    if c0 < 256 * k + 256 && 256 * k < c0 + nc then
      g.modCore k fun m => { m with plane0 := { m.plane0 with valid := false }, plane1 := { m.plane1 with valid := false } }
    else g) g

/-- The whole computation of a walk over the pages it has read. -/
def Group.attnWalk (g : Group) (s : State) (f : Fields) (d : Kvd) (ps : List KvPage) : Group :=
  if d.nt = 0 then g
  else
    let n := f.e.toNat
    let te := g.tiles.getD n Tile.void
    let q := (List.range (nrN f)).map fun i => (List.range d.dk).map fun j => MEl.f (fmtValue te.tag (s.tileEl g te i j))
    let ka := (List.range (nrN f)).map fun i => (List.range d.blocks).map fun p => s.scaleByte g n i p
    let g1 := ps.foldl (fun (h : Group) p => h.attnPage f d q ka p) g
    let g2 := g1.dropPlanes (colN f) (ncN f)
    { g2 with tiles := modAt g2.tiles n fun t => t.flagRows q }

/-! ### Completion -/

/-- The instruction of a unit at a position, when it may go on: its unit is not stopped and its grant has come. -/
def State.mopAt (s : State) (gid idx : Nat) : Option (Group × MOp) :=
  match aget s.groups gid with
  | none => none
  | some g =>
    match g.mops[idx]?, g.phase with
    | some m, .running => if m.granted then some (g, m) else none
    | some m, .stopping => if m.granted then some (g, m) else none
    | some m, .preempting => if m.granted then some (g, m) else none
    | _, _ => none

/-- Change the instruction at a position of a unit's list. -/
def State.modMop (s : State) (gid idx : Nat) (h : MOp → MOp) : State :=
  s.modGroup gid fun g => { g with mops := modAt g.mops idx h }

/-- An instruction's effect on the bytes that its fetches have found (R285): the matrix state of its unit, and the bytes of its
destination. What it acts on stands as before it, since no other instruction that shares it has gone on (R187). -/
def State.refetched (s : State) (g : Group) (m : MOp) : Group × List (Nat × Byte) :=
  let was := { g with cores := m.was.1, rows := m.was.2 }
  let s := { s with mem := m.seen }
  match m.instr with
  | .mldw f => (s.mldwOn g f, m.out)
  | .mmul f => (s.mmulOn g was f, m.out)
  | .mrsum f => (s.mrsumOn g was f, m.out)
  | .mcsum f => (s.mcsumOn g was f, m.out)
  | .mload f => (s.mloadOn g f, m.out)
  | .mdrain f => (g, s.drainBytes g f (m.regs.getD 0 0) (m.regs.getD 1 0))
  | .smxu f => s.smxuOn g was f
  | _ => (g, m.out)

/-- A fetch of an instruction finds a sector of the scratchpads as it stands now, not as it stood at its issue (R285). Bytes of
its destination that are written stay. -/
def State.matSector (s : State) (gid idx k : Nat) : State :=
  match s.mopAt gid idx with
  | none => s
  | some (g, m) =>
    if m.fed || m.src.isEmpty || !isSpadKey (32 * k) then s
    else
      let m := { m with seen := memSetAll m.seen ((List.range 32).map fun j => (32 * k + j, memGet s.mem (32 * k + j))) }
      let r := s.refetched g m
      let out := r.2.filter fun x => m.out.any fun y => y.1 == x.1
      s.setGroup gid { r.1 with mops := modAt r.1.mops idx fun _ => { m with out := out } }

/-- The flags of the tile that an instruction has fetched as a product operand (R282), unless its fetch has ended before. -/
def State.flagged (s : State) (g : Group) (m : MOp) : Group :=
  let s := { s with mem := m.seen }
  if m.fed then g
  else match m.instr with
    | .mmul f => { g with tiles := modAt g.tiles f.e.toNat fun t => t.flagRows (s.mmulRows g f) }
    | .mldw f => { g with tiles := modAt g.tiles f.e.toNat fun t => t.flagCols (s.mldwCols g f) }
    | _ => g

/-- A byte of an instruction's destination is written before its completion: what is stored over it then stays (R285). -/
def State.matByte (s : State) (gid idx n : Nat) : State :=
  match s.mopAt gid idx with
  | none => s
  | some (_, m) =>
    match m.out[n]? with
    | some x => (s.write [x]).modMop gid idx fun m => { m with out := m.out.eraseIdx n }
    | none => s

/-- An instruction has fetched its sources: its read references end (R284) and the flags of its operand are set. An `mldw` keeps its own until it completes, and a walk
fetches as it completes. -/
def State.occupancyEnd (s : State) (gid idx : Nat) : State :=
  match s.mopAt gid idx with
  | none => s
  | some (g, m) =>
    if m.fed || isMldw m.instr || isAttn m.instr then s
    else (s.setGroup gid (s.flagged g m)).modMop gid idx fun m => { m with fed := true, src := [] }

/-- The agent of a unit's operand fetches. -/
def State.seqWho (s : State) (g : Group) : Option Who := (g.seq.bind fun k => aget s.warps k).map s.who

/-- Before its completion an attention walk reads one of the things it may read next (R304). -/
def State.walkMove (s : State) (gid idx n : Nat) : State :=
  match s.mopAt gid idx with
  | none => s
  | some (g, m) =>
    match m.instr, s.seqWho g with
    | .attn f, some w =>
      let d := parseKvd m.desc
      match (d.next (nrN f) m.walk)[n]? with
      | none => s
      | some (b, need) =>
        match s.fetchNeed w d (nrN f) b (pageRead m.walk b) need with
        | .got r s => s.modMop gid idx fun m => { m with walk := aset m.walk b r }
        | .wait s => s
        | .fault _ _ => s
    | _, _ => s

/-- A walk has read its last page: the region and the row state take its effect, and the bytes of its finishing tile are to be
written (R205, R206). -/
def State.attnCompute (s : State) (gid idx : Nat) (g : Group) (m : MOp) (f : Fields) (d : Kvd) (walk : AMap PageRead) : State :=
  let g1 := g.attnWalk { s with mem := m.seen } f d (d.pages.filterMap fun b => d.page (nrN f) b (pageRead walk b))
  let r := if mdB f 1 then g1.finishRows (g1.tiles.getD f.d.toNat Tile.void) (mdB f 3) (rowN f) (nrN f) (colN f) (ncN f) else ([], g1)
  (s.setGroup gid r.2).modMop gid idx fun m => { m with walk := walk, out := r.1, fed := true, src := [] }

/-- An attention walk goes on: it reads what it can, in order. Once it has read all, it computes; once it has computed, it
completes. -/
def State.attnGo (s : State) (gid idx : Nat) (g : Group) (m : MOp) (f : Fields) : State :=
  if m.fed then s.matFinish gid m
  else match s.seqWho g with
    | none => s
    | some w =>
      let d := parseKvd m.desc
      let x := State.fetchPages w d (nrN f) d.pages m.walk s
      if x.2.2 then x.2.1.attnCompute gid idx g m f d x.1
      else x.2.1.modMop gid idx fun m => { m with walk := x.1 }

/-- Read sector `i` of the records of an `smxl`, when it has not been read. -/
def State.recordRead (s : State) (w : Who) (ls : Lines) (m : MOp) (i : Nat) : List Byte × State :=
  match aget m.reads i with
  | some bs => (bs, s)
  | none => s.getBytes w ls 0 (vaRange (vaAdd (m.regs.getD 0 0) (32 * i)) 32)

/-- The sectors of the records of an `smxl` in order, those left read now. -/
def State.recordReads (w : Who) (ls : Lines) (m : MOp) : List Nat → State → List Byte × State
  | [], s => ([], s)
  | i :: is, s =>
    let r := s.recordRead w ls m i
    let q := State.recordReads w ls m is r.2
    (r.1 ++ q.1, q.2)

/-- An `smxs` stores the bytes that it has left at some addresses, and goes on as `k` says. A first write that finds no way waits. -/
def State.recordStore (s : State) (gid idx : Nat) (m : MOp) (w : Who) (ls : Lines) (p : Nat → Bool) (k : State → State) : State :=
  if s.anyReset w ls true then s
  else s.tryAs (Trier.copy m.id).key fun t =>
    (Try.clean t (t.putBytes w ls 0 0 (m.left.filter fun x => p x.1))).map fun t =>
      k (t.modMop gid idx fun m => { m with left := m.left.filter fun x => !p x.1 })

/-- Before its completion an `smxl` reads a sector of its records, or an `smxs` stores some bytes of one (R187, R409). A store that
would be reported comes with the completion. -/
def State.recordsMove (s : State) (gid idx i : Nat) (b : BitVec 32) : State :=
  match s.mopAt gid idx with
  | none => s
  | some (_, m) =>
    let va := vaAdd (m.regs.getD 0 0) (32 * i)
    match m.instr, m.access with
    | .smxl f, some (w, ls) =>
      if nrN f * recStride (ncN f) (mdB f 0) ≤ 32 * i || s.anyReset w ls then s
      else
        let r := s.recordRead w ls m i
        r.2.modMop gid idx fun m => { m with reads := aset m.reads i r.1 }
    | .smxs f, some (w, ls) =>
      if nrN f * recStride (ncN f) (mdB f 0) ≤ 32 * i || (s.storeBad w (keyOf ls 0 va)).isSome then s
      else s.recordStore gid idx m w ls (fun a => a / 32 == va / 32 && b.getLsbD (a % 32)) id
    | _, _ => s

/-- MATRIX_COMPLETE (R187): the instruction at a position of the unit's list completes. A walk goes on as far as it can, an `smxs`
stores what it has left, an `smxl` reads what it has left and writes its region. -/
def State.matrixComplete (s : State) (gid idx : Nat) : State :=
  match s.mopAt gid idx with
  | none => s
  | some (g, m) =>
    match m.instr, m.access with
    | .attn f, _ => s.attnGo gid idx g m f
    | .smxs _, some (w, ls) => s.recordStore gid idx m w ls (fun _ => true) fun t => t.matFinish gid m
    | .smxl f, some (w, ls) =>
      if s.anyReset w ls then s
      else
        let r := State.recordReads w ls m (List.range (nrN f * recStride (ncN f) (mdB f 0) / 32)) s
        (r.2.setGroup gid (g.loadRecords f r.1)).matFinish gid m
    | _, _ => (s.setGroup gid (s.flagged g m)).matFinish gid m

/-- The fault of a walk's reads: the first among those that it may make next. -/
def State.walkFault (s : State) (g : Group) (m : MOp) (f : Fields) : Option (Who × Nat × Nat) :=
  if m.fed then none
  else (s.seqWho g).bind fun w =>
    let d := parseKvd m.desc
    (d.next (nrN f) m.walk).findSome? fun x =>
      match s.fetchNeed w d (nrN f) x.1 (pageRead m.walk x.1) x.2 with
      | .fault c va => some (w, c, va)
      | _ => none

/-- MATRIX_FETCH_FAULT (R447, R448): the walk meets a fault; the quad group is killed and placed again, or at its fourth
fault stops and is reported. One that has ended on a program fault already is not placed again, and its launch completes with FAULT
(DEDUCED, log entry 111; R439, R275). -/
def State.matrixFetchFault (s : State) (gid idx : Nat) : State :=
  match s.mopAt gid idx with
  | none => s
  | some (g, m) =>
    match m.instr with
    | .attn f =>
      match s.walkFault g m f with
      | none => s
      | some (w, c, va) =>
        let s := s.loadsFaulted w [(c, va)]
        if g.faulted then s.killGroup gid none
        else if g.relaunches + 1 < 4 then s.killGroup gid (some (g.relaunches + 1))
        else
          let h := s.nextHandle
          let s := { s with nextHandle := h + 1, postings := aset s.postings h { target := .stoppedGroup gid, lanes := 1 } }
          let s := s.modGroup gid fun g => { g with phase := .stopped, relaunches := g.relaunches + 1 }
          s.enqueue w.die
            { handle := h, addr := BitVec.ofNat 64 va, pc := m.pc, ptbase := w.ptbase, lanes := 1, asid := w.asid, code := c, kind := 3 }
    | _ => s

end Sys2Proof.Machine
end

