-- ==== Sys2Proof/Machine/Control.lean ====
section
/-! DEFINITION. Group 0x0, control flow (R77-R88). -/
namespace Sys2Proof.Machine

/-- Waiting as if the switch marker were set (R47), for the instructions whose entries ask for it before they act: the
instruction issues when the results have returned (log entry 16). -/
def Env.whenOrdered (e : Env) (s : State) (k : Env → State → State) : State :=
  if e.w.flights.isEmpty then k { e with w := e.w.ordered } (s.setWarp e.key e.w.ordered)
  else { s.setWarp e.key { e.w0 with swPark := true } with cur := none }

/-- R78. -/
def execNop (f : Fields) (s : State) : Out := issued (.nop f) f s fun e s => e.done s e.w

/-- The target of `bra` and `call` (R79). -/
def wordTarget (pc : Word) (f : Fields) : Word := pc + BitVec.ofInt 64 (16 * sextN (immN f) 32)

/-- The issuing lanes that take the branch go to their targets, the others to the next word (R77, R79). -/
def Env.branch (e : Env) (s : State) (w : Warp) (m : LaneMask) (tgt : Nat → Word) : State :=
  e.doneAt s (w.updLanes e.lanes fun l x =>
    if x.isRun then { x with pc := if m.getLsbD l then tgt l else x.pc + 16 } else x)

def execBra (f : Fields) (s : State) : Out :=
  issued (.bra f) f s fun e s => e.branch s e.w e.taking fun _ => wordTarget e.pc f

/-- The target of each lane in `brx`, `callx` and `ret` (R80, R83). -/
def Env.regTarget (e : Env) (l : Nat) : Word :=
  (match e.f.a with
   | .v n => (e.v n.toNat).lanes.getD l 0
   | .u n => e.u n.toNat
   | _ => 0) + BitVec.ofInt 64 (sextN (immN e.f) 32)

/-- The tag check of a target register: ADDR or I64 for `brx` and `callx`, ADDR for `ret`. -/
def Env.targetTag (e : Env) (i64 : Bool) : Option Nat :=
  match e.tagOf e.f.a with
  | some t => if t == tagADDR || (i64 && t == 0x0A) then none else some FMT
  | none => none

def canonical (x : Word) : Bool := wbits x 56 8 == (if wbits x 55 1 == 1 then 255 else 0)

/-- Branch to register targets: lanes with a bad target park at the branch (R80); `link` is written in the others (R82). -/
def Env.branchReg (e : Env) (s : State) (link : Warp → LaneMask → Warp) : State :=
  let bad := (lanesOf e.taking).filterMap fun l =>
    let t := e.regTarget l
    if wbits t 0 4 != 0 then some { lane := l, code := ALIGN, addr := t : LaneFault }
    else if !canonical t then some { lane := l, code := XLATE, addr := t }
    else none
  let ok := e.taking &&& ~~~(maskOf (bad.map LaneFault.lane))
  let s1 := takeFaults s e.key e.pc 3 0 bad
  match aget s1.warps e.key with
  | none => s1
  | some w => e.branch s1 (link w ok) ok e.regTarget

def execBrx (f : Fields) (s : State) : Out :=
  issued (.brx f) f s fun e s => e.check s (e.targetTag true) (e.branchReg s fun w _ => w)

/-- The link of `call` and `callx`: pc + 16, tagged ADDR in every lane (R82); a uniform register in the sequencer. -/
def Env.linkWrite (e : Env) (m : LaneMask) : RegWrite :=
  let r := e.pc + 16
  if e.isSeq then .u e.f.d.toNat r
  else
    .v e.f.d.toNat (allLanes.map fun l => if m.getLsbD l then BitVec.allOnes 64 else 0) (List.replicate 32 r)
      (BitVec.ofNat 5 tagADDR) .general

/-- The link is the result of a control-class instruction, hence variable-latency (R244). -/
def Env.putLink (e : Env) (id : Nat) (w : Warp) (m : LaneMask) : Warp :=
  if m == 0 then w else w.fly id e.free [e.linkWrite m] 0 e.paired

/-- A sequencer's link into a bound counter above zero is held (R56). -/
def Env.linkBusy (e : Env) : Bool := e.isSeq && e.taking != 0 && e.w.busy e.f.d.toNat

def execCall (f : Fields) (s : State) : Out :=
  issued (.call f) f s fun e s =>
    if e.linkBusy then e.holds s .counter
    else e.branch { s with nextId := s.nextId + 1 } (e.putLink s.nextId e.w e.taking) e.taking fun _ => wordTarget e.pc f

def execCallx (f : Fields) (s : State) : Out :=
  issued (.callx f) f s fun e s =>
    e.check s (e.targetTag true)
      (if e.linkBusy then e.holds s .counter
       else e.branchReg { s with nextId := s.nextId + 1 } (e.putLink s.nextId))

def execRet (f : Fields) (s : State) : Out :=
  issued (.ret f) f s fun e s => e.check s (e.targetTag false) (e.branchReg s fun w _ => w)

/-- A warp leaves its core from the PREEMPT entry; its parked lanes leave with it (R431). -/
def State.leaveResidence (s : State) (key : Nat) : State := (s.removeWarp key).settleBars

/-- R84, R431. In the sequencer the program ends once its matrix instructions have completed. -/
def execExit (f : Fields) (s : State) : Out :=
  issued (.exit f) f s fun e s =>
    if e.taking == 0 then e.done s e.w
    else e.whenOrdered s fun e s =>
      if e.w.handler == .preempt then { s.leaveResidence e.key with cur := none }
      else
        let w := e.w.updLanes e.taking fun _ x => { x with st := .exited }
        (e.done s w).settle e.key

/-- R85, R253. The hoops are those of the core that the warp runs on, of a migrated warp too, and the hoop is drawn at the
workgroup's home (DESIGN CHOICE, log entry 90). A service warp, which has no workgroup, files its threads into a hoop that no
slot draws (DESIGN CHOICE, log entry 91). -/
def execReform (f : Fields) (s : State) : Out :=
  issued (.reform f) f s fun e s =>
    let donate := match s.recOf e.w with | some r => r.donate | none => false
    if donate then e.faultAll s DONATE
    else if e.taking == 0 then e.done s e.w
    else if !e.w.countersZero then e.holds s .counter
    else e.whenOrdered s fun e s =>
      let r := (lanesOf e.taking).foldl (fun (p : Core × LaneMask) l =>
          let q := fileLane e.w (e.pc + 16) (s.nextId + l) p.1 l
          (q.1, if q.2 then p.2 ||| maskOf [l] else p.2)) (s.core e.w.core, 0)
      let filed := r.2
      let w := e.w.updLanes filed fun _ x => { x with st := .exited }
      let w := w.hold (e.taking &&& ~~~filed) .reform
      let s := { s.setCore e.w.core r.1 with nextId := s.nextId + 32 }
      (e.done s w).settle e.key

/-- Warps of a core, other than one, that are eligible for selection (R243), as far as they themselves decide. -/
def Warp.ready (w : Warp) : Bool :=
  w.dly == 0 && !w.swPark && !w.pendingFault && w.lanes.any Lane.isRun && w.kind != .seq

def State.readyBeside (s : State) (key core : Nat) : List Nat :=
  (s.warps.filter fun e => e.1 != key && e.2.core == core && e.2.ready).map Prod.fst

/-- R86: scheduling only; a `nop` in the sequencer. -/
def execYield (f : Fields) (s : State) : Out :=
  issued (.yield f) f s fun e s =>
    e.done s (if e.isSeq || e.taking == 0 then e.w else { e.w with owes := s.readyBeside e.key e.w.core })

/-- The cycle count of `sleep` (R87). -/
def Env.sleepCount (e : Env) : Nat :=
  match e.f.a with
  | .u n => min (e.u n.toNat).toNat (2 ^ 32 - 1)
  | _ => immN e.f

/-- R87: the guard has no effect; the counters of the sleeping lanes stand past the instruction. -/
def execSleep (f : Fields) (s : State) : Out :=
  issued (.sleep f) f s fun e s =>
    if e.sleepCount = 0 then e.done s e.w
    else e.doneAt s ((e.w.advance e.lanes).hold e.lanes (.sleep (e.w.clk + e.sleepCount)))

/-- TRAP or BRK in every taking lane, with the number of IMM[15:0] (R88); the other lanes continue. -/
def Env.raiseTrap (e : Env) (s : State) (c : Nat) : State :=
  let s1 := takeFaults s e.key e.pc 3 (BitVec.ofNat 16 (immN e.f))
    ((lanesOf e.taking).map fun l => { lane := l, code := c, addr := 0 })
  match aget s1.warps e.key with
  | none => s1
  | some w => e.done s1 w

def execTrap (f : Fields) (s : State) : Out := issued (.trap f) f s fun e s => e.raiseTrap s TRAP

def execBrk (f : Fields) (s : State) : Out := issued (.brk f) f s fun e s => e.raiseTrap s BRK

end Sys2Proof.Machine
end

