-- ==== Sys2Proof/Machine/Sync.lean ====
section
/-! DEFINITION. Group 0xD: barriers (R210-R214), `launch` (R216), migration (R217, R259), donation (R218) and power grants
(R219). -/
namespace Sys2Proof.Machine

/-- Faults of execution of group 0xD park the whole issuing lane set (R209). -/
def Env.refuse (e : Env) (s : State) (code : Nat) : State := e.parkAll s 3 code (Config.faultAddr e.free).toNat

/-- In the sequencer an instruction that reads or writes memory meets its token bucket (R276). -/
def Env.gateSeq (e : Env) (s : State) (k : State) : State := if e.isSeq then e.gate s k else k

/-! ### Hardware barriers (R210, R211) -/

/-- Whether the issuing warp may meet a barrier of a scope, else PERM (R210, R217). -/
def State.barAllowed (s : State) (w : Warp) (scope : Nat) : Bool :=
  match w.kind, aget s.groups w.gid with
  | .service, _ => false
  | _, none => false
  | _, some g =>
    !(w.away.isSome && scope < 2) && !(scope == 1 && !g.isQuad)
      && !(scope == 2 && !(match aget s.launches g.lid with | some l => l.record.cores | none => false))

/-- `bar` and `barm`: the lanes of guard 1 hold, the others go on; the first one opens the phase, of the given count. -/
def Env.barrier (e : Env) (s : State) (count : Option Nat) : State :=
  if e.taking == 0 then e.done s e.w
  else
    let scope := mdN e.f 0 3
    let id := bitsN (immN e.f) 0 4
    if !s.barAllowed e.w scope then e.refuse s PERM
    else
      let k : BarKey := { scope := scope, id := id, dom := s.barDom scope e.w }
      let w := (e.w.hold e.taking (.bar scope id)).advance e.lanes
      let s := e.doneAt s w
      let s := match aget s.phases k.code with
        | some _ => s
        | none => { s with phases := aset s.phases k.code { count := count, away := [] } }
      s.barTry k.code

def execBar (f : Fields) (s : State) : Out := issued (.bar f) f s fun e s => e.barrier s none

def execBarm (f : Fields) (s : State) : Out :=
  issued (.barm f) f s fun e s => e.barrier s (some (bitsN (immN f) 16 8 + 1))

/-! ### Barrier objects (R213, R214) -/

def execBarv (f : Fields) (s : State) : Out :=
  issued (.barv f) f s fun e s =>
    match e.leading with
    | none => e.done s e.w
    | some _ =>
      let va := e.vaA s
      if e.w.busy f.d.toNat then e.holds s .counter
      else e.gateSeq s <|
        let who := e.who s
        match s.checkOne who Acc.atomic 8 va 8 with
        | .inl x => e.parkAll s 2 x.1 x.2
        | .inr ls =>
          if s.anyReset who ls true then e.holds s .reset
          else
            match Try.clean s (s.atomStep who ls 0 va 8 barObjStep) with
            | .error x => e.waits x
            | .ok r => e.uniFly r.2 f.d.toNat (BitVec.ofNat 64 (barPhase r.1))

/-- Targets of `wait`: GLOBAL, CAP and HOST. -/
def Acc.waiting : Acc := { Acc.load with types := 7 }

def execWait (f : Fields) (s : State) : Out :=
  issued (.wait f) f s fun e s =>
    match e.leading with
    | none => e.done s e.w
    | some l =>
      let va := e.vaA s
      e.gateSeq s <|
        let who := e.who s
        match s.checkOne who Acc.waiting 8 va 8 with
        | .inl x => e.parkAll s 3 x.1 x.2
        | .inr ls =>
          if s.anyReset who ls then e.holds s .reset
          else
            let r := s.loadNum who ls 0 va 8
            if barPhase r.1 = bitsN (e.addrPart s f.b l) 0 16 then e.holds s (.wait (keyOf ls 0 va) (barPhase r.1)) else e.done r.2 e.w

/-! ### Launch (R216) -/

/-- The value of a class 01 or 11 source. -/
def Env.uniSrc (e : Env) (s : State) (x : Src) : Nat := e.addrPart s x (e.leading.getD 0)

def execLaunch (f : Fields) (s : State) : Out :=
  issued (.launch f) f s fun e s =>
    match e.leading with
    | none => e.done s e.w
    | some _ =>
      let va := e.vaA s
      let pkg := pkgOfCore e.w.core
      let p := e.uniSrc s f.b % 16
      if e.w.busy f.d.toNat then e.holds s .counter
      else if va % 256 != 0 then e.parkAll s 3 ALIGN va
      else
        match s.trans (e.who s) { types := 5 } va with
        | .fault c => e.parkAll s 3 c va
        | .at (.mmio ..) _ => e.parkAll s 3 PERM va
        | .at (.mem k) _ =>
          let user := if e.w.kind == .service then none else some e.w.ctx.asid
          match s.append pkg p k user none with
          | .ok (some r) => e.uniFly r.2 f.d.toNat (BitVec.ofNat 64 r.1.toNat)
          | .ok none => e.holds s .queue
          | .error x => e.waits x

/-! ### Migration (R217, R259) -/

/-- The target of a migration: no translation, no movement, or a goal. -/
inductive MigTo where
  | xlate
  | stay
  | go (g : Goal)
  deriving DecidableEq, Repr

def Goal.target : Goal → Nat
  | .die d => d
  | .core c => dieOf c

/-- The die that an address stands for (R217, R347). -/
def State.migTarget (s : State) (w : Who) (va : Nat) : MigTo :=
  if !canonicalVa va then .xlate
  else if inAperture va then .go (.core (w.pkg * 256 + bitsN va 20 8))
  else
    match s.leafOf w.core w.asid w.ptbase va with
    | none => .xlate
    | some l =>
      let t := l.type
      if !l.valid then .xlate
      else if t = tGLOBAL then .go (.die (s.pageDie w.pkg (l.live + l.off va / 2 ^ 16)))
      else if t = tSPAD then .go (.core (w.pkg * 256 + l.shd % 256))
      else
        if s.missing w.pkg (l.place w.pkg false va) then .xlate else .stay

/-- A warp goes to a core and a slot of it; at home it is away no more. -/
def Warp.moveTo (w : Warp) (key core slot : Nat) : Warp :=
  { w with core := core, slot := slot, goal := none, away := if core = key / 64 then none else some (dieOf core) }

/-- Lanes held at their `migrate` resume behind it. -/
def Warp.pastMigrate (w : Warp) : Warp :=
  w.updLanes (BitVec.allOnes 32) fun _ x => match x.st with | .hold .migrate => { x with st := .run, pc := x.pc + 16 } | _ => x

/-- The free landing slot of a core. -/
def State.landingSlot (s : State) (core : Nat) : Option Nat :=
  [32, 33].find? fun i => !(s.warps.any fun e => e.2.core == core && e.2.slot == i)

/-- MIGRATE_LAND: the warp takes its home slot, or a free landing slot of its target; with none free it waits. -/
def State.migrateLand (s : State) (key : Nat) : State :=
  match aget s.warps key with
  | none => s
  | some w =>
    match w.goal with
    | none => s
    | some g =>
      let land (s : State) (core slot : Nat) : State :=
        (s.setWarp key (w.moveTo key core slot).pastMigrate).settleBars
      if g.target = dieOf (key / 64) then land s (key / 64) (key % 64)
      else
        match g with
        | .core c => match s.landingSlot c with | some i => land s c i | none => s
        | .die d =>
          match firstFrom 32 (s.die d).landRR fun c => s.landingSlot (32 * d + c) with
          | some (c, i) => land (s.modDie d fun x => { x with landRR := c }) (32 * d + c) i
          | none => s

def execMigrate (f : Fields) (s : State) : Out :=
  issued (.migrate f) f s fun e s =>
    match e.leading with
    | none => e.done s e.w
    | some l =>
      if e.w.kind == .service then e.done s e.w
      else if (e.w.which fun x => !x.isExit) != e.lanes || !e.w.countersZero then e.holds s .migrate
      else e.whenOrdered s fun e s =>
        let va := e.addrPart s f.a l
        match s.migTarget (e.who s) va with
        | .xlate => e.parkAll s 3 XLATE va
        | .stay => e.done s e.w
        | .go g =>
          if g.target = dieOf e.w.core then e.done s e.w
          else (e.doneAt s { e.w.hold e.lanes .migrate with goal := some g }).migrateLand e.key

/-! ### Donation (R218) and grants (R219) -/

/-- Some lane of a warp is held at a `regdon`. -/
def Warp.atRegdon (w : Warp) : Bool := w.lanes.any fun x => match x.st with | .hold .regdon => true | _ => false

/-- R218. Under an all-zero guard there is no fault (R46): the warp goes on, or arrives with no gift, unless other lanes of it have
named one in this arrival. -/
def execRegdon (f : Fields) (s : State) : Out :=
  issued (.regdon f) f s fun e s =>
    let donate := match s.recOf e.w with | some r => r.donate | none => false
    if !donate || e.w.away.isSome then (if e.taking == 0 then e.done s e.w else e.faultAll s DONATE)
    else
      let s := match e.leading with
        | some l => s.modGroup e.w.gid fun g =>
            { g with wgs := modAt g.wgs e.w.wg fun x =>
                { x with gifts := x.gifts.filter (fun y => y.1 != e.w.wid) ++ [(e.w.wid, e.addrPart s f.a l, mdN f 0 5)] } }
        | none =>
          if e.w.atRegdon then s
          else s.modGroup e.w.gid fun g =>
            { g with wgs := modAt g.wgs e.w.wg fun x => { x with gifts := x.gifts.filter fun y => y.1 != e.w.wid } }
      (e.doneAt s (e.w.hold e.lanes .regdon)).tryDonate e.w.gid e.w.wg

def execPgrant (f : Fields) (s : State) : Out :=
  issued (.pgrant f) f s fun e s => e.once s <|
    let n := bitsN (immN f) 0 16
    let g := s.unit e
    if g.grantReq.isSome then e.holds s .grant
    else if n = 0 then e.done (s.setGroup e.w.gid { g with grants := 0 }) e.w
    else
      let id := s.nextId
      let s := { s.setGroup e.w.gid { g with grantReq := some id } with nextId := id + 1 }
      (e.done s (e.w.fly id e.free [] 0 e.paired)).requestGrant (dieOf e.w.core)
        { gid := e.w.gid, mop := none, n := n, units := 512 * n,
          prio := match aget s.launches g.lid with | some l => l.record.prio | none => 0 }

end Sys2Proof.Machine
end

