-- ==== Sys2Proof/Machine/System.lean ====
section
/-! DEFINITION. Group 0xE but for save and restore: `trapret` (R225), control registers (R221, R222), `tlbinv` (R226), `ptw`
and `pgref` (R227, R228), `lnkq` (R223) and `halt` (R224). -/
namespace Sys2Proof.Machine

/-! ### Handles (R225) -/

/-- Whether a `trapret` can still act on a unit: not from the delivery of PREEMPT on, nor once it has left its core (R430). -/
def Group.answers (g : Group) : Bool :=
  match g.phase with | .staging | .running | .stopping | .stopped => true | _ => false

def State.unitAnswers (s : State) (gid : Nat) : Bool :=
  match aget s.groups gid with | some g => g.answers | none => false

/-- Lanes of a warp parked on a posting. -/
def Warp.parkedOn (w : Warp) (h : Nat) : LaneMask :=
  w.which fun x => match x.st with | .park _ _ k => k == h && h != 0 | _ => false

/-- The posting has no lane left: it is no longer outstanding. -/
def State.closePosting (s : State) (key h : Nat) : State :=
  match aget s.warps key with
  | some w => if w.parkedOn h == 0 then { s with postings := adel s.postings h } else s
  | none => { s with postings := adel s.postings h }

/-- Act on the lanes of a warp that are parked on a posting: their set, and the state. -/
def State.trapWarp (s : State) (key h : Nat) (mask : LaneMask) (act : Nat) : LaneMask × State :=
  match aget s.warps key with
  | none => (0, s)
  | some w =>
    let m := w.parkedOn h &&& mask
    let w := if act = 2 then w.updLanes m fun _ x => { x with st := .exited } else w.resume m (act == 1)
    (m, ((s.setWarp key w).closePosting key h).settle key)

/-- `trapret` on a handle (R225, R271, R448): the lanes it acted on, and the state. -/
def State.trapret (s : State) (h : Nat) (mask : LaneMask) (act : Nat) : LaneMask × State :=
  match (aget s.postings h).map Posting.target with
  | some (.warp key) =>
    match aget s.warps key with
    | some w => if w.kind == .service || s.unitAnswers w.gid then s.trapWarp key h mask act else (0, s)
    | none => (0, s)
  | some (.seqOf gid) =>
    match (aget s.groups gid).bind fun g => if g.answers then g.seq else none with
    | some key => s.trapWarp key h (mask &&& 1) act
    | none => (0, s)
  | some (.staging gid wg) =>
    if act = 0 then
      (0, { s.modGroup gid fun g => { g with wgs := modAt g.wgs wg fun x => { x with errs := [] } } with
            postings := adel s.postings h })
    else if act = 2 then (0, { s with postings := adel s.postings h }.faultEnd gid)
    else (0, s)
  | some (.stoppedGroup gid) =>
    if mask.getLsbD 0 then
      (1, { s with postings := adel s.postings h }.killGroup gid (if act = 2 then none else some 0))
    else (0, s)
  | _ => (0, s)

/-- `trapret` acts whether or not another lane leads: for the warp, if its issuing lane set has a leading lane (R220). -/
def Env.trapRet (e : Env) (s : State) (act : Nat) : State :=
  e.once s <|
    if e.w.busy e.f.d.toNat then e.holds s .counter
    else
      let r := s.trapret (e.uniSrc s e.f.a) (BitVec.ofNat 32 (e.uniSrc s e.f.b)) act
      match aget r.2.warps e.key with
      | some w => { e with w := w }.uniFly r.2 e.f.d.toNat (r.1.setWidth 64)
      | none => { r.2 with cur := none }

def execTrapret (f : Fields) (s : State) : Out := issued (.trapret f) f s fun e s => e.trapRet s 0

def execTrapretSkip (f : Fields) (s : State) : Out := issued (.trapretSkip f) f s fun e s => e.trapRet s 1

def execTrapretKill (f : Fields) (s : State) : Out := issued (.trapretKill f) f s fun e s => e.trapRet s 2

/-! ### Control registers (R221) -/

/-- Entries of a CSR's index range. -/
def csrRange (n : Nat) : Nat :=
  if 0x0B ≤ n && n ≤ 0x0F then 16 else if n = 0x13 || n = 0x14 then 40 else 1

def csrUser (n : Nat) : Bool := [0, 1, 2, 3, 6, 7, 0xA, 0xD, 0x14].contains n

/-- Link `i` of the package of a core. -/
def State.linkOf (s : State) (core i : Nat) : Link := s.link (linkKey (pkgOfCore core) i)

/-- The value of a CSR other than FSTAT, as an agent sees it. -/
def State.csr (s : State) (w : Warp) (n i : Nat) : Word :=
  let c := s.core w.core
  let d := s.die (dieOf w.core)
  let p := s.pkg (pkgOfCore w.core)
  let ch := s.chain (pkgOfCore w.core) i
  match n with
  | 1 => c.reformage.setWidth 64
  | 2 => c.swapthr.setWidth 64
  | 3 => w.ctx.asid.setWidth 64
  | 4 => w.ctx.ptbase
  | 5 => w.ctx.ctxbase
  | 6 => w.ctx.utrapvec
  | 7 => w.ctx.errqbase
  | 8 => d.trapvec
  | 9 => d.svcq
  | 0xA => p.migthr.setWidth 64
  | 0xB => ch.readHead
  | 0xC => BitVec.ofNat 64 (recAddr ch.tail.toNat)
  | 0xD => ch.readDone
  | 0xE => (s.linkOf w.core i).ctl
  | 0xF => (s.linkOf w.core i).stat
  | 0x10 => p.bfcfg
  | 0x11 => p.pwrctl
  | 0x12 => p.alarmcfg
  | 0x13 => (s.counter w.core i).sel
  | 0x14 => (s.counter w.core i).count.setWidth 64
  | _ => 0

/-- Number and index of a CSR instruction. -/
def csrNum (f : Fields) : Nat := bitsN (immN f) 0 8
def Env.csrIdx (e : Env) (s : State) : Nat := bitsN (immN e.f) 8 8 + e.uniSrc s e.f.b % 256

/-- ILLOP before PRIV (R67, R221). The index adds a register, so these are faults of execution and not decode checks: they are
raised only where a lane leads, and a `csrw` outside a service warp meets the PRIV of check 4 before them (DESIGN CHOICE, log entry
106). -/
def Env.csrFault (e : Env) (s : State) (priv : Bool) : Option Nat :=
  if csrRange (csrNum e.f) ≤ e.csrIdx s then some ILLOP
  else if priv && e.w.kind != .service && !csrUser (csrNum e.f) then some PRIV
  else none

def execCsrr (f : Fields) (s : State) : Out :=
  issued (.csrr f) f s fun e s => e.once s <|
    e.check s (e.csrFault s true) <|
      if e.w.busy f.d.toNat then e.holds s .counter
      else if csrNum f = 0 then
        let r := e.w.readFlags e.free
        { e with w := r.2 }.uniFly s f.d.toNat (r.1.setWidth 64)
      else e.uniFly s f.d.toNat (s.csr e.w (csrNum f) (e.csrIdx s))

/-- The context CSRs after a write (R325, R436, R444). -/
def Ctx.write (c : Ctx) (n : Nat) (v : Word) : Ctx :=
  match n with
  | 3 => { c with asid := v.setWidth 16 }
  | 4 => { c with ptbase := v &&& 0x00FFFFFFFFFF8000 }
  | 5 => { c with ctxbase := v &&& 0x00FFFFFFFFFFFFC0 }
  | 6 => { c with utrapvec := v &&& 0xFFFFFFFFFFFFFFF0 }
  | 7 => { c with errqbase := v &&& 0x00FFFFFFFFFFF00F }
  | _ => c

/-- A write of a CSR that is held outside the warp; FSTAT takes no write (R29). LCTAIL is apart. -/
def State.writeCsr (s : State) (core n i : Nat) (v : Word) : State :=
  let pkg := pkgOfCore core
  match n with
  | 1 => s.modCore core fun c => { c with reformage := v.setWidth 16 }
  | 2 => s.modCore core fun c => { c with swapthr := v.setWidth 32 }
  | 8 => s.modDie (dieOf core) fun d => { d with trapvec := v &&& 0xFFFFFFFFFFFFFFF0 }
  | 9 => s.modDie (dieOf core) fun d => { d with svcq := v &&& 0x00FFFFFFFFFE0000 }
  | 0xA => s.modPkg pkg fun p => { p with migthr := v.setWidth 16 }
  | 0xB => s.writeHead pkg i v
  | 0xE => s.writeLnkctl (linkKey pkg i) v
  | 0x10 => s.writeBfcfg pkg v
  | 0x11 => s.writePwrctl pkg v
  | 0x12 => s.writeAlarmcfg pkg v
  | 0x13 => s.writeCntsel core i v
  | 0x14 => s.writeCntval core i v
  | _ => s

def execCsrw (f : Fields) (s : State) : Out :=
  issued (.csrw f) f s fun e s => e.once s <|
    e.check s (e.csrFault s false) <| e.whenOrdered s fun e s =>
      let v := BitVec.ofNat 64 (e.uniSrc s f.a)
      let n := csrNum f
      let i := e.csrIdx s
      if n = 0xC then
        match s.append (pkgOfCore e.w.core) i (recAddr v.toNat) none none with
        | .ok (some r) => e.done r.2 e.w
        | .ok none => e.holds s .queue
        | .error x => e.waits x
      else e.done (s.writeCsr e.w.core n i v) { e.w with ctx := e.w.ctx.write n v }

/-! ### Translations (R226-R228) -/

/-- The cores and the dies that a scope reaches from a core: `.core` and `.quad` reach only L1 TLBs. -/
def scopeCores (scope core : Nat) (c : Nat) : Bool :=
  match scope with
  | 0 => c == core
  | 1 => c / 4 == core / 4
  | 2 => c / 32 == core / 32
  | 3 => c / 256 == core / 256
  | _ => true

def scopeDies (scope core : Nat) (d : Nat) : Bool :=
  match scope with
  | 0 => false
  | 1 => false
  | 2 => d == core / 32
  | 3 => d / 8 == core / 256
  | _ => true

/-- An ASID is among those of an invalidation. -/
def ofAsid (asid : Option (BitVec 16)) (a : BitVec 16) : Bool := match asid with | some x => a == x | none => true

/-- Invalidate by ASID, or everything. -/
def State.shootAll (s : State) (cores dies : Nat → Bool) (asid : Option (BitVec 16)) : State :=
  s.tlbDrop cores dies (fun t => ofAsid asid t.asid) (fun e => ofAsid asid (BitVec.ofNat 16 e.1))

/-- A copy or an engine of some core or die in the scope of an instruction uses a translation that an invalidation covers. -/
def Env.inUse (e : Env) (s : State) (uses : Who × List (Nat × Place) → Bool) : Bool :=
  s.inFlight.any fun x => (scopeCores (mdN e.f 0 3) e.w.core x.1.core || scopeDies (mdN e.f 0 3) e.w.core x.1.die) && uses x

/-- The effect of a `tlbinv`: it waits for the copies and engines that use what it covers (R176, R226). -/
def Env.tlbinv (e : Env) (s : State) (uses : Who × List (Nat × Place) → Bool) (g : (Nat → Bool) → (Nat → Bool) → State) : State :=
  e.once s <|
    if e.inUse s uses then e.holds s .copies
    else
      let s := g (scopeCores (mdN e.f 0 3) e.w.core) (scopeDies (mdN e.f 0 3) e.w.core)
      e.finish { s with nextId := s.nextId + 1 } fun w => w.fly s.nextId e.free [] 0 e.paired

def execTlbinvAddr (f : Fields) (s : State) : Out :=
  issued (.tlbinvAddr f) f s fun e s =>
    let asid := BitVec.ofNat 16 (e.uniSrc s f.b)
    let va := e.uniSrc s f.a
    e.tlbinv s (usesVa asid va) fun cs ds => s.tlbInvAddr cs ds asid va

def execTlbinvAsid (f : Fields) (s : State) : Out :=
  issued (.tlbinvAsid f) f s fun e s =>
    let asid := some (BitVec.ofNat 16 (e.uniSrc s f.b))
    e.tlbinv s (fun x => ofAsid asid x.1.asid) fun cs ds => s.shootAll cs ds asid

def execTlbinvAll (f : Fields) (s : State) : Out :=
  issued (.tlbinvAll f) f s fun e s => e.tlbinv s (fun _ => true) fun cs ds => s.shootAll cs ds none

/-- Complete an instruction whose result is a uniform register, in a state in which other agents may have moved. -/
def Env.uniFinish (e : Env) (s : State) (val : Word) : State :=
  match aget s.warps e.key with
  | some w => { e with w := w }.uniFly s e.f.d.toNat val
  | none => { s with cur := none }

/-- `ptw`. -/
def execPtw (f : Fields) (s : State) : Out :=
  issued (.ptw f) f s fun e s => e.once s <|
    if e.w.busy f.d.toNat then e.holds s .counter
    else
      let va := e.uniSrc s f.a
      let pkg := pkgOfCore e.w.core
      match s.entryAt (dieOf e.w.core) va (mdB f 3).toNat 4 (ptbAddr e.w.ctx.ptbase) with
      | .inl level => e.uniFly s f.d.toNat (BitVec.ofNat 64 level)
      | .inr key =>
        if e.inUse s (usesVa e.w.ctx.asid va) then e.holds s .copies
        else
        match s.agentWrite pkg key (leBytes 8 (e.uniSrc s f.b) ++ leBytes 8 (e.uniSrc s f.c)) with
        | .error x => e.waits x
        | .ok s =>
          let sc := mdN f 0 3
          e.uniFinish (s.tlbInvAddr (scopeCores sc e.w.core) (scopeDies sc e.w.core) e.w.ctx.asid va) 0

/-- The region that a target type selects, as address bits [55:54] (R322). -/
def Leaf.region (l : Leaf) : Nat := min l.type 3

/-- FRAME of `pgref`: address bits [55:16] of the frame. -/
def Leaf.frameAddr (l : Leaf) : Nat := l.frame + l.region * 2 ^ 38

/-- `pgref`. -/
def execPgref (f : Fields) (s : State) : Out :=
  issued (.pgref f) f s fun e s => e.once s <|
    if e.w.busy f.d.toNat then e.holds s .counter
    else
      let va := e.uniSrc s f.a
      let pkg := pkgOfCore e.w.core
      let delta : Int := match f.b with | .imm => sextN (immN f) 32 | b => sextN (e.uniSrc s b) 32
      match s.walk (dieOf e.w.core) e.w.ctx.ptbase va with
      | .fail _ => e.uniFly s f.d.toNat (BitVec.ofNat 64 (2 ^ 62))
      | .leaf key level lo hi =>
        let old := wbits lo 10 16
        let new : Int := old + delta
        if new < 0 || 65535 < new then e.uniFly s f.d.toNat (BitVec.ofNat 64 (2 ^ 62 + old))
        else
          let freed := new == 0 && old != 0
          let lo1 := wbits lo 26 38 * 2 ^ 26 + new.toNat * 2 ^ 10 + wbits lo 0 10
          if freed && e.inUse s (usesVa e.w.ctx.asid va) then e.holds s .copies
          else
          match s.agentWrite pkg key (leBytes 8 (if freed then lo1 / 2 * 2 else lo1)) with
          | .error x => e.waits x
          | .ok s =>
            let sc := mdN f 0 3
            let s := if freed then s.tlbInvAddr (scopeCores sc e.w.core) (scopeDies sc e.w.core) e.w.ctx.asid va else s
            let frame := (s.mkLeaf level lo hi).frameAddr
            e.uniFinish s (BitVec.ofNat 64 (new.toNat + (if freed then 2 ^ 63 + frame * 2 ^ 16 else 0)))

/-! ### Links and halting (R223, R224) -/

def execLnkq (f : Fields) (s : State) : Out :=
  issued (.lnkq f) f s fun e s => e.once s <|
    e.uniFly s f.d.toNat ((s.linkOf e.w.core (bitsN (immN f) 0 4)).item (bitsN (immN f) 4 3))

/-- Issue stops on the die; what is outstanding completes, and what it leaves dirty is written back as it does. -/
def execHalt (f : Fields) (s : State) : Out :=
  issued (.halt f) f s fun e s => e.once s <|
    let die := dieOf e.w.core
    e.finish ((s.cleanDie die).modDie die fun d => { d with halted := true }) id

end Sys2Proof.Machine
end

