-- ==== Sys2Proof/Machine/SaveRestore.lean ====
section
/-! DEFINITION. Saving and restoring a context (R229-R235): the layouts of the sections, shared with the hardware save, and
the eight instructions. -/
namespace Sys2Proof.Machine

/-! ### Accesses to a save area (R229) -/

/-- Targets of a save or restore: GLOBAL, CAP and HOST. -/
def Acc.saveOut : Acc := { Acc.store with types := 7 }
def Acc.saveIn : Acc := { Acc.load with types := 7 }

/-- Whether `n` bytes lie in the save area of the warp's workgroup; a service warp is not bound. -/
def State.inArea (s : State) (w : Warp) (va n : Nat) : Bool :=
  w.kind == .service ||
    (match s.recOf w, s.wgOf w with
     | some r, some g => (va + 2 ^ 64 - r.saveArea g.index) % 2 ^ 64 + n ≤ r.str
     | _, _ => false)

/-- The checks of a transfer behind that of its address: the bounds of the area, then every page (log entry 25). -/
def Env.area (e : Env) (s : State) (a : Acc) (va n : Nat) : (Nat × Nat) ⊕ Lines :=
  if !s.inArea e.w va n then .inl (PERM, va) else s.transAll (e.who s) a (vaRange va n)

/-- A save: the bytes go to the area, and `sD` receives their number. -/
def Env.saveOut (e : Env) (s : State) (va : Nat) (bs : List Byte) : State :=
  if e.w.busy e.f.d.toNat then e.holds s .counter
  else
    match (if va % 64 != 0 then .inl (ALIGN, va) else e.area s Acc.saveOut va bs.length : (Nat × Nat) ⊕ Lines) with
    | .inl x => e.parkAll s 3 x.1 x.2
    | .inr ls =>
      let who := e.who s
      if s.anyReset who ls true then e.holds s .reset
      else
        match Try.clean s (s.storeAt who ls 0 0 ((vaRange va bs.length).zip bs)) with
        | .error x => e.waits x
        | .ok s => e.uniFinish s (BitVec.ofNat 64 bs.length)

/-- A restore: the bytes of the area, once every check on the transfer has passed. -/
def Env.saveIn (e : Env) (s : State) (va n : Nat) (k : List Byte → State → State) : State :=
  match (if va % 64 != 0 then .inl (ALIGN, va) else e.area s Acc.saveIn va n : (Nat × Nat) ⊕ Lines) with
  | .inl x => e.parkAll s 3 x.1 x.2
  | .inr ls =>
    let who := e.who s
    if s.anyReset who ls then e.holds s .reset
    else let r := s.getBytes who ls 0 (vaRange va n); k r.1 r.2

/-- The check on a restored section fails: nothing changes (R231, R233-R235). -/
def Env.badSection (e : Env) (s : State) (code : Nat) : State := e.parkAll s 3 code (Config.faultAddr e.free).toNat

def zeros (n : Nat) : List Byte := List.replicate n 0

def allZero (bs : List Byte) : Bool := bs.all (· == 0)

/-- `n` bytes of a list from an offset, as a number. -/
def numAt (bs : List Byte) (off n : Nat) : Nat := leNat ((bs.drop off).take n)

/-! ### The control section (R230, R231) -/

/-- Counter with bit 0 PARKED, FCODE and TCODE of a lane. -/
def Lane.saved (x : Lane) (issuing : Bool) : Nat × Nat × Nat :=
  match x.delivery with
  | .some d => (d.counter.toNat, d.fcode.toNat, d.tcode.toNat)
  | .none =>
    match x.st with
    | .park c t _ => ((x.pc ||| 1).toNat, c, if c = TRAP ∨ c = BRK then t.toNat else 0)
    | _ => ((if issuing then x.pc + 16 else x.nextPc).toNat, 0, 0)

/-- The 1,600 bytes; `issuing` names the lanes that issue a `pcsv`. -/
def controlBytes (w : Warp) (issuing : LaneMask) (u : Nat → Word) (q : Nat → List PBits) : List Byte :=
  let lane (l : Nat) : List Byte :=
    let r := (w.lane l).saved (issuing.getLsbD l)
    leBytes 8 r.1 ++ leBytes 2 (w.lane l).tid.toNat ++ leBytes 1 r.2.1 ++ leBytes 2 r.2.2 ++ zeros 3
  leBytes 2 w.vregs.length ++ leBytes 1 w.role ++ leBytes 1 w.wid ++ leBytes 4 w.drawn.toNat ++ leBytes 8 w.allFlags.toNat
    ++ leBytes 4 (w.which Lane.isExit).toNat ++ zeros 44 ++ allLanes.flatMap lane
    ++ ((List.range 8).flatMap fun k => allLanes.flatMap fun l =>
          leBytes 2 (if k = 0 then 65535 else ((q k).getD l 0).toNat))
    ++ (List.range 64).flatMap fun n => leBytes 8 (u n).toNat

/-- A control section as it is read back. -/
structure Control where
  budget : Nat
  role : Nat
  wid : Nat
  drawn : Bool
  fstat : BitVec 5
  exited : LaneMask
  lanes : List (Nat × BitVec 16)  -- counter with PARKED, thread id
  preds : List (List PBits)
  uregs : List Word
  deriving DecidableEq, Repr

/-- Read a control section; nothing when a reserved byte or bit is set or `q0` does not read all ones (R231). -/
def parseControl (bs : List Byte) : Option Control :=
  let lane (l : Nat) (off n : Nat) : Nat := numAt bs (0x40 + 16 * l + off) n
  let ok := numAt bs 4 4 < 2 && numAt bs 8 8 < 32 && allZero ((bs.drop 0x14).take 44)
    && (allLanes.all fun l => lane l 13 3 == 0 && lane l 0 8 % 16 < 2)
    && ((bs.drop 0x240).take 64).all (· == 0xFF)
  if ok then
    some { budget := numAt bs 0 2, role := numAt bs 2 1, wid := numAt bs 3 1, drawn := numAt bs 4 4 == 1,
           fstat := BitVec.ofNat 5 (numAt bs 8 8), exited := BitVec.ofNat 32 (numAt bs 0x10 4),
           lanes := allLanes.map fun l => (lane l 0 8, BitVec.ofNat 16 (lane l 8 2)),
           preds := (List.range 8).map fun k => allLanes.map fun l => BitVec.ofNat 16 (numAt bs (0x240 + 64 * k + 2 * l) 2),
           uregs := (List.range 64).map fun n => BitVec.ofNat 64 (numAt bs (0x440 + 8 * n) 8) }
  else none

/-- The counters of the lanes saved as PARKED, which re-execute at once. -/
def Control.parked (c : Control) : List Nat :=
  ((mapFrom 0 (fun l (x : Nat × BitVec 16) => (l, x)) c.lanes).filterMap fun x =>
    if c.exited.getLsbD x.1 || x.2.1 % 2 == 0 then none else some (x.2.1 - 1)).eraseDups

/-- The warp with the control state of a section (R231). -/
def Warp.restoreControl (w : Warp) (c : Control) : Warp :=
  { w with
    lanes := mapFrom 0 (fun l (x : Nat × BitVec 16) =>
      { pc := BitVec.ofNat 64 (x.1 / 2 * 2), st := if c.exited.getLsbD l then .exited else .run, tid := x.2, delivery := none }) c.lanes,
    preds := List.replicate 32 allOnes16 :: c.preds.drop 1, uregs := c.uregs, bound := [], fstat := c.fstat, recent := [],
    drawn := c.drawn, handler := .none, starve := [], first := none, replay := c.parked, owes := [] }

def execPcsv (f : Fields) (s : State) : Out :=
  issued (.pcsv f) f s fun e s => e.once s <| e.gate s <|
    if !e.w.countersZero then e.holds s .counter
    else e.whenOrdered s fun e s => e.saveOut s (e.vaA s) (controlBytes e.w e.lanes e.u e.q)

/-- Postings of a warp go with the parked lanes that a restore replaces. -/
def execPcrs (f : Fields) (s : State) : Out :=
  issued (.pcrs f) f s fun e s => e.once s <| e.gate s <| e.whenOrdered s fun e s =>
    e.saveIn s (e.vaA s) 1600 fun bs s =>
      match parseControl bs with
      | none => e.badSection s FMT
      | some c =>
        if c.budget != e.w.vregs.length || c.role != e.w.role || c.wid != e.w.wid || !e.w.countersZero then e.badSection s FMT
        else
          let s := s.dropPostings (.warp e.key)
          (e.doneAt s (e.w.restoreControl c)).settle e.key

/-! ### Register records (R232, R233) -/

/-- A delta as a signed value. -/
def deltas (r : VReg) : List Int := r.lanes.map fun x => (x - r.lanes.headD 0).toInt

def recHead (tag : BitVec 5) (shape enc len : Nat) : List Byte :=
  leBytes 8 (tag.toNat + shape * 2 ^ 5 + enc * 2 ^ 8 + len * 2 ^ 16)

/-- The record of a register. The lanes of an L6 register are recorded as the register holds them, bits [63:60] too (R122), although
they read as zero as a source (R19): DESIGN CHOICE, log entry 92. -/
def VReg.record (r : VReg) : List Byte :=
  let base := leBytes 8 (r.lanes.headD 0).toNat
  if r.tag == 0 then recHead 0 0 0 16 ++ zeros 8
  else
    match r.shape with
    | .uniform => recHead r.tag 1 0 16 ++ base
    | .affine t => recHead r.tag 2 0 32 ++ base ++ leBytes 4 t.toNat ++ zeros 12
    | .general =>
      let ds := deltas r
      if ds.all fun d => -(2 ^ 7) ≤ d && d < 2 ^ 7 then
        recHead r.tag 0 1 48 ++ base ++ ds.flatMap fun d => leBytes 1 (wrapN d 8)
      else if ds.all fun d => -(2 ^ 15) ≤ d && d < 2 ^ 15 then
        recHead r.tag 0 2 80 ++ base ++ ds.flatMap fun d => leBytes 2 (wrapN d 16)
      else recHead r.tag 0 3 272 ++ (r.lanes.flatMap fun x => leBytes 8 x.toNat) ++ zeros 8

/-- The length of a record by its header; nothing for a header that fails a check of R233. -/
def recLen (h : Nat) : Option Nat :=
  let tag := bitsN h 0 5
  let shape := bitsN h 5 2
  let enc := bitsN h 8 2
  let len := bitsN h 16 16
  let want : Nat :=
    if 0x14 ≤ tag || shape = 3 then 0
    else if tag = 0 then (if enc = 0 then 16 else 0)
    else if shape = 1 then (if enc = 0 then 16 else 0)
    else if shape = 2 then (if enc = 0 && fmtIntAddr tag then 32 else 0)
    else if enc = 1 then 48 else if enc = 2 then 80 else if enc = 3 then 272 else 0
  if want != 0 && len = want && bitsN h 7 1 = 0 && bitsN h 10 6 = 0 && h < 2 ^ 32 then some len else none

/-- Lane `i` of an affine register (R249). -/
def affineLane (tag : Nat) (b : Word) (t : BitVec 32) (i : Nat) : Word :=
  let w := fmtWidth tag
  BitVec.ofNat 64 ((List.range (nSub tag)).foldl (fun a j =>
    a + wrapN ((subEl tag b j : Int) + (i : Int) * t.toInt) w * 2 ^ (w * j)) 0)

/-- The register of a record whose length fits its header; nothing when a byte after the payload is set. -/
def parseVReg (bs : List Byte) : Option VReg :=
  let h := numAt bs 0 8
  let tag : BitVec 5 := BitVec.ofNat 5 (bitsN h 0 5)
  let base : Word := BitVec.ofNat 64 (numAt bs 8 8)
  let tail (n : Nat) (r : VReg) : Option VReg := if allZero (bs.drop n) then some r else none
  if tag == 0 then tail 8 VReg.void
  else if bitsN h 5 2 = 1 then tail 16 { tag := tag, shape := .uniform, lanes := List.replicate 32 base }
  else if bitsN h 5 2 = 2 then
    let t : BitVec 32 := BitVec.ofNat 32 (numAt bs 16 4)
    tail 20 { tag := tag, shape := .affine t, lanes := allLanes.map (affineLane tag.toNat base t) }
  else
    let delta (n : Nat) : List Word := allLanes.map fun l => base + BitVec.ofInt 64 (sextN (numAt bs (16 + n * l) n) (8 * n))
    match bitsN h 8 2 with
    | 1 => tail 48 { tag := tag, shape := .general, lanes := delta 1 }
    | 2 => tail 80 { tag := tag, shape := .general, lanes := delta 2 }
    | _ => tail 264 { tag := tag, shape := .general, lanes := allLanes.map fun l => BitVec.ofNat 64 (numAt bs (8 + 8 * l) 8) }

/-- First register and number of registers. -/
def Env.regRange (e : Env) : Nat × Nat :=
  match e.f.c with
  | .v n => (n.toNat, mdN e.f 0 8 + 1)
  | _ => (0, 0)

def execVsave (f : Fields) (s : State) : Out :=
  issued (.vsave f) f s fun e s => e.once s <| e.gate s <|
    e.saveOut s (e.vaA s) ((List.range e.regRange.2).flatMap fun i => (e.v (e.regRange.1 + i)).record)

/-- Read `n` consecutive records: the fault, or the registers and the bytes they take. -/
def Env.readRecords (e : Env) (s : State) (va : Nat) : Nat → (Nat × Nat) ⊕ (List VReg × Nat)
  | 0 => .inr ([], 0)
  | n + 1 =>
    let bytes (ls : Lines) (k : Nat) : List Byte := (vaRange va k).map fun a => memGet s.mem (keyOf ls 0 a)
    match e.area s Acc.saveIn va 16 with
    | .inl x => .inl x
    | .inr ls =>
      match recLen (leNat (bytes ls 8)) with
      | none => .inl (FMT, va)
      | some len =>
        match e.area s Acc.saveIn va len with
        | .inl x => .inl x
        | .inr ls =>
          match parseVReg (bytes ls len), e.readRecords s (vaAdd va len) n with
          | none, _ => .inl (FMT, va)
          | some _, .inl x => .inl x
          | some r, .inr (rs, m) => .inr (r :: rs, len + m)

/-- A whole register as a write. -/
def fullWrite (n : Nat) (r : VReg) : RegWrite := .v n (List.replicate 32 (BitVec.allOnes 64)) r.lanes r.tag r.shape

def execVrest (f : Fields) (s : State) : Out :=
  issued (.vrest f) f s fun e s => e.once s <| e.gate s <|
    if e.w.busy f.d.toNat then e.holds s .counter
    else
      let va := e.vaA s
      match (if va % 64 != 0 then .inl (ALIGN, va) else e.readRecords s va e.regRange.2 : (Nat × Nat) ⊕ (List VReg × Nat)) with
      | .inl x => if x.1 = FMT then e.badSection s FMT else e.parkAll s 3 x.1 x.2
      | .inr (rs, n) =>
        e.saveIn s va n fun _ s =>
          e.flyDone s (mapFrom e.regRange.1 fullWrite rs ++ [.u f.d.toNat (BitVec.ofNat 64 n)]) 0

/-! ### Accumulators (R234) -/

/-- Stride of a row record. -/
def accStride (nc : Nat) : Nat := (32 + 12 * nc + (nc + 7) / 8 + 31) / 32 * 32

/-- The bytes of a row's record: the header with ROWSUM, the elements, the SP bits. -/
def Group.accRow (g : Group) (r c0 nc : Nat) : List Byte :=
  let st := g.row r
  let els := (List.range nc).map fun j => g.el r (c0 + j)
  let sp := (mapFrom 0 (fun j (x : AccEl) => if x.sp then 2 ^ j else 0) els).foldl (· + ·) 0
  leBytes 4 st.m.toNat ++ leBytes 12 st.l.toNat ++ leBytes 2 (st.empty.toNat + 2 * st.nan.toNat) ++ zeros 6
    ++ leBytes 8 st.rowsum.toNat ++ (els.flatMap fun x => leBytes 12 x.v.toNat) ++ leBytes ((nc + 7) / 8) sp
    ++ zeros (accStride nc - (32 + 12 * nc + (nc + 7) / 8))

def csumBytes (nc : Nat) : Nat := (8 * nc + 31) / 32 * 32

/-- The bytes of a region (R234). -/
def Group.accBytes (g : Group) (r0 nr c0 nc : Nat) (csum : Bool) : List Byte :=
  ((List.range nr).flatMap fun i => g.accRow (r0 + i) c0 nc) ++
    if csum then
      ((List.range nc).flatMap fun j => leBytes 8 ((aget (g.mc ((c0 + j) / 256)).colsum ((c0 + j) % 256)).getD 0).toNat)
        ++ zeros (csumBytes nc - 8 * nc)
    else []

/-- The checks of `accrs` on a row record. -/
def accRowOk (nc : Nat) (b : List Byte) : Bool :=
  numAt b 16 2 < 4 && numAt b 18 6 == 0 && numAt b (32 + 12 * nc) ((nc + 7) / 8) < 2 ^ nc
    && allZero (b.drop (32 + 12 * nc + (nc + 7) / 8))

/-- Restore a region from its bytes; nothing when a check fails. -/
def Group.accRestore (g : Group) (r0 nr c0 nc : Nat) (csum : Bool) (bs : List Byte) : Option Group :=
  let rows := (List.range nr).map fun i => (bs.drop (i * accStride nc)).take (accStride nc)
  let cs := bs.drop (nr * accStride nc)
  if !rows.all (accRowOk nc) || (csum && !allZero (cs.drop (8 * nc))) then none
  else
    let g1 := (mapFrom 0 (fun i b => (i, b)) rows).foldl (fun (h : Group) (p : Nat × List Byte) =>
      h.modRow (r0 + p.1) fun st => { loadRecord st p.2 with rowsum := BitVec.ofNat 64 (numAt p.2 24 8) }) g
    let g2 := g1.mapRegion r0 nr c0 nc fun i j _ =>
      let b := rows.getD i []
      { v := BitVec.ofNat 96 (numAt b (32 + 12 * j) 12), sp := bitsN (numAt b (32 + 12 * nc + j / 8) 1) (j % 8) 1 == 1 }
    some (if csum then
      (List.range nc).foldl (fun (h : Group) j => h.modCore ((c0 + j) / 256) fun m =>
        { m with colsum := aset m.colsum ((c0 + j) % 256) (BitVec.ofNat 64 (numAt cs (8 * j) 8)) }) g2
    else g2)

/-- What a transfer of accumulators touches (R234). -/
def accFoot (f : Fields) : Foot :=
  { regionFoot f true with rsum := [(rowN f, rowN f + nrN f)], csum := if mdB f 0 then [(colN f, colN f + ncN f)] else [] }

/-- What both transfers meet first: a quad group's own resident warp, and a region within its columns. -/
def Env.accGate (e : Env) (s : State) (k : Group → State) : State :=
  e.once s <| e.gate s <|
    match s.group? e.w with
    | none => e.badSection s PERM
    | some g =>
      if !g.isQuad || e.w.away.isSome then e.badSection s PERM
      else if 256 * g.width < colN e.f + ncN e.f then e.badSection s TILE
      else k g

def execAccsv (f : Fields) (s : State) : Out :=
  issued (.accsv f) f s fun e s =>
    e.accGate s fun g =>
      if g.mops.any fun m => m.foot.shares (accFoot f) then e.holds s .interlock
      else e.saveOut s (e.uniSrc s f.a) (g.accBytes (rowN f) (nrN f) (colN f) (ncN f) (mdB f 0))

def execAccrs (f : Fields) (s : State) : Out :=
  issued (.accrs f) f s fun e s =>
    e.accGate s fun g =>
      if e.w.busy f.d.toNat then e.holds s .counter
      else
        let n := nrN f * accStride (ncN f) + (if mdB f 0 then csumBytes (ncN f) else 0)
        e.saveIn s (e.uniSrc s f.a) n fun bs s =>
          match g.accRestore (rowN f) (nrN f) (colN f) (ncN f) (mdB f 0) bs with
          | none => e.badSection s FMT
          | some g => e.uniFly (s.setGroup e.w.gid g) f.d.toNat (BitVec.ofNat 64 n)

/-! ### Tile records (R235) -/

def Tile.record (t : Tile) : List Byte :=
  leBytes 4 (256 * t.base.toNat) ++ leBytes 1 t.rows.toNat ++ leBytes 1 t.pitch.toNat ++ leBytes 1 t.rowb.toNat
    ++ leBytes 1 t.fmt.toNat ++ leBytes 1 (t.swz.toNat + 8 * t.core.toNat + 32 * t.scl.toNat + 128 * t.defd.toNat)
    ++ leBytes 1 t.sct.toNat ++ leBytes 1 (t.state.toNat + 4 * t.psn.toNat) ++ zeros 5
    ++ leBytes 32 t.nanRow.toNat ++ leBytes 32 t.infRow.toNat ++ leBytes 32 t.nanCol.toNat ++ leBytes 32 t.infCol.toNat

/-- The tile of a record. -/
def parseTile (b : List Byte) : Tile :=
  let flags := numAt b 8 1
  if flags < 128 then Tile.void
  else
    { defd := true, state := BitVec.ofNat 2 (numAt b 10 1), psn := bitsN (numAt b 10 1) 2 1 == 1,
      scl := bitsN flags 5 1 == 1, sct := BitVec.ofNat 6 (numAt b 9 1), swz := BitVec.ofNat 3 flags,
      fmt := BitVec.ofNat 5 (numAt b 7 1), core := BitVec.ofNat 2 (flags / 8), rowb := BitVec.ofNat 8 (numAt b 6 1),
      pitch := BitVec.ofNat 8 (numAt b 5 1), rows := BitVec.ofNat 8 (numAt b 4 1), base := BitVec.ofNat 12 (numAt b 0 4 / 256),
      nanRow := BitVec.ofNat 256 (numAt b 16 32), infRow := BitVec.ofNat 256 (numAt b 48 32),
      nanCol := BitVec.ofNat 256 (numAt b 80 32), infCol := BitVec.ofNat 256 (numAt b 112 32) }

/-- The checks of `trs` on the record for tile `n`, in order (R235); `fits` decides the extent. -/
def tileRecFault (fits : Nat → Nat → Nat → Nat → Nat → Bool) (n : Nat) (b : List Byte) : Option Nat :=
  let rows := numAt b 4 1 + 1
  let fmt := bitsN (numAt b 7 1) 0 5
  let flags := numAt b 8 1
  let base := numAt b 0 4
  let past (off : Nat) : Bool := 2 ^ rows ≤ numAt b off 32
  if numAt b 11 5 != 0 || 32 ≤ numAt b 7 1 || bitsN flags 6 1 == 1 || 64 ≤ numAt b 9 1 || 8 ≤ numAt b 10 1
      || past 16 || past 48 then some FMT
  else if flags < 128 then none
  else if !fmtCodeOk fmt || numAt b 10 1 % 4 == 3 then some FMT
  else if fmt == 0x0B || numAt b 5 1 < numAt b 6 1 || (bitsN flags 5 1 == 1 && numAt b 9 1 == n) then some ILLOP
  else if base % 256 != 0 then some ALIGN
  else if fits (bitsN flags 3 2) base rows (32 * (numAt b 5 1 + 1)) (32 * (numAt b 6 1 + 1)) then none
  else some PERM

/-- Tile numbers of a transfer. -/
def tileRange (f : Fields) : List Nat := (List.range (mdN f 0 6 + 1)).map fun i => f.e.toNat + i

/-- The checks on naming the tiles of a transfer (R169, R217, R235). -/
def Env.tilesFault (e : Env) (s : State) : Option Nat := (tileRange e.f).findSome? fun n => e.tileFault s n false

def execTsv (f : Fields) (s : State) : Out :=
  issued (.tsv f) f s fun e s => e.once s <| e.gate s <|
    match e.tilesFault s with
    | some c => e.badSection s c
    | none =>
      let busy (n : Nat) : Bool :=
        let t := s.tile e.w.gid n
        t.state == 3 || (t.state == 1 && s.copyInto e.w.gid n)
      if (tileRange f).any busy then e.holds s .tile
      else e.saveOut s (e.vaA s) ((tileRange f).flatMap fun n => (s.tile e.w.gid n).record)

def execTrs (f : Fields) (s : State) : Out :=
  issued (.trs f) f s fun e s => e.once s <| e.gate s <|
    match e.tilesFault s with
    | some c => e.badSection s c
    | none =>
      e.asking s ((tileRange f).map fun n => (n, 0)) <|
      if e.w.busy f.d.toNat then e.holds s .counter
      else
        let len := 144 * (mdN f 0 6 + 1)
        e.saveIn s (e.vaA s) len fun bs s =>
          let recs := (mapFrom 0 (fun i n => (n, (bs.drop (144 * i)).take 144)) (tileRange f))
          match recs.findSome? fun r => tileRecFault (s.tileFits e.w) r.1 r.2 with
          | some c => e.badSection s c
          | none =>
            let s := recs.foldl (fun (s : State) r => s.modTile e.w.gid r.1 fun _ => parseTile r.2) s
            e.uniFly s f.d.toNat (BitVec.ofNat 64 len)

end Sys2Proof.Machine
end

