-- ==== Sys2Proof/Machine/Results.lean ====
section
/-! DEFINITION. The return of variable-latency results (R244-R246, R237). -/
namespace Sys2Proof.Machine

/-- A result that only its own event returns: that of a matrix instruction or of a `pgrant` (R187, R219), and that of a `publ`
until its last page has flipped (R183), that of a `kvsum` until its sum stands (R341). -/
def State.awaited (s : State) (w : Warp) (id : Nat) : Bool :=
  (aget s.publs id).isSome || (aget s.ksums id).isSome || (w.kind == .seq && (match aget s.groups w.gid with
    | some g => (g.mops.any fun m => m.id == id) || g.grantReq == some id
    | none => false))

/-- The warp after the return of a result: its registers and flags are written, and with the last result a switch-marker park
ends (R47). Flags of a result that has returned stand in FSTAT: a `csrr` without a switch marker sees them, and never those of one
that has not returned (DEDUCED, log entry 60: R30 sets them at the return; its second sentence, read strictly, would hide them until
a switch marker has parked the warp). -/
def Warp.landed (w : Warp) (free idx : Nat) (g : Flight) : Warp :=
  let w1 := g.writes.foldl (fun w p => w.land free p) w
  let w2 := { w1 with fstat := w1.fstat ||| g.flags, flights := w1.flights.eraseIdx idx }
  if w2.swPark && w2.flights.isEmpty then w2.ordered else w2

/-- RESULT_RETURN (R246): a result returns, writes its registers, raises its flags and makes its change of a tile's entry, which a
stopped unit's tiles do not take (R448). -/
def State.resultReturn (s : State) (key idx : Nat) : State :=
  match aget s.warps key with
  | none => s
  | some w =>
    match w.flights[idx]? with
    | none => s
    | some g =>
      if s.awaited w g.id || (g.tile.isSome && s.unitStopped w.gid) then s
      else
        let s1 := { s with freeN := s.freeN + 1 }.setWarp key (w.landed s.freeN idx g)
        (match g.tile with | some a => s1.applyTile w.gid a | none => s1).settle key

/-- Every result of a warp that may return does. -/
def State.resultsIn (s : State) (key : Nat) : State :=
  let n := match aget s.warps key with | some w => w.flights.length | none => 0
  (List.range n).reverse.foldl (fun s i => s.resultReturn key i) s

/-- A `publ` or a `kvsum` of a unit is outstanding. -/
def State.publishing (s : State) (gid : Nat) : Bool :=
  (s.publs.any fun e => e.2.who.user && e.2.who.gid == gid) || s.ksums.any fun e => e.2.who.user && e.2.who.gid == gid

end Sys2Proof.Machine
end

