-- ==== Sys2Proof/Machine/Save.lean ====
section
/-! DEFINITION. The hardware save and restore of a placement unit (R449-R456): the sections of a save area that the KH7
writes itself, swapping for waiting (R257, R258), and the stop and return of a sequencer (R449, R450). -/
namespace Sys2Proof.Machine

/-! ### The matrix section (R454) -/

def Plane.record (p : Plane) : List Byte :=
  leBytes 1 p.valid.toNat ++ leBytes 1 p.half.toNat ++ leBytes 1 (p.k - 1) ++ leBytes 1 p.n ++ zeros 12
    ++ leBytes 16 p.special.toNat ++ zeros 32 ++ (p.scale ++ zeros (256 - p.scale.length))
    ++ (List.range 128).flatMap fun t => (List.range 128).flatMap fun c => leBytes 2 ((aget p.w (128 * t + c)).getD 0).toNat

/-- Weights as the section holds them: an element narrower than 16 bits is zero-extended. -/
def Plane.narrow (c : MatCfg) (p : Plane) : Plane :=
  if c.isInt then { p with w := p.w.map fun (e : Nat × BitVec 16) => (e.1, e.2 &&& 0xFF) } else p

/-- The weights again as the array holds them: an integer by the sign of the configured weight format. -/
def Plane.widen (c : MatCfg) (p : Plane) : Plane :=
  if c.isInt && c.signedAs false c.wfmt then
    { p with w := p.w.map fun (e : Nat × BitVec 16) => (e.1, BitVec.ofInt 16 (sextN e.2.toNat 8)) }
  else p

/-- The plane of a record. -/
def parsePlane (b : List Byte) : Plane :=
  { valid := numAt b 0 1 % 2 == 1, half := BitVec.ofNat 2 (numAt b 1 1), k := numAt b 2 1 + 1, n := numAt b 3 1,
    special := BitVec.ofNat 128 (numAt b 16 16), scale := (b.drop 64).take 256,
    w := (List.range 128).flatMap fun t => (List.range 128).map fun c =>
      (128 * t + c, BitVec.ofNat 16 (numAt b (320 + 256 * t + 2 * c) 2)) }

/-- A warp at the counters of its lanes, whatever a handler keeps beside them. -/
def Warp.atCounters (w : Warp) : Warp := { w with lanes := w.lanes.map fun (x : Lane) => { x with delivery := none } }

/-- The first 0x400 bytes: the sequencer, the configuration and the active plane. -/
def seqSection (w : Warp) (g : Group) : List Byte :=
  let r := (w.atCounters.lane 0).saved false
  leBytes 8 r.1 ++ leBytes 8 w.allFlags.toNat ++ leBytes 1 r.2.1 ++ leBytes 1 1 ++ zeros 14
    ++ ((List.range 8).flatMap fun k => leBytes 2 (if k = 0 then 65535 else ((w.q k).getD 0 0).toNat)) ++ zeros 16
    ++ ((List.range 64).flatMap fun n => leBytes 8 (w.u n).toNat) ++ leBytes 4 g.cfg.toNat
    ++ leBytes 1 (g.mc 0).active.toNat ++ zeros 443

/-- The matrix section of workgroup `j` of a unit. -/
def State.matSection (s : State) (g : Group) (j : Nat) : List Byte :=
  (match j, g.seq.bind fun k => aget s.warps k with
   | 0, some w => seqSection w g
   | _, _ => zeros 0x400)
    ++ ((g.mc j).plane0.narrow g.cfg).record ++ ((g.mc j).plane1.narrow g.cfg).record

/-! ### What a unit awaits at a swap (R258) -/

/-- The networks of `.die` and `.pkg` scope, in the order of the barrier section (R453). -/
def wideBars : List (Nat × Nat) := [(2, 0), (2, 1), (3, 0), (3, 1)]

def State.barKeyFor (s : State) (w : Warp) (x : Nat × Nat) : BarKey := { scope := x.1, id := x.2, dom := s.barDom x.1 w }

def State.parity (s : State) (k : BarKey) : Nat := (aget s.parities k.code).getD 0

/-- The warps of a unit, its sequencer among them. -/
def State.unitWarps (s : State) (gid : Nat) : List (Nat × Warp) :=
  s.warps.filter fun (e : Nat × Warp) => e.2.kind != WarpKind.service && e.2.gid == gid

/-- What the lanes of one warp await. -/
def State.watches (s : State) (w : Warp) : List Watch :=
  (w.lanes.filterMap fun x =>
    match x.st with
    | .hold (.wait k _) => some (.line k (s.le (k / 256 * 256) 256))
    | .hold (.bar sc id) => let k := s.barKeyFor w (sc, id); some (.bar w.unitIx k.code (s.parity k))
    | _ => none).eraseDups

/-- The phase that a lane of a warp awaits has passed. -/
def State.woken (s : State) (w : Warp) : Bool :=
  w.lanes.any fun x => match x.st with | .hold (.wait k p) => barPhase (s.le k 8) != p | _ => false

/-- Whether something that a swapped unit awaits has come. -/
def State.comes (s : State) (g : Group) : Bool :=
  g.watch.any fun x => match x with
    | .line k b => s.le (k / 256 * 256) 256 != b
    | .bar _ code p => (aget s.parities code).getD 0 != p

/-- A swapped unit becomes due when what it awaits comes, and stays due until it is back (R258). -/
def State.latchDue (s : State) : State :=
  if s.groups.any fun e => e.2.phase == .swapped && !e.2.due && s.comes e.2 then
    { s with groups := s.groups.map fun (e : Nat × Group) =>
        if e.2.phase == .swapped && s.comes e.2 then (e.1, { e.2 with due := true }) else e }
  else s

/-- Count the arrivals of a unit as those of a unit that is away. -/
def State.sendAway (s : State) (gid : Nat) : State :=
  (s.unitWarps gid).foldl (fun s e => wideBars.foldl (fun s x =>
    let k := s.barKeyFor e.2 x
    if e.2.arrived k then
      { s with phases := amod s.phases k.code fun (p : BarPhase) => { p with away := (gid, e.2.unitIx) :: p.away } }
    else s) s) s

/-! ### The other sections -/

/-- The barrier section (R453): the arrivals, which only a swap finds, and the parities. -/
def State.barSection (s : State) (gid wg : Nat) (swap : Bool) : List Byte :=
  let ws := (s.unitWarps gid).filter fun e => e.2.kind == .user && e.2.wg == wg
  let arr (x : Nat × Nat) : Nat :=
    if swap then (ws.filter fun e => e.2.arrived (s.barKeyFor e.2 x)).foldl (fun a e => a + 2 ^ e.2.wid) 0 else 0
  let par (i : Nat) (x : Nat × Nat) : Nat :=
    match ws with | e :: _ => s.parity (s.barKeyFor e.2 x) % 2 * 2 ^ i | [] => 0
  (wideBars.flatMap fun x => leBytes 4 (arr x)) ++ leBytes 1 ((mapFrom 0 par wideBars).foldl (· + ·) 0) ++ zeros 47

/-- Insert by a test into an ordered list. -/
def insertBy {α : Type} (before : α → α → Bool) (x : α) : List α → List α
  | [] => [x]
  | y :: ys => if before x y then x :: y :: ys else y :: insertBy before x ys

def sortBy {α : Type} (before : α → α → Bool) (xs : List α) : List α := xs.foldr (insertBy before) []

/-- The warps of a workgroup in ascending index. -/
def State.wgWarps (s : State) (gid wg : Nat) : List Warp :=
  sortBy (fun a b => a.wid ≤ b.wid)
    (((s.unitWarps gid).filter fun e => e.2.kind == .user && e.2.wg == wg).map Prod.snd)

/-- Scratchpad bytes of an allocation. -/
def State.spadBytes (s : State) (g : Wg) (n : Nat) : List Byte := s.bytes (spadKey g.core g.spad) n

/-- The sections that a hardware save writes for workgroup `j`: offset and bytes (R452). -/
def State.sections (s : State) (gid : Nat) (g : Group) (j : Nat) (x : Wg) (r : LRec) (swap : Bool) : List (Nat × List Byte) :=
  let ws := s.wgWarps gid j
  (ws.map fun w => (1600 * w.wid, controlBytes w.atCounters 0 w.u w.q))
    ++ [(r.saveVec, ws.flatMap fun w => w.vregs.flatMap VReg.record), (r.saveBar, s.barSection gid j swap),
        (r.saveTiles, (List.range r.tiles).flatMap fun i => (g.tiles.getD (r.tiles * j + i) Tile.void).record),
        (r.saveSpad, s.spadBytes x r.spad)]
    ++ (if r.quad then [(r.saveAcc, g.accBytes 0 128 (256 * j) 256 true), (r.saveMat, s.matSection g j)] else [])

/-- The agent of the KH7's own accesses for a workgroup. -/
def State.saveWho (s : State) (gid j : Nat) (g : Group) (x : Wg) : Option (Who × LRec) :=
  (aget s.launches g.lid).map fun l => (s.stageWho gid j x l g.lid, l.record)

/-- What a save writes: for each piece its agent, its address and its bytes. -/
abbrev Pieces := List (Who × Nat × List Byte)

/-- The pieces of every workgroup of a unit. -/
def State.pieces (s : State) (gid : Nat) (g : Group) (xs : Nat → Wg → LRec → List (Nat × List Byte)) : Pieces :=
  (mapFrom 0 (fun j x => (j, x)) g.wgs).flatMap fun p =>
    match s.saveWho gid p.1 g p.2 with
    | none => []
    | some (who, r) => (xs p.1 p.2 r).map fun y => (who, vaAdd (r.saveArea p.2.index) y.1, y.2)

/-- Every section of every workgroup. -/
def State.unitPieces (s : State) (gid : Nat) (g : Group) (swap : Bool) : Pieces :=
  s.pieces gid g fun j x r => s.sections gid g j x r swap

/-- Only the matrix sections, of a unit whose sequencer has not exited (R449, R450). -/
def State.matrixPieces (s : State) (gid : Nat) (g : Group) : Pieces :=
  if g.seq.isNone then [] else s.pieces gid g fun j _ r => [(r.saveMat, s.matSection g j)]

/-- Write pieces; nothing when a page refuses or a set stands on a die in reset. -/
def State.storePieces : Pieces → State → Try (Option State)
  | [], s => .ok (some s)
  | (who, va, bs) :: xs, s =>
    let vas := vaRange va bs.length
    match s.transAll who Acc.saveOut vas with
    | .inl _ => .ok none
    | .inr ls =>
      if s.anyReset who ls true then .ok none
      else (s.storeAt who ls 0 0 (vas.zip bs)).bind (State.storePieces xs)

/-- A unit's save: when every byte is written, what follows. Until then nothing is. -/
def State.saving (s : State) (gid : Nat) (xs : Pieces) (k : State → State) : State :=
  s.tryAs (Trier.group gid).key fun s =>
    (Try.clean s (State.storePieces xs s)).map fun r => match r with | some t => k t | none => s

/-- Workgroups of a unit of which no warp will run again end. -/
def Group.closeWgs (g : Group) : Group :=
  { g with wgs := mapFrom 0 (fun j (x : Wg) => { x with ended := x.ended || !(g.out.any fun u => u < 1024 && u / 32 == j) }) g.wgs }

/-- A unit leaves its cores: its warps go, what names them goes, and the unexited ones are remembered. -/
def State.leaveCores (s : State) (gid : Nat) (phase : Phase) (watch : List Watch) (due : Bool) : State :=
  let ws := s.unitWarps gid
  let out := (ws.filter fun e => !e.2.allExited).map fun e => e.2.unitIx
  let kept := (ws.filter fun e => e.2.handler != .none).map fun e => (e.2.unitIx, e.2.handler, e.2.lanes.map Lane.delivery)
  let seq := ws.any fun e => e.2.kind == .seq
  let keys := ws.map Prod.fst
  let s := { s with warps := s.warps.filter fun (e : Nat × Warp) => !keys.contains e.1,
                    postings := s.postings.filter fun (p : Nat × Posting) => match p.2.target with
                      | .warp k => !keys.contains k
                      | .seqOf g => g != gid
                      | _ => true }
  (s.modGroup gid fun g => { g with
    phase := phase, out := out, kept := kept, watch := watch, due := due, seq := none, seqSaved := seq }.closeWgs).settleBars

/-! ### Stopping for PREEMPT (R449) -/

/-- Every result of a warp has returned. -/
def Warp.quiet (w : Warp) : Bool := w.flights.isEmpty

/-- The sequencer of a unit is stopped: its instructions have completed and its results returned (R449). -/
def State.seqStopped (s : State) (g : Group) : Bool :=
  g.mops.isEmpty && match g.seq.bind fun k => aget s.warps k with | some w => w.quiet | none => true

/-- PREEMPT reaches a unit (R449): no warp is in its handler or about to enter it, no thread in a hoop, no warp migrated away,
the sequencer stopped. From then on no warp of it issues, as if its switch marker were set (R430). -/
def State.reached (s : State) (gid : Nat) (g : Group) : Bool :=
  g.phase == .stopping && s.seqStopped g && !(s.cores.any fun c => c.2.hoops.any fun h => h.gid == gid)
    && (s.unitWarps gid).all fun e => e.2.away.isNone && e.2.handler == .none && !e.2.pendingFault

/-- Its results have returned, and PREEMPT is delivered. -/
def State.mayPreempt (s : State) (gid : Nat) (g : Group) : Bool :=
  s.reached gid g && (s.unitWarps gid).all fun e => e.2.quiet

/-- Deliver PREEMPT to the warps of a unit that have not exited; its sequencer leaves. -/
def State.deliverPreempt (s : State) (gid : Nat) (g : Group) : State :=
  let mine (e : Nat × Warp) : Bool := e.2.kind == WarpKind.user && e.2.gid == gid && !e.2.allExited
  let out := (s.warps.filter mine).map fun (e : Nat × Warp) => e.2.unitIx
  let s := match g.seq with
    | some k => ({ s with warps := adel s.warps k }).dropPostings (.seqOf gid)
    | none => s
  let s := { s with warps := s.warps.map fun (e : Nat × Warp) => if mine e then (e.1, e.2.ordered.deliverPreempt) else e }
  (s.modGroup gid fun g =>
    let wgs := g.wgs.map fun (x : Wg) => { x with gifts := [] }
    { g with phase := .preempting, seq := none, seqSaved := g.seq.isSome || g.seqSaved, out := out, wgs := wgs }).settleBars

/-- PREEMPT (R430, R449-R451): with a user trap entry, the matrix section is written, the sequencer leaves and the warps
move to offset 0x10; without one the unit stops, to be saved by the hardware. -/
def State.preempt (s : State) (gid : Nat) : State :=
  match aget s.groups gid with
  | none => s
  | some g =>
    match aget s.launches g.lid with
    | none => s
    | some l =>
      if !s.mayPreempt gid g then s
      else if l.record.utrap = 0 then s.modGroup gid fun g => { g with phase := .preempting }
      else s.saving gid (s.matrixPieces gid g) fun s => s.deliverPreempt gid g

/-- PRE_EMPTED (R431): every warp has left through its routine, or had exited, and every copy and `publ` is done. A unit of
which nothing is left to return ends. -/
def State.preEmpted (s : State) (gid : Nat) : State :=
  match aget s.groups gid with
  | none => s
  | some g =>
    match aget s.launches g.lid with
    | none => s
    | some l =>
      if g.phase == .preempting && l.record.utrap != 0 && (s.unitWarps gid).isEmpty && !s.hasCopies gid && !s.publishing gid then
        let t := s.modGroup gid fun g => { g with phase := .preempted }.closeWgs
        if g.out.isEmpty && !g.seqSaved then t.reapGroup gid else t
      else s

/-- HARDWARE_SAVE (R451, R456). -/
def State.hardwareSave (s : State) (gid : Nat) : State :=
  match aget s.groups gid with
  | none => s
  | some g =>
    match aget s.launches g.lid with
    | none => s
    | some l =>
      if g.phase == .preempting && l.record.utrap = 0 && !s.hasCopies gid && !s.publishing gid then
        s.saving gid (s.unitPieces gid g false) fun s =>
          let t := s.leaveCores gid .saved [] false
          match aget t.groups gid with
          | some g => if g.out.isEmpty then t.reapGroup gid else t
          | none => t
      else s

/-! ### Swapping for waiting (R257, R258) -/

/-- Every unexited lane of a warp is in `wait` or at a barrier of `.die` scope or wider. -/
def Warp.waits (w : Warp) : Bool :=
  w.away.isNone && w.countersZero && !w.allExited && w.lanes.all fun x =>
    match x.st with
    | .exited => true
    | .hold (.wait _ _) => true
    | .hold (.bar sc _) => 2 ≤ sc
    | _ => false

/-- Whether a unit is a candidate for swapping, its wait age apart. A sequencer that has not come back since a pre-emption is in
no `wait` (R450). -/
def State.swappable (s : State) (gid : Nat) (g : Group) : Bool :=
  match aget s.launches g.lid with
  | none => false
  | some l =>
    g.phase == .running && g.mops.isEmpty && !g.seqSaved && !l.record.cores && !l.record.noswap
      && l.record.sab != 0 && l.record.saveEnd ≤ l.record.str
      && (g.wgs.all fun x => (s.core x.core).swapthr != 0)
      && (g.tiles.all fun t => t.state != 1 && t.state != 3) && !s.hasCopies gid
      && !(s.cores.any fun c => c.2.hoops.any fun h => h.gid == gid)
      && !(s.unitWarps gid).isEmpty && (s.unitWarps gid).all fun e => e.2.waits

/-- Each workgroup of a unit that leaves its core counts as swapped out (R466). -/
def State.swappedOut (s : State) (g : Group) : State :=
  (g.wgs.filter fun x => !x.ended).foldl (fun s x => s.occurs x.core 1 0x0A) s

/-- SWAP_OUT. The results of a candidate's warps return as it leaves, and a `publ` of it finishes first, so that every store of
it has been accepted (R456). -/
def State.swapOut (s : State) (gid : Nat) : State :=
  match aget s.groups gid with
  | none => s
  | some g =>
    if !s.swappable gid g || s.publishing gid then s
    else
      let t := (s.unitWarps gid).foldl (fun s e => s.resultsIn e.1) s
      match aget t.groups gid with
      | none => s
      | some g =>
        if !t.swappable gid g then s
        else
          let ws := (t.unitWarps gid).map Prod.snd
          t.saving gid (t.unitPieces gid g true) fun u =>
            ((u.swappedOut g).sendAway gid).leaveCores gid .swapped (ws.flatMap t.watches)
              (ws.any t.woken)

/-! ### The hardware restore (R455) -/

/-- Parse `n` consecutive records. -/
def parseVRegs : Nat → List Byte → Option (List VReg × List Byte)
  | 0, bs => some ([], bs)
  | n + 1, bs =>
    match recLen (numAt bs 0 8) with
    | none => none
    | some len =>
      match parseVReg (bs.take len), parseVRegs n (bs.drop len) with
      | some r, some (rs, rest) => some (r :: rs, rest)
      | _, _ => none

/-- The warps of a workgroup from its control sections and its vector section. -/
def parseWarps (r : LRec) (ctrl : Nat → List Byte) : List Nat → List Byte → Option (List (Nat × Control × List VReg))
  | [], _ => some []
  | w :: ws, bs =>
    match parseControl (ctrl w) with
    | none => none
    | some c =>
      if c.wid != w || c.role != r.roleOf w || c.budget < 16 || 256 < c.budget then none
      else
        match parseVRegs c.budget bs with
        | none => none
        | some (vs, rest) => (parseWarps r ctrl ws rest).map fun xs => (w, c, vs) :: xs

/-- Read a range of a save area; nothing while a page refuses or a set stands on a die in reset. -/
def State.readArea (s : State) (who : Who) (va n : Nat) : Option (List Byte × State) :=
  match s.transAll who Acc.saveIn (vaRange va n) with
  | .inl _ => none
  | .inr ls => if s.anyReset who ls then none else some (s.getBytes who ls 0 (vaRange va n))

/-- The outcome of reading a unit back: not readable now, a failed check in a workgroup, or the state. -/
inductive Restored where
  | later
  | bad (j : Nat)
  | ok (s : State)

/-- A warp of a swapped unit is in its handler again, with its delivery records. -/
def Warp.again (w : Warp) (kept : List (Nat × Handler × List (Option Delivery))) : Warp :=
  match kept.find? fun k => k.1 == w.unitIx with
  | some k => { w with handler := k.2.1, lanes := List.zipWith (fun (x : Lane) d => { x with delivery := d }) w.lanes k.2.2 }
  | none => w

/-- Re-present the arrivals of a swapped warp: at a phase still open its lanes hold, past a completed one they go on. -/
def Warp.represent (w : Warp) (sc id : Nat) (still : Bool) : Warp :=
  w.updLanes (BitVec.allOnes 32) fun _ x =>
    if x.isRun then (if still then { x with st := .hold (.bar sc id) } else { x with pc := x.pc + 16 }) else x

/-- The lanes of one restored warp with respect to the barriers of its section. -/
def State.representBars (s : State) (bar : List Byte) (w : Warp) : Warp :=
  (mapFrom 0 (fun i x => (i, x)) wideBars).foldl (fun (w : Warp) p =>
    if bitsN (numAt bar (4 * p.1) 4) w.wid 1 = 1 then
      w.represent p.2.1 p.2.2 (s.parity (s.barKeyFor w p.2) % 2 == bitsN (numAt bar 16 1) p.1 1)
    else w) w

/-- The tiles of a workgroup from their records; nothing when a check of `trs` fails. -/
def parseTiles (fits : Nat → Nat → Nat → Nat → Nat → Bool) (first n : Nat) (bs : List Byte) : Option (List Tile) :=
  let recs := (List.range n).map fun i => (first + i, (bs.drop (144 * i)).take 144)
  if recs.any fun r => (tileRecFault fits r.1 r.2).isSome then none else some (recs.map fun r => parseTile r.2)

/-- Restore one workgroup. -/
def State.restoreWg (s : State) (gid j : Nat) (x : Wg) : Restored :=
  match aget s.groups gid with
  | none => .bad j
  | some g =>
    match s.saveWho gid j g x, aget s.launches g.lid with
    | some (who, r), some l =>
      match s.readArea who (r.saveArea x.index) r.saveEnd with
      | none => .later
      | some (bs, s) =>
        let at_ (off n : Nat) : List Byte := (bs.drop off).take n
        let live := (g.out.filter fun u => u / 32 == j && u < 1024).map fun u => u % 32
        let ws := parseWarps r (fun w => at_ (1600 * w) 1600) (sortBy (fun a b => a ≤ b) live) (at_ r.saveVec (272 * r.alloc))
        let fits (c a rows pitch rowb : Nat) : Bool :=
          (g.allocOn c).isSome && a + (rows - 1) * pitch + rowb ≤ r.spad
        let ts := parseTiles fits (r.tiles * j) r.tiles (at_ r.saveTiles (144 * r.tiles))
        let ga : Option Group := if r.quad then g.accRestore 0 128 (256 * j) 256 true (at_ r.saveAcc 403456) else some g
        match ws, ts, ga with
        | some ws, some ts, some g =>
          if r.alloc < (ws.map fun w => w.2.1.budget).foldl (· + ·) 0 then .bad j
          else
            let ctx := s.loadCtx g.pkg l.record.asid l.record.trapVec
            let s := (s.readCtx g.pkg l.record.asid).write (atAddrs (spadKey x.core x.spad) (at_ r.saveSpad r.spad))
            let g : Group := { g with tiles := g.tiles.take (r.tiles * j) ++ ts ++ g.tiles.drop (r.tiles * (j + 1)) }
            let g := if r.quad then
                g.modCore j fun m => { m with plane0 := parsePlane (at_ (r.saveMat + 0x400) 33088),
                                              plane1 := parsePlane (at_ (r.saveMat + 0x8540) 33088) }
              else g
            let bar := at_ r.saveBar 64
            .ok (ws.foldl (fun s w =>
              let slot := x.slots.getD w.1 0
              let w0 := freshWarp .user gid j w.1 w.2.1.role x.core slot 0 32 0 ctx
              let w1 := (({ w0 with vregs := w.2.2 }).restoreControl w.2.1).again g.kept
              s.setWarp (x.core * 64 + slot) (s.representBars bar w1)) (s.setGroup gid g))
        | _, _, _ => .bad j
    | _, _ => .bad j

/-- The sequencer from the matrix section of workgroup 0 (R450, R454): its state, the configuration, the active planes; a
parked sequencer replays. -/
def State.restoreSeq (s : State) (gid : Nat) : Option State :=
  match aget s.groups gid with
  | none => none
  | some g =>
    match g.wgs[0]?, aget s.launches g.lid with
    | some x, some l =>
      match s.saveWho gid 0 g x with
      | none => none
      | some (who, r) =>
        (s.readArea who (vaAdd (r.saveArea x.index) r.saveMat) 0x400).map fun (b, s) =>
          let ctx := s.loadCtx g.pkg l.record.asid l.record.trapVec
          let core := g.pkg * 256 + 4 * g.quad
          let cfg : MatCfg := BitVec.ofNat 18 (numAt b 0x240 4)
          let w0 := freshWarp .seq gid 0 0 3 core 40 0 1 (BitVec.ofNat 64 (numAt b 0 8 / 2 * 2)) ctx
          let w := { w0 with
            flights := match g.grantReq with
              | some id => [{ id := id, born := 0, writes := [], flags := 0, tile := none }]
              | none => [],
            fstat := BitVec.ofNat 5 (numAt b 8 8),
            preds := List.replicate 32 allOnes16 :: ((List.range 7).map fun k =>
              List.replicate 32 (BitVec.ofNat 16 (numAt b (0x22 + 2 * k) 2))),
            uregs := (List.range 64).map fun n => BitVec.ofNat 64 (numAt b (0x40 + 8 * n) 8) }
          let g := { g with
            cfg := cfg, seq := some (core * 64 + 40), seqSaved := false,
            cores := mapFrom 0 (fun k (m : MatCore) =>
              { m with active := k < cfg.width && numAt b 0x244 1 % 2 == 1, plane0 := m.plane0.widen cfg,
                       plane1 := m.plane1.widen cfg }) g.cores }
          (s.setWarp (core * 64 + 40) (w.again g.kept)).setGroup gid g
    | _, _ => none

/-- The planes of a unit from its matrix sections, after its own routines have run (R450). -/
def State.restorePlanes (s : State) (gid : Nat) : Option State :=
  match aget s.groups gid with
  | none => none
  | some g =>
    (mapFrom 0 (fun j x => (j, x)) g.wgs).foldl (fun (a : Option State) p =>
      a.bind fun s =>
        (s.saveWho gid p.1 g p.2).bind fun w =>
          (s.readArea w.1 (vaAdd (w.2.saveArea p.2.index) w.2.saveMat) 67200).map fun (b, s) =>
            s.modGroup gid fun g => g.modCore p.1 fun m =>
              { m with plane0 := parsePlane ((b.drop 0x400).take 33088), plane1 := parsePlane (b.drop 0x8540) }) (some s)

/-- The sequencer of a swapped unit that was at a barrier. -/
def State.representSeq (s : State) (gid : Nat) (watch : List Watch) : State :=
  match (aget s.groups gid).bind fun g => g.seq with
  | none => s
  | some k =>
    watch.foldl (fun s x => match x with
      | .bar 1024 code p => s.modWarp k fun w =>
          w.represent (barKeyOf code).scope (barKeyOf code).id ((aget s.parities code).getD 0 == p)
      | _ => s) s

/-- A section of workgroup `j` failed its checks: the unit ends with FAULT (R455). -/
def State.badSave (s : State) (gid j : Nat) (g : Group) : State :=
  let h := s.nextHandle
  let s := { s with nextHandle := h + 1, freeN := s.freeN + 1 }
  let s := match g.wgs[j]?.bind fun x => s.saveWho gid j g x with
    | none => s
    | some (who, _) => s.enqueue who.die
        { handle := h, addr := Config.faultAddr (s.freeN - 1), pc := 0, ptbase := who.ptbase, lanes := 0, asid := who.asid,
          code := FMT, kind := 3 }
  s.faultEnd gid

/-- The unit returns to its cores with everything its save area holds; not while the area cannot be read. -/
def State.restoreUnit (s : State) (gid : Nat) : Option State :=
  match aget s.groups gid with
  | none => none
  | some g =>
    let r := (mapFrom 0 (fun j x => (j, x)) g.wgs).foldl (fun (a : Restored) p =>
      match a with
      | .ok s => s.restoreWg gid p.1 p.2
      | a => a) (.ok s)
    match r with
    | .later => none
    | .bad j => some (s.badSave gid j g)
    | .ok s1 =>
      (if g.seqSaved then s1.restoreSeq gid else some s1).map fun s2 =>
        let s3 := (s2.representSeq gid g.watch).withdraw gid
        (s3.modGroup gid fun g => { g with
          phase := .running, out := [], kept := [], watch := [], due := false, seqSaved := false }).settleBars

end Sys2Proof.Machine
end

