-- ==== Sys2Proof/Machine/Schedule.lean ====
section
/-! DEFINITION. The dispatcher (R272-R274, R277): returns, relaunches, the order of launches, and pre-emption victims. -/
namespace Sys2Proof.Machine

/-! ### Returns (R258, R432, R448) -/

/-- The place of a workgroup that comes back: its core and scratchpad offsets, and its former warp slots (R432) or any free ones
(R258). -/
def State.seatWg (s : State) (r : LRec) (former : Bool) (x : Wg) : Option Wg :=
  let hs := s.holdersOf x.core
  let free := (List.range 32).filter fun i => !(hs.any fun h => h.1.slots.contains i)
  let slots := if former then x.slots else free.take x.slots.length
  if (hs.map fun h => h.1.regs).foldl (· + ·) 0 + x.regs ≤ 2048 && hs.length < 32
      && slots.length == x.slots.length && slots.all free.contains
      && hs.all fun h => h.2.spad == 0 || r.spad == 0 || h.1.spad + h.2.spad ≤ x.spad || x.spad + r.spad ≤ h.1.spad
  then some { x with slots := slots } else none

/-- The places of a unit that comes back, when its cores have room. -/
def State.seats (s : State) (r : LRec) (g : Group) (former : Bool) : Option (List Wg) :=
  let quadOk :=
    if g.isQuad then !(s.quadUnits g.pkg g.quad).any (fun u => u.isQuad) && s.tilesUsed g.pkg g.quad == 0
    else r.tiles == 0 || (!(s.quadUnits g.pkg g.quad).any (fun u => u.isQuad)
      && decide (s.tilesUsed g.pkg g.quad + r.tiles ≤ 64))
  if quadOk then g.wgs.mapM (s.seatWg r former) else none

/-- The state of a unit at its return entry (R432). -/
def State.enterReturn (s : State) (gid : Nat) : State :=
  match aget s.groups gid with
  | none => s
  | some g =>
    match aget s.launches g.lid with
    | none => s
    | some l =>
      let r := l.record
      let ctx := s.loadCtx g.pkg r.asid r.trapVec
      let g2 : Group := { g with
        phase := .running, out := [], tiles := List.replicate g.tiles.length Tile.void, cfg := MatCfg.init,
        wgs := g.wgs.map fun (x : Wg) => { x with gifts := [] },
        rows := List.replicate 128 RowState.init, cores := List.replicate 4 MatCore.init }
      g.out.foldl (fun s u =>
        match g.wgs[u / 32]? with
        | none => s
        | some x =>
          let wid := u % 32
          let slot := x.slots.getD wid 0
          let w := freshWarp .user gid (u / 32) wid (r.roleOf wid) x.core slot (r.budget (r.roleOf wid)) 32
            (ctx.utrapvec + 0x20) ctx
          s.setWarp (x.core * 64 + slot) { w with handler := .returned }) ((s.readCtx g.pkg r.asid).setGroup gid g2)

/-- A unit that waits to come back, and may. -/
def Group.returns (g : Group) : Bool :=
  match g.phase with
  | .preempted => true
  | .saved => true
  | .swapped => g.due
  | _ => false

/-- Bring a unit back when its cores have room. -/
def State.bringBack (s : State) (gid : Nat) : Option State :=
  match aget s.groups gid with
  | none => none
  | some g =>
    match aget s.launches g.lid with
    | none => none
    | some l =>
      let former := g.phase == .preempted
      if !g.returns then none
      else ((s.viewOf g.pkg none).seats l.record g former).bind fun wgs =>
        let s := s.modGroup gid fun g => { g with wgs := wgs }
        if former then some (s.enterReturn gid) else s.restoreUnit gid

/-- SWAP_IN (R258). -/
def State.swapIn (s : State) (gid : Nat) : State :=
  match aget s.groups gid with
  | some g => if g.phase == .swapped then (s.bringBack gid).getD s else s
  | none => s

/-- A sequencer saved at a pre-emption resumes once every warp of its unit has executed `pcrs` or `exit` (R450). -/
def State.resumeSeq (s : State) (gid : Nat) : Option State :=
  match aget s.groups gid with
  | none => none
  | some g =>
    if g.seqSaved && g.phase == .running && (s.unitWarps gid).all (fun e => e.2.handler != .returned) then
      (s.restorePlanes gid).bind fun s => s.restoreSeq gid
    else none

/-! ### Victims (R277) -/

def State.prioOf (s : State) (g : Group) : Nat := match aget s.launches g.lid with | some l => l.record.prio | none => 0
def State.orderOf (s : State) (g : Group) : Nat := match aget s.launches g.lid with | some l => l.order | none => 0
def Group.topIndex (g : Group) : Nat := g.wgs.foldl (fun a x => max a x.index) 0

/-- The order in which victims are chosen. -/
def State.victimBefore (s : State) (a b : Nat × Group) : Bool :=
  let pa := s.prioOf a.2
  let pb := s.prioOf b.2
  let oa := s.orderOf a.2
  let ob := s.orderOf b.2
  pa < pb || (pa == pb && (ob < oa || (oa == ob && b.2.topIndex ≤ a.2.topIndex)))

/-- A unit that runs, or whose staging runs, and has not been chosen. -/
def Group.preys (g : Group) : Bool := g.phase == .running || (g.phase == .staging && !g.victim)

/-- Units of a package that may be pre-empted for a launch of a priority. -/
def State.victims (s : State) (pkg prio : Nat) : List (Nat × Group) :=
  sortBy s.victimBefore (s.groups.filter fun (e : Nat × Group) =>
    e.2.pkg == pkg && e.2.preys &&
      match aget s.launches e.2.lid with
      | some l => l.record.preemptable && decide (l.record.prio < prio)
      | none => false)

/-- What a victim brings with it: the whole grid of a co-resident launch, a quad group that is stopped, or killed and not yet placed
again, among them (R448). -/
def State.bring (s : State) (v : Nat × Group) : List Nat :=
  match aget s.launches v.2.lid with
  | some l => if l.record.cores then (s.groups.filter fun e => e.2.lid == v.2.lid
      && (e.2.preys || e.2.phase == .killed || (e.2.phase == .stopped && !e.2.victim))).map Prod.fst else [v.1]
  | none => [v.1]

/-- The state with the resources of some units free. -/
def State.without (s : State) (gids : List Nat) : State :=
  { s with groups := s.groups.map fun (e : Nat × Group) => if gids.contains e.1 then (e.1, { e.2 with phase := .saved }) else e }

/-- Add victims in order until a test holds. -/
def State.grow (s : State) (test : State → Bool) (acc : List Nat) : List (Nat × Group) → Option (List Nat)
  | [] => none
  | v :: vs =>
    let acc := acc ++ (s.bring v).filter fun g => !acc.contains g
    if test (s.without acc) then some acc else s.grow test acc vs

/-- The victims for a blocked launch. -/
def State.chooseVictims (s : State) (lid : Nat) (l : Launch) : Option (List Nat) :=
  let r := l.record
  let vs := s.victims l.pkg r.prio
  if r.cores then s.grow (fun t => (t.placeAll lid 8193).isSome) [] vs
  else if r.quad then
    let n := min r.coop (r.total - l.placed)
    (firstFrom 64 (s.pkg l.pkg).lastQuad fun q =>
      s.grow (fun t => (t.placeQuad lid r l.pkg q n).isSome) [] (vs.filter fun v => v.2.quad == q)).map Prod.snd
  else
    (firstFrom 256 (s.pkg l.pkg).lastCore fun c =>
      s.grow (fun t => (t.placeOn lid r (l.pkg * 256 + c)).isSome) []
        (vs.filter fun v => v.2.wgs.any fun x => x.core == l.pkg * 256 + c)).map Prod.snd

/-- Victims are chosen: they receive PREEMPT when they can, their hoops become due, and what they free goes to the blocked
launch (R277, R449). A stopped quad group leaves once `trapret` has killed it (R448); one that is killed already frees nothing more. -/
def State.markVictims (s : State) (lid pkg : Nat) (gids : List Nat) : State :=
  let s := { s with
    groups := s.groups.map fun (e : Nat × Group) =>
      if gids.contains e.1 then
        (e.1, match e.2.phase with
          | .staging => { e.2 with victim := true }
          | .stopped => { e.2 with victim := true }
          | .killed => e.2
          | _ => { e.2 with phase := .stopping })
      else e,
    cores := s.cores.map fun (e : Nat × Core) =>
      (e.1, { e.2 with hoops := e.2.hoops.map fun (h : Hoop) => if gids.contains h.gid then { h with due := true } else h }) }
  s.modPkg pkg fun p => { p with reserve := p.reserve ++ [(lid, gids.filter fun k => match aget s.groups k with | some g => g.phase != .killed | none => false)] }

/-! ### Dispatch (R272) -/

/-- The ready launches of a package that have workgroups left, in dispatch order. -/
def State.readyLaunches (s : State) (pkg : Nat) : List (Nat × Launch) :=
  sortBy (fun a b => b.2.record.prio < a.2.record.prio || (a.2.record.prio == b.2.record.prio && a.2.order ≤ b.2.order))
    ((s.window pkg).filter fun e => e.2.cause == 0 && e.2.deps.isEmpty && decide (e.2.placed < e.2.record.total))

/-- The first of some units for which an operation answers. -/
def firstUnit (op : Nat → Option State) (gs : AMap Group) : Option State := gs.findSome? fun e => op e.1

/-- A launch has placed, or has no more to place: what was freed for it is free for all (R277). -/
def State.release (s : State) (pkg : Nat) (keep : Nat → Bool) : State :=
  s.modPkg pkg fun p => { p with reserve := p.reserve.filter fun e => keep e.1 }

/-- A victim has still to leave its cores. -/
def State.leaving (s : State) (gid : Nat) : Bool :=
  match aget s.groups gid with
  | some g => g.victim || g.phase == .stopping || g.phase == .preempting
  | none => false

/-- DISPATCH: a sequencer resumes, a killed quad group is placed again, a unit comes back, or the next unit of the first ready
launch is placed; a blocked launch chooses victims, and waits while they leave. -/
def State.dispatch (s : State) (pkg : Nat) : State :=
  let mine := s.groups.filter fun e => e.2.pkg == pkg
  match (firstUnit s.resumeSeq mine).orElse fun _ => firstUnit (fun g => (s.relaunch g).orElse fun _ => s.bringBack g) mine with
  | some t => t
  | none =>
    let ready := s.readyLaunches pkg
    let s := s.release pkg fun lid => ready.any fun e => e.1 == lid
    match ready.head? with
    | none => s
    | some (lid, l) =>
      match s.placeLaunch lid with
      | some t => t.release pkg fun x => x != lid
      | none =>
        if ((s.pkg pkg).victimsFor lid).any s.leaving then s
        else match s.chooseVictims lid l with
          | some gids => s.markVictims lid pkg gids
          | none => s

/-- BUCKET_REFILL (R276). -/
def State.refill (s : State) (pkg : Nat) : State :=
  s.modPkg pkg fun p => { p with buckets := p.buckets.map fun (b : Bucket) =>
    { b with level := min (b.level + b.rate.toNat) (b.depth.toNat * 256) } }

end Sys2Proof.Machine
end

