-- ==== Sys2Proof/Machine/Upkeep.lean ====
section
/-! DEFINITION. What the agents of a core and a die do between instructions: delays, sleeps and results (R47, R87, R246),
starvation counts (R242), waits that are looked at again (R214, R363), hoops that become due (R253), the return of migrated
warps (R449), the delivery of program-level faults (R437-R439), page walks (R332, R333), the scrubber (R344), and accesses
by hosts (R402, R425). -/
namespace Sys2Proof.Machine

/-! ### Delays, sleeps and results -/

/-- DELAY_EXPIRY (R47): the delay's cycles have passed. -/
def Warp.delayOver (w : Warp) : Warp := { w.tick (w.clk + w.dly) with dly := 0 }

/-- Lanes held for a reason move to RUN; their instruction is offered again. -/
def Warp.retry (w : Warp) (m : LaneMask) (p : Hold → Bool) : Warp :=
  w.updLanes m fun _ x => match x.st with | .hold h => if p h then { x with st := .run } else x | _ => x

def Hold.isSleep : Hold → Bool
  | .sleep _ => true
  | _ => false

/-- The sleeping lanes of a mask may issue again: the cycles of their sleeps have passed for the warp (R87, R244). -/
def Warp.wake (w : Warp) (m : LaneMask) : Warp :=
  let ends := (lanesOf m).filterMap fun l => match (w.lane l).st with | .hold (.sleep t) => some t | _ => none
  (w.tick (ends.foldl max w.clk)).retry m Hold.isSleep

def Hold.isWait : Hold → Bool
  | .wait _ _ => true
  | _ => false

/-- A tag of the set that a first write waits for has changed (R363). -/
def State.roomFor (s : State) : Hold → Bool
  | .room pkg set mark => s.roomChanged (pkg, set, mark)
  | _ => false

def Hold.isReset : Hold → Bool
  | .reset => true
  | _ => false

/-- A counter whose starvation count has reached 64, the lowest of them (R242). -/
def Warp.starved (w : Warp) : Option Nat := (w.starve.find? fun e => 64 ≤ e.2).map Prod.fst

/-- STARVATION_COUNT (R242): the starved counter is taken as PC0 at the next selection. -/
def Warp.noteStarved (w : Warp) : Warp := { w with first := w.starved }

/-- HOOP_AGE (R253): the oldest thread of a hoop has waited AGE cycles. -/
def State.ageHoop (s : State) (core i : Nat) : State :=
  s.modCore core fun c => { c with hoops := modAt c.hoops i fun h => { h with due := true } }

/-! ### The return of a migrated warp (R449) -/

/-- MIGRATED_WARP_RETURN: a migrated warp of a victim waits for its results and counters and then moves home. Its parked lanes
stay parked, the others resume at the instruction each would issue next. -/
def State.warpHome (s : State) (key : Nat) : State :=
  match aget s.warps key with
  | none => s
  | some w =>
    let victim := match aget s.groups w.gid with | some g => g.phase == .stopping | none => false
    if !victim || w.away.isNone then s
    else if !w.flights.isEmpty then s.setWarp key { w with swPark := true }
    else if !w.countersZero then s
    else
      let w := (w.ordered.moveTo key (key / 64) (key % 64)).retry (BitVec.allOnes 32) fun h => h == .migrate
      (s.setWarp key w).settleBars

/-! ### Program-level faults (R437-R439) -/

/-- A program-level fault of the warp ends its workgroup: no user trap entry, or already in a handler (R431, R438, R439). -/
def Warp.fatal (w : Warp) : Bool := w.pendingFault && (w.ctx.utrapvec == 0 || w.handler != .none)

/-- PROGRAM_FAULT_DELIVERY (R437). -/
def State.deliverProgramFault (s : State) (key : Nat) : State :=
  match aget s.warps key with
  | none => s
  | some w =>
    if w.pendingFault && !w.fatal && w.flights.isEmpty then (s.setWarp key w.ordered.deliverFault).settleBars else s

/-- The fault that a warp's lowest lane parked on a program-level fault met: its code, TCODE and address, and the lanes
parked with it. -/
def Warp.ownFault (w : Warp) : Option (Nat × BitVec 16 × Word × LaneMask) :=
  (w.lanes.findSome? fun x => match x.st with | .park c t 0 => some (c, t, x.pc) | _ => none).map fun r =>
    (r.1, r.2.1, r.2.2, w.which fun x => match x.st with | .park c _ 0 => c == r.1 && x.pc == r.2.2 | _ => false)

/-- WORKGROUP_FAULT_END (R439): the die posts a record whose handle has ended, and the workgroup or quad group ends. -/
def State.endOnFault (s : State) (gid : Nat) : State :=
  match s.warps.find? fun (e : Nat × Warp) => e.2.kind == WarpKind.user && e.2.gid == gid && e.2.fatal with
  | none => s
  | some (_, w) =>
    match w.ownFault with
    | none => s
    | some (c, t, pc, m) =>
      let h := s.nextHandle
      let addr := if c = TRAP ∨ c = BRK then t.setWidth 64 else Config.faultAddr s.freeN
      let s := { s with nextHandle := h + 1, freeN := s.freeN + 1 }
      (s.enqueue (dieOf w.core)
        { handle := h, addr := addr, pc := pc, ptbase := w.ctx.ptbase, lanes := m, asid := w.ctx.asid, code := c, kind := 3 }).faultEnd gid

/-! ### Page walks (R332, R333) -/

/-- The non-leaf entries that a walk reads: level of the table that each names, and its address. -/
def State.walkTables (s : State) (die va : Nat) : Nat → Nat → List (Nat × Nat)
  | 0, _ => []
  | n + 1, table =>
    let key := table + 16 * vaIdx va n
    let lo := BitVec.ofNat 64 (s.le key 8)
    if s.tableBad die key || !lo.getLsbD 0 || lo.getLsbD 1 || n = 0 || !tableEntry lo (BitVec.ofNat 64 (s.le (key + 8) 8))
    then []
    else (n - 1, wbits lo 25 39 * 2 ^ 15) :: s.walkTables die va n (wbits lo 25 39 * 2 ^ 15)

/-- The 16 level-0 leaves of the line of an entry. -/
def State.lineLeaves (s : State) (key : Nat) : List (Nat × Leaf) :=
  (List.range 16).map fun i =>
    let k := key / 256 * 256 + 16 * i
    (i, s.mkLeaf 0 (BitVec.ofNat 64 (s.le k 8)) (BitVec.ofNat 64 (s.le (k + 8) 8)))

/-- Whether the 16 entries form a run (R332). -/
def formsRun (ls : List (Nat × Leaf)) : Bool :=
  match ls.head? with
  | none => false
  | some (_, z) =>
    ls.all fun p =>
      let l := p.2
      l.lo.getLsbD 0 && l.lo.getLsbD 1 && l.valid && l.frame % 16 == p.1 && l.frame / 16 == z.frame / 16
        && l.type == z.type && l.rd == z.rd && l.wr == z.wr && l.ex == z.ex && l.usr == z.usr && l.hb == z.hb
        && l.psn == z.psn && l.dup == z.dup && !l.cow && !l.sopen && !l.cke && l.shd == 0

/-- Put an entry in front of a TLB of `n` entries; what it replaces goes, and from a full one the entry that was filled longest ago
(DESIGN CHOICE, log entry 109: R3 and R332 give only the sizes). -/
def putTlb (n : Nat) (tlb : List TlbEntry) (t : TlbEntry) (va : Nat) : List TlbEntry :=
  (t :: tlb.filter fun x => !x.hits t.asid va).take n

/-- The agent of a walker's reads. -/
def walkWho (core : Nat) (asid : BitVec 16) (ptbase : Word) : Who :=
  { core := core, asid := asid, ptbase := ptbase, user := false, gid := 0, wg := 0, lid := 0, away := false, bkt := 16,
    errq := 0, wgIndex := 0xFFFFFFFF, ch := 0, apf := false }

/-- A walk reads its tables' lines through the die's L2 (R327): an entry of each table, from the first one on. -/
def State.tableReads (s : State) (w : Who) (va : Nat) (tables : List (Nat × Nat)) : State :=
  tables.foldl (fun s t =>
    let key := t.2 + 16 * vaIdx va t.1
    if s.tableBad w.die key then s else s.touchLine w key) s

/-- PAGE_WALK (R332, R333, R467): after a miss of the last-level TLB a walk ends at a valid leaf; its translation enters the L1 TLB of the core and the last-level TLB
of the die, there as a run where the line forms one, and its tables enter the page-walk cache. -/
def State.pageWalk (s : State) (core : Nat) (asid : BitVec 16) (ptbase : Word) (va : Nat) : State :=
  let die := dieOf core
  let f := s.walkFrom die asid ptbase va
  if !canonicalVa va || inAperture va then s
  else
    let s := if (s.die die).tlb.any fun t => t.hits asid va then s else s.occurs core 1 0x09
    let below := s.walkTables die va f.1 f.2
    let s1 := s.tableReads (walkWho core asid ptbase) va ((f.1 - 1, f.2) :: below)
    match s.walkAt die va f.1 f.2 with
    | .fail _ => s1
    | .leaf key level lo hi =>
      let l := s.mkLeaf level lo hi
      if !l.valid then s1
      else
        let base := va % 2 ^ 56
        let one : TlbEntry := { asid := asid, base := base, bits := if level = 0 then 16 else 27, lo := lo, hi := hi, vsel := l.vsel }
        let wide : TlbEntry := if level = 0 && formsRun (s.lineLeaves key) then { one with bits := 20 } else one
        let tabs := below.map fun t => (asid.toNat, walkKey t.1 va, t.2)
        let s1 := s1.modCore core fun c => { c with tlb := putTlb 256 c.tlb one va }
        s1.modDie die fun d =>
          { d with tlb := putTlb 4096 d.tlb wide va,
                   walkCache := tabs ++ d.walkCache.filter fun e => !(tabs.any fun t => t.1 == e.1 && t.2.1 == e.2.1) }

/-! ### The scrubber (R343, R344) -/

/-- The level-0 leaves below a table that a test accepts, from an address up: the first one's address and entry. -/
def State.nextLeaf (s : State) (p : Leaf → Bool) (from_ : Nat) : Nat → Nat → Nat → Option (Nat × Nat × Leaf)
  | 0, _, _ => none
  | n + 1, base, table =>
    (List.range (if n = 3 then 128 else 2048)).findSome? fun i =>
      let va := base + i * 2 ^ vaLow n
      let key := table + 16 * i
      let lo := BitVec.ofNat 64 (s.le key 8)
      let hi := BitVec.ofNat 64 (s.le (key + 8) 8)
      if va + 2 ^ vaLow n ≤ from_ || !lo.getLsbD 0 then none
      else if lo.getLsbD 1 then
        (let l := s.mkLeaf n lo hi
         if n = 0 && p l then some (va, key, l) else none)
      else if n = 0 || !tableEntry lo hi then none
      else s.nextLeaf p from_ n va (wbits lo 25 39 * 2 ^ 15)

/-- The leaves that the scrubber of a die checks. -/
def State.scrubs (s : State) (die : Nat) (l : Leaf) : Bool :=
  let pkg := pkgOfDie die
  l.type == tGLOBAL && l.cke && l.ckv && !l.psn && tagDie pkg ((s.pkg pkg).setOf l.live) == die

/-- Sign-extend a 56-bit address. -/
def canonicalOf (va : Nat) : Nat := if bitsN va 55 1 = 1 then va % 2 ^ 56 + (2 ^ 64 - 2 ^ 56) else va % 2 ^ 56

/-- SCRUB_CHECK (R344): the next leaf that the scrubber checks; a page whose sum differs is poisoned and posted. The write of
PSN and the record are one step with the check. -/
def State.scrub (s : State) (die : Nat) : State :=
  let d := s.die die
  if !d.scrbctl.getLsbD 63 then s
  else
    let root := ptbAddr d.scrbptb
    let next := match s.nextLeaf (s.scrubs die) d.scrubAt 4 0 root with
      | some x => some x
      | none => s.nextLeaf (s.scrubs die) 0 4 0 root
    match next with
    | none => s
    | some (va, key, l) =>
      let s := s.modDie die fun d => { d with scrubAt := va + 65536 }
      if s.pageCrc l = l.crc then s
      else
        let s := s.entryWrite (pkgOfDie die) (key + 8) (leBytes 8 (l.hi ||| ((1 : Word) <<< 62)).toNat)
        let s := s.dropGpnTlb l.frame
        s.enqueue die
          { handle := 0, addr := BitVec.ofNat 64 (canonicalOf va), pc := 0, ptbase := d.scrbptb, lanes := 0,
            asid := BitVec.ofNat 16 (wbits d.scrbctl 32 16), code := KVPOIS, kind := 3 }

/-! ### Hosts (R402, R425) -/

/-- SNPINV: the granule is invalid; dirty data has gone to the host, whose memory holds it. -/
def State.snpInv (s : State) (die k : Nat) : State := if isHostLine s k then s.snoop die k 0 else s

/-- SNPDATA: the granule is shared. -/
def State.snpData (s : State) (die k : Nat) : State := if isHostLine s k then s.snoop die k 1 else s

/-- Granules of a page that a range of bytes touches. -/
def granMask (k len : Nat) : BitVec 1024 :=
  (List.range 1024).foldl (fun m i =>
    let g := k / 65536 * 65536 + 64 * i
    if k < g + 64 && g < k + len then m ||| ((1 : BitVec 1024) <<< i) else m) 0

/-- HOST_READ (R425): the line directory of the master records the host, and the slot that serves the line has served an access,
without allocation where another package masters it (R349); the host's own page is its own affair. A die in reset holds it (R370). -/
def State.hostRead (s : State) (host pkg k len : Nat) : State :=
  if !(s.pkg pkg).hasHost host || !isHomeless k then s
  else
    let d := s.dirEnt (gpnOf k)
    if d.master.isNone || d.hostBias.isSome || (s.readOff pkg k).isSome then s
    else
      let s := s.modDir (gpnOf k) fun d =>
        { d with hostLines := aset d.hostLines host ((aget d.hostLines host).getD 0 ||| granMask k len) }
      match s.masterSlot (gpnOf k) with
      | some (m, a) =>
        if (s.pkgHolds pkg (lineKey k)).isSome then s
        else
          let s := if m == pkg then s else s.modPkg pkg fun p => bumpAm p 5
          if (s.dirtyAway pkg (lineKey k)).isSome then s else s.touch m a
      | none => s

/-- A host write of the homeless space is held at the switch die behind those that already wait for a way (R363). -/
def State.holdWrite (s : State) (pkg k : Nat) (bs : List Byte) : State :=
  s.modPkg pkg fun p => { p with held := p.held ++ [.hostWrite k bs] }

def Held.isWrite : Held → Bool
  | .append .. => false
  | .hostWrite .. => true
  | .storeError .. => false

/-- Key of the host writes that a package holds, as an agent that tries. -/
def heldWriteKey (pkg : Nat) : Nat := (Trier.held (pkg * 64 + 16)).key

/-- HOST_WRITE (R425): in device bias a write by the package of the port; in host bias, and to its own memory, the host writes
under its own coherence, the granule gone from the device, and it holds the sectors dirty. -/
def State.hostWrite (s : State) (host pkg k : Nat) (bs : List Byte) : State :=
  let own := (isHostKey k && hostOf k == host) || (isHomeless k && (s.dirEnt (gpnOf k)).hostBias == some host)
  if !(s.pkg pkg).hasHost host || k % 64 + bs.length > 64 then s
  else if own then
    let s := ((s.dies.map Prod.fst).foldl (fun s d => s.snoop d k 0) s).write (atAddrs k bs)
    if isHomeless k then
      s.modDir (gpnOf k) fun d => { d with hostDirty := d.hostDirty ||| dirtyAt (lineKey k) (secMask k bs.length) }
    else s
  else if isHomeless k && (s.dirEnt (gpnOf k)).hostBias.isNone then
    if (s.pkg pkg).held.any Held.isWrite then s.holdWrite pkg k bs
    else match s.agentWrite pkg k bs with
      | .ok t => t
      | .error x => { x.s with tries := aset x.s.tries (heldWriteKey pkg) x.mark }.holdWrite pkg k bs
  else s

/-- The first host write that a switch die holds is tried again. -/
def State.heldWrite (s : State) (pkg : Nat) : State :=
  match (s.pkg pkg).held.find? Held.isWrite with
  | some (.hostWrite k bs) =>
    s.tryAs (heldWriteKey pkg) fun s =>
      (s.agentWrite pkg k bs).map fun t => t.modPkg pkg fun p => { p with held := p.held.eraseP Held.isWrite }
  | _ => s

/-- READ_MISS: of a homeless page in host bias, each granule is obtained from its host (R425). -/
def State.readMissOf (s : State) (die line : Nat) : State :=
  let k := line * 256
  if !isHomeless k || s.resetHeld die k false then s
  else if isHostLine s k then (granulesOf k 256).foldl (fun s g => s.granule die 16 0 g false) s
  else s.readLine die k 0

/-- WRITE_GRANT (R356, R357): the grant, with the ASID of the writer for which it was asked (R446); a first write that finds no
way waits (R363). Of a page in host bias the granules are obtained from its host (R425). -/
def State.writeGrant (s : State) (die line : Nat) (asid : BitVec 16) (dup : Bool) : State :=
  let k := line * 256
  if !isHomeless k || s.resetHeld die k true then s
  else if isHostLine s k then (granulesOf k 256).foldl (fun s g => s.granule die 16 0 g true) s
  else match s.grantLine die (line * 256) dup 0 false with
    | .ok t => t.modDie die fun d => { d with l2 := amod d.l2 line fun x => { x with asid := asid } }
    | .error x => x.s

/-- Some access waits for a way in a set, and may try again (R363). -/
def State.wantsRoom (s : State) (pkg set : Nat) : Bool :=
  (s.tries.any fun e => e.2.1 == pkg && e.2.2.1 == set && s.roomChanged e.2) ||
    s.warps.any fun e => e.2.lanes.any fun x => match x.st with
      | .hold (.room p t m) => p == pkg && t == set && s.roomChanged (p, t, m)
      | _ => false

/-- INJECTION_OFFER (R361, R362): a neighbour receives the offer that a full set of `src` makes for an access that needs a way, and
accepts it or refuses; the way that it frees takes what the reserve pool holds of the set (R364). NBR1 receives one that NBR0 refuses; the offer is abandoned when NBR1 refuses it too. -/
def State.injectionOffer (s : State) (n src gpn : Nat) : State :=
  let p := s.pkg src
  let set := p.setOf gpn
  let full := (p.invalidWay set).isNone && (p.oldest set fun x => x.isReplica && !x.guard).isNone
    && (p.oldest set fun x => x.isMaster && !s.pinned x && !(s.elsewhere x.gpn src).isEmpty).isNone
  match s.offered src set with
  | none => s
  | some w =>
    if !full || !s.wantsRoom src set || (p.way set w).gpn != gpn then s
    else
      let a : SlotAt := .way set w
      let r := s.tryOffer (p.nbr.getD 0 0) src a
      let took (q : Bool × State) : State := if q.1 then q.2.poolMove src set else q.2
      if n == p.nbr.getD 0 0 then took r
      else if n == p.nbr.getD 1 0 && !r.1 then
        (let q := r.2.tryOffer n src a; if q.1 then took q else q.2.modPkg src fun p => bumpAm p 4)
      else s

end Sys2Proof.Machine
end

