-- ==== Sys2Proof/Machine/Reset.lean ====
section
/-! DEFINITION. Die reset (R12, R370, R442), the loss of supply power (R460, R463) and bring-up (R468). -/
namespace Sys2Proof.Machine

/-! ### Die reset -/

/-- A dirty line of a die in reset is lost (R370): nothing tells what its dirty sectors hold, LPSN of the line is set at the
master and its DIRTY bits are cleared. -/
def State.loseLine (s : State) (line : Nat) (sec : BitVec 8) : State :=
  let s := s.scramble line sec
  if !isHomeless (line * 256) then s
  else
    match (s.dirEnt (line / 256)).master with
    | none => s
    | some m =>
      match (s.pkg m).masterOf (line / 256) with
      | none => s
      | some a => s.modSlot m a fun x =>
          { x with lpsn := setBit256 x.lpsn (line % 256), dirty := x.dirty &&& ~~~((0xFF : BitVec 2048) <<< (8 * (line % 256))) }

/-- The registers of a warp that have a Reset value, after a reset of the die that it runs on: FSTAT (R29) and those of its context
(R325, R436, R444). -/
def Warp.dieReset (w : Warp) : Warp :=
  { w with fstat := 0, recent := w.recent.filter (fun r => r.old.flagBits == 0), ctx := Ctx.reset }

/-- The registers of a core after a reset of its die; what runs on it stays. -/
def Core.dieReset (c : Core) : Core :=
  { c with reformage := Core.reset.reformage, swapthr := Core.reset.swapthr, tlb := [], cnt := Core.reset.cnt }

/-- The registers of a die after its reset: those whose Reset is a dash keep their values (R12, R392). -/
def Die.dieReset (d : Die) : Die :=
  { d with tlb := [], walkCache := [], l2 := [], cnt := Die.reset.cnt, scrbctl := Die.reset.scrbctl,
           scrbptb := Die.reset.scrbptb, scrubAt := 0, inReset := true }

/-- DIE_RESET. LNKCTL and LNKSTAT of a link, whose two ends stand on two dies, keep their values at a reset of either (DESIGN
CHOICE, log entry 27: the spec does not say which die holds them). -/
def State.dieReset (s : State) (die : Nat) : State :=
  let l2 := (s.die die).l2
  let s := l2.foldl (fun s e => if e.2.dirty == 0 then s else s.loseLine e.1 e.2.dirty) s
  let s := s.modDie die Die.dieReset
  -- the line directories follow (R365)
  let s := ((l2.map fun e => e.1 / 256).eraseDups).foldl (fun s g => s.relist g) s
  { s with cores := s.cores.map fun e => if dieOf e.1 == die then (e.1, e.2.dieReset) else e,
           warps := s.warps.map fun (e : Nat × Warp) => if dieOf e.2.core == die then (e.1, e.2.dieReset) else e }

/-- The service warp of a quad as its die leaves reset (R442): at TRAPVEC, in the context of ASID 0, its role 4 (R51). -/
def State.serviceWarp (s : State) (core : Nat) : Warp :=
  let pkg := pkgOfCore core
  freshWarp .service 0 0 0 4 core 34 64 32 (s.die (dieOf core)).trapvec (s.loadCtx pkg 0 0)

/-- The service warps of a die start. -/
def State.startService (s : State) (die : Nat) : State :=
  (List.range 8).foldl (fun s q =>
    let core := 32 * die + 4 * q
    ((s.dropPostings (.warp (core * 64 + 34))).readCtx (pkgOfDie die) 0).setWarp (core * 64 + 34) (s.serviceWarp core)) s

/-- DIE_LEAVES_RESET: issue restarts (R224), held accesses of warps and agents go on (R370), the service warps start (R442). -/
def State.leaveReset (s : State) (die : Nat) : State :=
  if !(s.die die).inReset then s
  else
    let s := s.modDie die fun d => { d with inReset := false, halted := false }
    let s := s.modPkg (pkgOfDie die) fun p =>
      { p with tagN := aset p.tagN (resetKey die) ((aget p.tagN (resetKey die)).getD 0 + 1) }
    let s := { s with warps := s.warps.map fun (e : Nat × Warp) => (e.1, e.2.retry (BitVec.allOnes 32) Hold.isReset) }
    s.startService die

/-! ### Power (R463) -/

/-- Everything that runs on a package is gone. -/
def State.dropRunning (s : State) (pkg : Nat) : State :=
  let gids := (s.groups.filter fun e => e.2.pkg == pkg).map Prod.fst
  let lids := (s.launches.filter fun e => e.2.pkg == pkg).map Prod.fst
  let warps := s.warps.filter fun e => e.1 / 64 / 256 != pkg
  { s with
    warps := warps,
    groups := s.groups.filter fun e => e.2.pkg != pkg,
    launches := s.launches.filter fun e => e.2.pkg != pkg,
    copies := s.copies.filter fun e => !gids.contains e.2.gid,
    engines := s.engines.filter fun e => e.2.who.pkg != pkg,
    publs := s.publs.filter fun e => e.2.who.pkg != pkg,
    ksums := s.ksums.filter fun e => e.2.who.pkg != pkg,
    postings := s.postings.filter fun p => match p.2.target with
      | .warp k => k / 64 / 256 != pkg
      | .seqOf g => !gids.contains g
      | .staging g _ => !gids.contains g
      | .stoppedGroup g => !gids.contains g
      | .chain q _ => q != pkg
      | .backfill q => q != pkg
      | .other => true,
    phases := s.phases.filter fun e =>
      let k := barKeyOf e.1
      !(if k.scope = 0 then gids.contains (k.dom / 4) else if k.scope = 1 then gids.contains k.dom
        else if k.scope = 2 then lids.contains (k.dom / 8) else lids.contains k.dom) }

/-- What the security block keeps without power (R460-R463): the signature index, and that keys are erased. -/
def Pkg.durable (p q : Pkg) : Pkg :=
  { q with index := p.index, locked := p.locked, sessionKeys := p.sessionKeys, allKeys := p.allKeys }

/-- POWER_LOSS: the volatile state of a package goes. Its tags and L2 lines stay in the state only as what a later AMOP LOST
finds lost (R371). -/
def State.powerLoss (s : State) (pkg : Nat) : State :=
  let s := s.dropRunning pkg
  let p := s.pkg pkg
  let s := s.setPkg pkg (p.durable { Pkg.reset with slots := p.slots, pool := p.pool, ways := p.ways, nsets := p.nsets, nbr := p.nbr })
  { s with
    mem := s.mem.filter fun c => !(isSpadKey c.1 && spadCore c.1 / 256 == pkg) && !(isCapKey c.1 && (c.1 - 2 ^ 60) / 2 ^ 56 == pkg),
    cores := s.cores.filter fun e => e.1 / 256 != pkg,
    dies := (s.dies.filter fun (e : Nat × Die) => e.1 / 8 != pkg || !e.2.l2.isEmpty).map fun e =>
      if e.1 / 8 == pkg then (e.1, { Die.reset with l2 := e.2.l2 }) else e,
    links := s.links.filter fun e => e.1 / 16 != pkg,
    dead := if s.dead.contains pkg then s.dead else pkg :: s.dead }

/-! ### Bring-up (R468) -/

/-- NSETS for an associativity (R346). -/
def setsFor (ways : Nat) : Nat := 12386304 / max ways 1

/-- ALARMCFG at a reset of the module: the levels take their reset values, and LOCK stays until power-off (R12, R460). -/
def Pkg.alarmAtReset (p : Pkg) : Word := Pkg.reset.alarmcfg ||| (p.alarmcfg &&& (1 <<< 63))

/-- The package as a reset of the module leaves it, before the steps. -/
def Pkg.moduleReset (p : Pkg) : Pkg :=
  p.durable { Pkg.reset with alarmcfg := p.alarmAtReset, dbglk := p.dbglk, cxlcfg := p.cxlcfg, cxlSet := p.cxlSet }

/-- The pages whose directory slice or master stood on a package are gone, and its replicas of others (steps 4 and 5). -/
def State.emptyHomeless (s : State) (pkg : Nat) : State :=
  let gone (e : Nat × DirEnt) : Bool := e.2.master == some pkg || (s.podN != 0 && e.1 % s.podN == pkg)
  let gpns := (s.dir.filter gone).map Prod.fst
  let s := gpns.foldl (fun s g => (s.pageLines g).foldl (fun s l => s.dropL2 l fun _ => true) s) s
  let freed := gpns.flatMap fun g => (s.holders g).map fun h => (h.1, g)
  let s := gpns.foldl (fun s g => (s.holders g).foldl (fun s h => s.invalidate h.1 h.2) s) s
  let s := { s with
    dir := (s.dir.filter fun e => !gone e).map fun (e : Nat × DirEnt) =>
      (e.1, { e.2 with replicas := e.2.replicas.filter (· != pkg), lineDir := e.2.lineDir.filter fun x => x.1 != pkg,
                       guardAt := match e.2.guardAt with | some (g, x) => if g == pkg then none else some (g, x) | none => none }),
    mem := s.mem.filter fun c => !(isHomeless c.1 && gpns.contains (gpnOf c.1)) }
  freed.foldl (fun s x => s.poolMoves x.2 [x.1]) s

/-- Step 2: the stacks are trained; channels with lane faults run at half width. -/
def State.bootHbm (s : State) (b : BootPkg) : State :=
  (List.range 8).foldl (fun s d => s.modDie (8 * b.pkg + d) fun x => { x with hbm := (List.range 2).map fun k =>
    let f := b.hbmLane.getD (2 * d + k) 0
    { half := f, lflt := f, ncnt := 0, hot := false } }) s

/-- Size of the capacity tier (R396): the number of expander ports times the smallest device there. -/
def Pkg.tierSize (p : Pkg) (devBytes : List Nat) : Nat :=
  match p.cxlPorts true with
  | [] => 0
  | e :: es => (es.length + 1) * es.foldl (fun a i => min a (devBytes.getD i 0)) (devBytes.getD e 0)

/-- Step 3: links at rate code 0, retired-lane maps cleared, CXL and fabric ports trained. The configuration block gives CXLCFG
at the first bring-up since power-on that comes so far; one after that puts in force what has been written to it (R394). -/
def State.bootLinks (s : State) (b : BootPkg) : State :=
  let s := (List.range 16).foldl (fun s n => s.setLink (16 * b.pkg + n) Link.reset) s
  s.modPkg b.pkg fun p =>
    let c := if p.cxlSet then p.cxlcfg else BitVec.ofNat 64 (b.expPorts.toNat * 2 ^ 16 + b.enPorts.toNat)
    let p := { p with cxlcfg := c, cxlRun := c, cxlSet := true }
    { p with capBytes := p.tierSize b.devBytes,
             ports := (List.range 16).map fun i => { up := b.fabricUp.getD i false, resend := 0, queued := 0 } }

/-- Step 4: the attraction memory's organisation, every tag INVALID. -/
def State.bootAttraction (s : State) (b : BootPkg) : State :=
  s.modPkg b.pkg fun p => { p with ways := b.ways, nsets := setsFor b.ways, nbr := b.nbr, slots := [], pool := [] }

/-- Step 5: directory slices emptied, chains cleared; CTXTAB from the configuration block. -/
def State.bootDirectory (s : State) (b : BootPkg) : State :=
  (s.emptyHomeless b.pkg).modPkg b.pkg fun p =>
    { p with chains := Pkg.reset.chains, buckets := Pkg.reset.buckets, bfcfg := Pkg.reset.bfcfg,
             ctxtab := BitVec.ofNat 64 b.ctxtab &&& 0x00FFFFFFFFC00000 }

/-- A write by bring-up; one whose page finds no place is not made. -/
def State.bootWrite (s : State) (pkg k : Nat) (bs : List Byte) : State :=
  match s.agentWrite pkg k bs with
  | .ok t => t
  | .error x => x.s

/-- Write the configuration block's bytes. -/
def State.bootImage (s : State) (pkg : Nat) (image : List (Nat × Byte)) : State :=
  image.foldl (fun s x => if isHomeless x.1 then s.bootWrite pkg x.1 [x.2] else s.write [x]) s

/-- Step 6: rings and service warps. The barrier object of a ring has COUNT 1 and INIT 1, and TAKEN is the program's (R318);
the ASID 0 tables come from the configuration block (R326). -/
def State.bootService (s : State) (b : BootPkg) : State :=
  let s := s.bootWrite b.pkg (s.ctxBlock b.pkg 0) (leBytes 8 b.svcPtb)
  (List.range 8).foldl (fun s d =>
    let die := 8 * b.pkg + d
    let s := s.modDie die fun x =>
      { x with trapvec := BitVec.ofNat 64 (b.trapvec.getD d 0) &&& 0xFFFFFFFFFFFFFFF0,
               svcq := BitVec.ofNat 64 (b.svcq.getD d 0) &&& 0x00FFFFFFFFFE0000, postN := 0 }
    let base := svcBase (s.die die).svcq
    (s.bootWrite b.pkg base (leBytes 8 (1 + 2 ^ 32))).startService die) s

/-- The steps of one package in order; the step that fails stops them (R468). -/
def State.bootPkg (s : State) (image : List (Nat × Byte)) (b : BootPkg) : State :=
  let s := s.dropRunning b.pkg
  let s := s.setPkg b.pkg (s.pkg b.pkg).moduleReset
  let s := { s with
    cores := s.cores.filter fun e => e.1 / 256 != b.pkg,
    dies := s.dies.filter fun e => e.1 / 8 != b.pkg,
    dead := s.dead.filter (· != b.pkg), lostPkgs := s.lostPkgs.filter (· != b.pkg) }
  let steps : List (State → State) :=
    [fun s => s, fun s => s.bootHbm b, fun s => s.bootLinks b, fun s => s.bootAttraction b, fun s => s.bootDirectory b,
     fun s => (s.bootImage b.pkg image).bootService b]
  if 1 ≤ b.failStep && b.failStep ≤ 6 then
    ((steps.take (b.failStep - 1)).foldl (fun s g => g s) s).modPkg b.pkg fun p =>
      { p with bootStep := b.failStep, bootFail := b.failStep }
  else (steps.foldl (fun s g => g s) s).modPkg b.pkg fun p => { p with bootStep := 7, bootFail := 0 }

/-- BRING_UP: every package of the configuration block that the pod has; a pod has 1 to 4,096 (R3). -/
def State.bringUp (s : State) (c : BootCfg) : State :=
  if c.podN < 1 || 4096 < c.podN then s
  else (c.pkgs.filter fun b => decide (b.pkg < c.podN)).foldl (fun s b => s.bootPkg c.image b) { s with podN := c.podN }

end Sys2Proof.Machine
end

