-- ==== Sys2Proof/Machine/Events.lean ====
section
/-! DEFINITION. The steps of the agents that issue no instruction, and of the outside world: one meaning for each, in the order
of spec/opcode_table.json. A step whose condition does not hold leaves the state as it is (log entry 11). -/
namespace Sys2Proof.Machine

/-- A package of the pod with power: nothing else takes a step. -/
def State.live (s : State) (pkg : Nat) : Bool := decide (pkg < s.podN) && !s.dead.contains pkg

/-- A step of an agent of a package. -/
def State.on (s : State) (pkg : Nat) (t : State) : Out := .next (if s.live pkg then t else s)

/-- A write of 4 or 8 bytes to a register page by a host or the management connector: aligned, within a page that exists
(R323). -/
def State.hostRegister (s : State) (pkg page off size : Nat) (val : Word) : State :=
  if (size = 4 || size = 8) && off % size = 0 && off < 65536 && page ≤ 8 then s.mmioWrite pkg page off size val.toNat else s

/-- R47: the warp may issue again. -/
def execDelayExpiry (w : Nat) (s : State) : Out := .next (s.modWarp w Warp.delayOver)

/-- R87: the lane set may issue again. -/
def execSleepExpiry (w : Nat) (lanes : BitVec 32) (s : State) : Out :=
  .next (s.modWarp w fun x => x.wake lanes)

/-- R242. -/
def execStarvationCount (w : Nat) (s : State) : Out := .next (s.modWarp w Warp.noteStarved)

/-- R246. -/
def execResultReturn (w : Nat) (idx : Nat) (s : State) : Out := .next (s.resultReturn w idx)

/-- R253. -/
def execHoopAge (core : Nat) (hoop : Nat) (s : State) : Out := .next (s.ageHoop core hoop)

/-- R253, R254. -/
def execHoopDraw (core : Nat) (hoop : Nat) (s : State) : Out := .next (s.drawHoop core hoop)

/-- R257, R258. -/
def execSwapOut (gid : Nat) (s : State) : Out := .next (s.swapOut gid)

/-- R258. -/
def execSwapIn (gid : Nat) (s : State) : Out := .next (s.swapIn gid)

/-- R217. -/
def execMigrateLand (w : Nat) (s : State) : Out := .next (s.migrateLand w)

/-- R214: the `wait` reads PHASE again when it is offered. -/
def execWaitRecheck (w : Nat) (s : State) : Out := .next (s.modWarp w fun x => x.retry (BitVec.allOnes 32) Hold.isWait)

/-- R173. -/
def execCopyInLanded (id : Nat) (s : State) : Out := .next (s.copyInLand id)

/-- R173. -/
def execCopyOutAccepted (id : Nat) (s : State) : Out := .next (s.copyOutAccept id)

/-- R180. -/
def execCapCopyComplete (id : Nat) (s : State) : Out := .next (s.engineComplete id)

/-- R187. -/
def execMatrixComplete (gid : Nat) (idx : Nat) (s : State) : Out := .next (s.matrixComplete gid idx)

/-- R447, R448. -/
def execMatrixFetchFault (gid : Nat) (idx : Nat) (s : State) : Out := .next (s.matrixFetchFault gid idx)

/-- R333. -/
def execPageWalk (core : Nat) (asid : Nat) (ptbase : Nat) (va : BitVec 64) (s : State) : Out :=
  s.on (pkgOfCore core) (s.pageWalk core (BitVec.ofNat 16 asid) (BitVec.ofNat 64 ptbase) va.toNat)

/-- R265. -/
def execIntake (pkg : Nat) (s : State) : Out := s.on pkg (s.intake pkg)

/-- R263. -/
def execLctailAppend (pkg : Nat) (chain : Nat) (val : BitVec 64) (s : State) : Out := s.on pkg (s.appendTail pkg chain val)

/-- R266: a write with STOP and DROP clear. -/
def execLcheadRetry (pkg : Nat) (chain : Nat) (val : BitVec 64) (s : State) : Out :=
  s.on pkg (if val.getLsbD 63 || val.getLsbD 62 then s else s.writeHead pkg chain val)

/-- R266: a write with DROP set and an address. -/
def execLcheadDropOne (pkg : Nat) (chain : Nat) (val : BitVec 64) (s : State) : Out :=
  s.on pkg (if val.getLsbD 62 && recAddr val.toNat != 0 then s.writeHead pkg chain val else s)

/-- R266: a write with DROP set and ADDR 0. -/
def execLcheadDropAll (pkg : Nat) (chain : Nat) (val : BitVec 64) (s : State) : Out :=
  s.on pkg (if val.getLsbD 62 && recAddr val.toNat == 0 then s.writeHead pkg chain val else s)

/-- R272-R274, R277, R448. -/
def execDispatch (pkg : Nat) (s : State) : Out := s.on pkg (s.dispatch pkg)

/-- R270, R271. -/
def execStagingComplete (gid : Nat) (wg : Nat) (s : State) : Out := .next (s.stageWg gid wg)

/-- R275. -/
def execLaunchComplete (lid : Nat) (s : State) : Out := .next (s.completeLaunch lid)

/-- R276. -/
def execBucketRefill (pkg : Nat) (s : State) : Out := s.on pkg (s.refill pkg)

/-- R430, R449, R450. -/
def execPreempt (gid : Nat) (s : State) : Out := .next (s.preempt gid)

/-- R449. -/
def execMigratedWarpReturn (w : Nat) (s : State) : Out := .next (s.warpHome w)

/-- R431. -/
def execPreEmpted (gid : Nat) (s : State) : Out := .next (s.preEmpted gid)

/-- R451-R456. -/
def execHardwareSave (gid : Nat) (s : State) : Out := .next (s.hardwareSave gid)

/-- R437. -/
def execProgramFaultDelivery (w : Nat) (s : State) : Out := .next (s.deliverProgramFault w)

/-- R439. -/
def execWorkgroupFaultEnd (gid : Nat) (s : State) : Out := .next (s.endOnFault gid)

/-- R318, R441. -/
def execServiceRingPost (die : Nat) (s : State) : Out := s.on (pkgOfDie die) (s.postRing die)

/-- R446: the queue is that of the error's ASID on the package. -/
def execStoreError (pkg : Nat) (err : StoreErr) (s : State) : Out :=
  s.on pkg (s.report pkg err)

/-- R458. -/
def execPowerWindow (die : Nat) (s : State) : Out := s.on (pkgOfDie die) (s.powerWindow die)

/-- R459. -/
def execThermalThrottle (die : Nat) (celsius : Int) (s : State) : Out := s.on (pkgOfDie die) (s.throttle die celsius)

/-- R457. -/
def execPwrctlWrite (pkg : Nat) (val : BitVec 64) (s : State) : Out := s.on pkg (s.writePwrctl pkg val)

/-- R381, R382. -/
def execFlitReceive (link : Nat) (atB : Bool) (flit : Flit) (noise : List (Nat × Byte)) (badLanes : List Nat) (s : State) : Out :=
  s.on (link / 16) (s.flitReceive link atB flit noise badLanes)

/-- R381. -/
def execNak (link : Nat) (atB : Bool) (seq : BitVec 12) (s : State) : Out := s.on (link / 16) (s.receiveNak link atB seq)

/-- R382. -/
def execLaneRetire (link : Nat) (lane : Nat) (s : State) : Out := s.on (link / 16) (s.retireLane link lane)

/-- R383. -/
def execRateFallback (link : Nat) (s : State) : Out := s.on (link / 16) (s.rateFallback link)

/-- R378. -/
def execLnkctlRetrain (link : Nat) (val : BitVec 64) (s : State) : Out := s.on (link / 16) (s.writeLnkctl link val)

/-- R384. -/
def execTrainingAttempt (link : Nat) (pass : Bool) (s : State) : Out := s.on (link / 16) (s.trainingAttempt link pass)

/-- R390. -/
def execHbmTemperature (die : Nat) (stk : Nat) (celsius : Int) (laneFault : Option Nat) (s : State) : Out :=
  s.on (pkgOfDie die) (s.hbmReading die stk celsius laneFault)

/-- R389, R393. -/
def execHbmWidthChange (die : Nat) (stk : Nat) (chan : Nat) (s : State) : Out :=
  s.on (pkgOfDie die) (s.hbmWidth die stk chan)

/-- R399. -/
def execFabricPacketReceive (pkg : Nat) (pkt : Packet) (how : Arrival) (s : State) : Out :=
  s.on pkg (s.packetReceive pkg pkt how.intact how.bucket)

/-- R400. -/
def execFabricResend (pkg : Nat) (dst : Nat) (kind : PacketKind) (seq : Nat) (s : State) : Out :=
  s.on pkg (s.packetResend pkg dst kind seq)

/-- R355; held while a set that it needs stands on a die in reset (R370). -/
def execReadMiss (die : Nat) (line : Nat) (s : State) : Out := s.on (pkgOfDie die) (s.readMissOf die line)

/-- R356, R357, R363. -/
def execWriteGrant (die : Nat) (line : Nat) (asid : Nat) (dup : Bool) (s : State) : Out :=
  s.on (pkgOfDie die) (s.writeGrant die line (BitVec.ofNat 16 asid) dup)

/-- R362. -/
def execInjectionOffer (pkg : Nat) (src : Nat) (gpn : Nat) (s : State) : Out := s.on pkg (s.injectionOffer pkg src gpn)

/-- R352. -/
def execL2WriteBack (die : Nat) (line : Nat) (s : State) : Out := s.on (pkgOfDie die) (s.writeBackLine die line)

/-- R363. -/
def execFirstWriteRetry (w : Nat) (s : State) : Out := .next (s.modWarp w fun x => x.retry (BitVec.allOnes 32) s.roomFor)

/-- R366, R367. -/
def execAmopDiscard (pkg : Nat) (gpn : Nat) (s : State) : Out := s.on pkg (s.amop pkg (amWord 0 gpn))

/-- R366, R368. -/
def execAmopPin (pkg : Nat) (gpn : Nat) (s : State) : Out := s.on pkg (s.amop pkg (amWord 1 gpn))

/-- R366, R368. -/
def execAmopUnpin (pkg : Nat) (gpn : Nat) (s : State) : Out := s.on pkg (s.amop pkg (amWord 2 gpn))

/-- R366, R371, R372. -/
def execAmopLost (pkg : Nat) (lost : Nat) (s : State) : Out := s.on pkg (s.amop pkg (amWord 3 lost))

/-- R370. -/
def execDieReset (die : Nat) (s : State) : Out := s.on (pkgOfDie die) (s.dieReset die)

/-- R402. -/
def execSnpinv (die : Nat) (addr : Nat) (s : State) : Out := s.on (pkgOfDie die) (s.snpInv die addr)

/-- R402. -/
def execSnpdata (die : Nat) (addr : Nat) (s : State) : Out := s.on (pkgOfDie die) (s.snpData die addr)

/-- R425. -/
def execHostRead (host : Nat) (pkg : Nat) (addr : Nat) (len : Nat) (s : State) : Out :=
  s.on pkg (s.hostRead host pkg addr len)

/-- R425. -/
def execHostWrite (host : Nat) (pkg : Nat) (addr : Nat) (bytes : List (BitVec 8)) (s : State) : Out :=
  s.on pkg (s.hostWrite host pkg addr bytes)

/-- R426, R427. -/
def execBiasopToDevice (pkg : Nat) (gpn : Nat) (s : State) : Out := s.on pkg (s.biasop pkg (biasWord 0 0 gpn))

/-- R426, R427. -/
def execBiasopToHost (pkg : Nat) (host : Nat) (gpn : Nat) (s : State) : Out := s.on pkg (s.biasop pkg (biasWord 1 host gpn))

/-- R312. -/
def execBackfillAccept (pkg : Nat) (s : State) : Out := s.on pkg (s.bfAccept pkg)

/-- R312. -/
def execBatchAge (pkg : Nat) (s : State) : Out := s.on pkg (s.bfAge pkg)

/-- R312. -/
def execBatchEmit (pkg : Nat) (s : State) : Out := s.on pkg (s.bfEmit pkg)

/-- R309, R313. -/
def execBfcfgWrite (pkg : Nat) (val : BitVec 64) (s : State) : Out := s.on pkg (s.writeBfcfg pkg val)

/-- R344. -/
def execScrubCheck (die : Nat) (s : State) : Out := s.on (pkgOfDie die) (s.scrub die)

/-- R461. -/
def execAlarm (pkg : Nat) (sources : BitVec 4) (s : State) : Out := s.on pkg (s.alarm pkg sources)

/-- R460. -/
def execAlarmcfgWrite (pkg : Nat) (val : BitVec 64) (s : State) : Out := s.on pkg (s.writeAlarmcfg pkg val)

/-- R463, R465. -/
def execAttcmd (pkg : Nat) (s : State) : Out := s.on pkg (s.attest pkg)

/-- R467. -/
def execCounterEvent (core : Nat) (idx : Nat) (s : State) : Out := s.on (pkgOfCore core) (s.countEvent core idx)

/-- R466, R467: the written value stands. -/
def execCntvalWrite (core : Nat) (idx : Nat) (val : BitVec 64) (s : State) : Out :=
  s.on (pkgOfCore core) (if idx < 40 then s.writeCntval core idx val else s)

/-- R468. -/
def execBringUp (cfg : BootCfg) (s : State) : Out := .next (s.bringUp cfg)

/-- R11, R323. -/
def execRegisterWrite (pkg : Nat) (page : Nat) (off : Nat) (size : Nat) (val : BitVec 64) (s : State) : Out :=
  s.on pkg (s.hostRegister pkg page off size val)

/-- R401. -/
def execFabricPortLinkChange (pkg : Nat) (port : Nat) (up : Bool) (s : State) : Out := s.on pkg (s.portChange pkg port up)

/-- R224, R370, R442. -/
def execDieLeavesReset (die : Nat) (s : State) : Out := s.on (pkgOfDie die) (s.leaveReset die)

/-- R463. -/
def execPowerLoss (pkg : Nat) (s : State) : Out := s.on pkg (s.powerLoss pkg)

end Sys2Proof.Machine
end

