-- ==== Sys2Proof/Machine/Vote.lean ====
section
/-! DEFINITION. Selection and the issue vote (R240-R243, R250), the fetch of an instruction word (R44, R331), and what an
issue leaves to be offered again. -/
namespace Sys2Proof.Machine

/-! ### Eligibility (R243) -/

/-- Whether the unit of a warp lets it issue: from the choice as a victim on its sequencer is stopped, and a migrated warp waits
for its return (R449); once PREEMPT reaches the unit its warps wait for their results (R430); while the hardware saves it,
nothing of it issues (R451). -/
def State.unitIssues (s : State) (w : Warp) : Bool :=
  match aget s.groups w.gid with
  | none => false
  | some g =>
    match g.phase with
    | .running => true
    | .stopping => w.kind == .user && w.away.isNone && !s.reached w.gid g
    | .preempting => w.kind == .user && (match aget s.launches g.lid with | some l => l.record.utrap != 0 | none => false)
    | _ => false

/-- A warp that may be selected, apart from what `yield` asks. -/
def State.eligible (s : State) (w : Warp) : Bool :=
  let d := s.die (dieOf w.core)
  w.dly == 0 && !w.swPark && !w.pendingFault && w.lanes.any Lane.isRun && !d.halted && !d.inReset
    && (w.kind == .service || s.unitIssues w)

/-- A warp that has issued `yield` lets every other eligible warp of its core go first (R86). -/
def State.turn (s : State) (w : Warp) : Bool :=
  s.eligible w && !(w.owes.any fun k => match aget s.warps k with
    | some x => x.core == w.core && s.eligible x
    | none => false)

/-- Issue slot of a warp slot (R243); a sequencer has none. -/
def issueSlot (slot : Nat) : Option Nat := if slot = 40 then none else some (slot % 4)

/-- The warp that the issue slot of a candidate selects: the first eligible one after the warp it selected last. -/
def State.roundRobin (s : State) (key : Nat) (w : Warp) : Nat :=
  match issueSlot w.slot with
  | none => key
  | some i =>
    let last := (s.core w.core).lastSel.getD i 0
    let cs := s.warps.filter fun (e : Nat × Warp) => e.2.core == w.core && issueSlot e.2.slot == some i && s.turn e.2
    let rank (x : Warp) : Nat := (x.slot + 64 - last - 1) % 64
    (cs.foldl (fun (a : Nat × Warp) e => if rank e.2 < rank a.2 then e else a) (key, w)).1

/-! ### The vote (R241, R242) -/

/-- The distinct counters of the lanes in RUN, ascending. -/
def Warp.counters (w : Warp) : List Nat :=
  sortBy (fun a b => decide (a ≤ b)) (((w.lanes.filter Lane.isRun).map fun x => x.pc.toNat).eraseDups)

/-- The lanes in RUN that hold a counter. -/
def Warp.atCounter (w : Warp) (c : Nat) : LaneMask := w.which fun x => x.isRun && x.pc.toNat == c

/-- The counters that a selection chooses from: those of restored parked lanes, which re-execute at once, come first (R231). -/
def Warp.candidates (w : Warp) : List Nat :=
  let cs := w.counters.filter w.replay.contains
  if cs.isEmpty then w.counters else cs

/-- PC0 and PC1 of a selection; a starved counter stands at PC0 and the lowest one in the place of PC1. -/
def Warp.vote (w : Warp) : Option (Nat × Option Nat) :=
  let cs := w.candidates
  match w.first.filter cs.contains with
  | some c => some (c, (cs.filter (· != c)).head?)
  | none => cs.head?.map fun c => (c, cs.tail.head?)

/-- A selection in which `c` issues: its starvation count returns to 0, those of the other counters rise. -/
def Warp.selected (w : Warp) (c : Nat) : Warp :=
  let starve := (w.counters.filter (· != c)).foldl (fun m x => aset m x ((aget w.starve x).getD 0 + 1)) []
  { w with starve := starve, pair := none, replay := w.replay.filter (· != c) }.noteStarved

/-! ### Fetch -/

/-- What the fetch and decode of a word give. -/
inductive Fetched where
  | fault (code va : Nat)
  | bad                         -- ILLOP (R67, checks 1 to 3)
  | instr (i : Instr)
  deriving DecidableEq, Repr

/-- Fetch the 16 bytes at a counter (R45, R331) and decode them. -/
def State.fetch (s : State) (w : Warp) (pc : Word) : Fetched :=
  match s.transAll (s.who w) Acc.fetch [pc.toNat] with
  | .inl f => .fault f.1 f.2
  | .inr ls =>
    match decode (bytesWord (s.bytes (keyOf ls 0 pc.toNat) 16)) with
    | .ok i => .instr i
    | .error _ => .bad

/-- What fetching the word leaves of the caches, and of the tags of its page (R355). -/
def State.fetched (s : State) (w : Warp) (pc : Word) : State :=
  match s.transAll (s.who w) Acc.fetch [pc.toNat] with
  | .inl _ => s
  | .inr ls => (s.getBytes (s.who w) ls 0 [pc.toNat]).2

/-- A die in reset holds the fetch (R370). -/
def State.fetchHeld (s : State) (w : Warp) (pc : Word) : Bool :=
  match s.transAll (s.who w) Acc.fetch [pc.toNat] with
  | .inl _ => false
  | .inr ls => s.anyReset (s.who w) ls

/-! ### Issue -/

def unitCode : UnitClass → Nat
  | .intLogic => 0
  | .float => 1
  | .transc => 2
  | .memory => 3
  | .cross => 4
  | .async => 5
  | .control => 6

/-- Unit class of an instruction word (R65). -/
def unitOf (i : Instr) : Nat := match opSpec i with | some sp => unitCode sp.unit | none => 7

/-- What a selection comes to: nothing to select, a state in which the lanes have faulted, or an instruction to execute in a
state that names the issue. -/
inductive Begun where
  | idle
  | finished (s : State)
  | run (i : Instr) (s : State)
  deriving DecidableEq, Repr

/-- The selection is recorded: the issue slot's round-robin point, and the warps that gave way. -/
def State.noteSelection (s : State) (key : Nat) (w : Warp) : State :=
  let s := match issueSlot w.slot with
    | some i => s.modCore w.core fun c => { c with lastSel := modAt c.lastSel i fun _ => w.slot }
    | none => s
  if s.warps.any fun e => e.2.owes.contains key then
    { s with warps := s.warps.map fun (e : Nat × Warp) => (e.1, { e.2 with owes := e.2.owes.filter (· != key) }) }
  else s

/-- Lanes that a failed fetch or decode parks, each at its own word. -/
def faultLanes (m : LaneMask) (code va : Nat) : List LaneFault :=
  (lanesOf m).map fun l => { lane := l, code := code, addr := BitVec.ofNat 64 va }

/-- A warp or sequencer is selected: PC0's instruction issues for the lanes that hold PC0. -/
def State.beginIssue (s : State) (key : Nat) : Begun :=
  match aget s.warps key with
  | none => .idle
  | some w =>
    if !s.turn w || s.roundRobin key w != key then .idle
    else
      match w.vote with
      | none => .idle
      | some (c, c1) =>
        let m := w.atCounter c
        let pc : Word := BitVec.ofNat 64 c
        let w1 := w.selected c
        let s1 := ((s.setWarp key w1).noteSelection key w).fetched w pc
        if s.fetchHeld w pc then .idle
        else
        match s.fetch w pc with
        | .fault code va => .finished (takeFaults s1 key pc 3 0 (faultLanes m code va))
        | .bad => .finished (takeFaults s1 key pc 3 0 (faultLanes m ILLOP c))
        | .instr i =>
          let pair : Option PairOffer :=
            if w.kind = .seq then none
            else c1.map fun x => { unit := unitOf i, pc := BitVec.ofNat 64 x, lanes := w.atCounter x }
          .run i { s1.modWarp key (fun x => { x with pair := pair }) with
                   cur := some { key := key, lanes := m, pc := pc, paired := false } }

/-- PC1's instruction issues in the same cycle when it has been fetched and its unit class differs. -/
def State.beginPair (s : State) (key : Nat) : Begun :=
  match aget s.warps key with
  | none => .idle
  | some w =>
    match w.pair with
    | none => .idle
    | some p =>
      let m := w.atCounter p.pc.toNat &&& p.lanes
      let s0 := (s.setWarp key { w with pair := none }).fetched w p.pc
      if s.fetchHeld w p.pc then .finished (s.setWarp key { w with pair := none })
      else
      match s.fetch w p.pc with
      | .instr i =>
        if unitOf i = p.unit || m == 0 then .finished s0
        else
          let w1 := { w with pair := none, starve := adel w.starve p.pc.toNat,
                             replay := w.replay.filter (· != p.pc.toNat) }.noteStarved
          .run i { s0.setWarp key w1 with
                   cur := some { key := key, lanes := m, pc := p.pc, paired := true } }
      | _ => .finished s0

/-- ILLOP, PRIV and FMT of an instruction that restores a section come from the section that it read (R231, R233, R235), and
those of a CSR access from its index (DESIGN CHOICE, log entry 106), not from decode checks on their tags and fields. -/
def faultsInExecution : Instr → Bool
  | .pcrs _ => true
  | .vrest _ => true
  | .accrs _ => true
  | .trs _ => true
  | .csrr _ => true
  | .csrw _ => true
  | _ => false

/-- The fault that the decode checks of an instruction raise for a warp whatever its registers hold (R67). -/
def Warp.staticFault (w : Warp) (i : Instr) : Option Nat := (fieldsOf i).bind fun f => decodeFault w i f

/-- The lanes issued at PC1 have faulted on a decode check (R241): the instruction does not issue as PC1. -/
def State.pairRefused (t : State) (i : Instr) (c : Issue) : Bool :=
  match aget t.warps c.key with
  | none => false
  | some w => (lanesOf c.lanes).any fun l =>
      match (w.lane l).st with
      | .park code _ _ =>
        (w.lane l).pc == c.pc && (code == ILLOP || code == PRIV || code == FMT) && (!faultsInExecution i || (w.staticFault i).isSome)
      | _ => false

/-! ### Offers (R241, R284) -/

/-- Holds that end by offering the instruction again. A barrier, a sleep, a rendezvous and a migration under way end by their
own events; a first write is offered when a tag of its set has changed (R363). -/
def State.offersHold (s : State) (goal : Bool) : Hold → Bool
  | .bar _ _ => false
  | .sleep _ => false
  | .regdon => false
  | .migrate => !goal
  | .room pkg set mark => s.roomChanged (pkg, set, mark)
  | _ => true

/-- The instruction of an issue has not issued: its lanes are held until it is offered again (R283, R284). -/
def State.wasHeld (u : State) (c : Issue) : Bool :=
  match aget u.warps c.key with
  | none => false
  | some w => (lanesOf c.lanes).any fun l =>
      (w.lane l).pc == c.pc && match (w.lane l).st with
        | .hold (.room _ _ _) => true
        | .hold h => u.offersHold w.goal.isSome h
        | _ => false

/-- The event counter that a `csrw` by a service warp writes: an event of its own cycle does not count there (R467). -/
def State.countWritten (t : State) (c : Issue) (w : Warp) : Instr → Option Nat
  | .csrw f => let e := t.issueEnv c w f; if csrNum f = 0x14 && w.kind == .service && e.leading.isSome then some (e.csrIdx t) else none
  | _ => none

/-- The instruction that `t` was about to execute has been executed: one that has issued is counted on the core that issued it
(R466), and no issue is under way. -/
def State.issueDone (u t : State) (i : Instr) : State :=
  match t.cur with
  | none => { u with cur := none }
  | some c =>
    match aget t.warps c.key with
    | some w => if u.wasHeld c then { u with cur := none } else { u.occurs w.core 0 0x02 (t.countWritten c w i) with cur := none }
    | none => { u with cur := none }

/-- The lanes of a warp held at a counter are offered to the vote again. -/
def State.offerAt (s : State) (key : Nat) (pc : Nat) : State :=
  s.modWarp key fun w => w.retry (w.which fun x => x.pc.toNat == pc) (s.offersHold w.goal.isSome)

/-! ### The default order of agents

The spec fixes no order between agents; when the agenda is empty the model takes one in which every agent has its turn. -/

/-- The first of some steps that changes the state. -/
def State.firstChange (s : State) (gs : List (State → State)) : Option State :=
  gs.findSome? fun g => let t := g s; if t = s then none else some t

/-- A list from one of its places on, and then its first part. -/
def rotate {α : Type} (n : Nat) (xs : List α) : List α := xs.drop (n % xs.length) ++ xs.take (n % xs.length)

/-- The steps of agents that may be due, by their kinds. -/
def State.dueKinds (s : State) : List (List (State → State)) :=
  let unit (h : Nat → List (State → State)) : List (State → State) := s.groups.flatMap fun e => h e.1
  let warp (h : Nat → State → State) : List (State → State) := s.warps.map fun e => h e.1
  let die (h : Nat → State → State) : List (State → State) := s.dies.map fun e => h e.1
  let pkg (h : Nat → State → State) : List (State → State) := s.pkgs.map fun e => h e.1
  let hoop (h : Nat → Nat → State → State) : List (State → State) :=
    s.cores.flatMap fun (e : Nat × Core) => (List.range e.2.hoops.length).map (h e.1)
  [ unit fun k => [fun t => t.preempt k, fun t => t.preEmpted k, fun t => t.hardwareSave k, fun t => t.endOnFault k],
    s.groups.flatMap fun (e : Nat × Group) => (List.range e.2.wgs.length).map fun j t => t.stageWg e.1 j,
    s.groups.flatMap fun (e : Nat × Group) => (List.range e.2.mops.length).flatMap fun i =>
      [fun t => t.matrixComplete e.1 i, fun t => t.matrixFetchFault e.1 i],
    s.warps.flatMap fun (e : Nat × Warp) => (List.range e.2.flights.length).map fun i t => t.resultReturn e.1 i,
    warp fun k t => t.deliverProgramFault k, warp fun k t => t.warpHome k, warp fun k t => t.migrateLand k,
    warp fun k t => t.modWarp k fun w => if w.dly = 0 then w else w.delayOver,
    warp fun k t => t.modWarp k fun w => if w.lanes.any Lane.sleeps then w.wake (BitVec.allOnes 32) else w,
    s.copies.map fun (e : Nat × Copy) t => if e.2.isOut then t.copyOutAccept e.1 else t.copyInLand e.1,
    s.engines.map fun (e : Nat × Engine) t => t.engineComplete e.1,
    s.publs.map fun (e : Nat × Publish) t => t.publishStep e.1,
    s.ksums.map fun (e : Nat × Ksum) t => t.ksumEnd e.1,
    pkg fun k t => t.biasGo k,
    s.launches.map fun (e : Nat × Launch) t => t.completeLaunch e.1,
    hoop fun k i t => t.drawHoop k i, hoop fun k i t => t.ageHoop k i,
    die fun k t => if (t.die k).postq.isEmpty then t else t.postRing k,
    die fun k t => if (t.die k).pmQueue.isEmpty then t else t.powerWindow k,
    pkg fun k t => t.intake k, pkg fun k t => t.bfAccept k, pkg fun k t => t.bfEmit k, pkg fun k t => t.dispatch k,
    pkg fun k t => t.heldWrite k, pkg fun k t => t.heldError k, pkg fun k t => t.refill k, pkg fun k t => t.bfAge k,
    s.pkgs.flatMap fun (e : Nat × Pkg) => (List.range 16).map fun p t => t.heldAppend e.1 p,
    s.links.flatMap fun (e : Nat × Link) =>
      [fun t => match e.2.endA.nak with | some q => t.receiveNak e.1 true q | none => t,
       fun t => match e.2.endB.nak with | some q => t.receiveNak e.1 false q | none => t,
       fun t => match e.2.dueLane with | some k => t.retireLane e.1 k | none => t,
       fun t => (t.rateFallback e.1).trainingAttempt e.1 true],
    unit fun k => [fun t => t.swapOut k],
    die fun k t => t.writeBackDie k ]

/-- The steps that may be due, in an order in which each kind, and in it each agent, comes first in its turn (R260). -/
def State.dueSteps (s : State) : List (State → State) :=
  let ks := s.dueKinds
  (rotate s.turns ks).flatMap (rotate (s.turns / ks.length))

/-- The next warp after the round-robin point that may be selected. -/
def State.nextIssue (s : State) : Option Nat :=
  let cs := s.warps.filter fun (e : Nat × Warp) => s.turn e.2
  let c := match cs.find? fun e => s.rr / 4 % 2 ^ 24 < e.1 with | some e => some e | none => cs.head?
  c.map fun e => s.roundRobin e.1 e.2

/-- The next held lanes to offer. -/
def State.nextOffer (s : State) : Option (Nat × Nat) :=
  let cs := s.warps.flatMap fun (e : Nat × Warp) =>
    ((e.2.lanes.filter fun x => match x.st with | .hold h => s.offersHold e.2.goal.isSome h | _ => false).map fun x =>
      (e.1, x.pc.toNat)).eraseDups
  match cs with
  | [] => none
  | _ => cs[s.turns % cs.length]?

/-- What the default order does next. -/
inductive Default where
  | pick (p : Pick)
  | state (s : State)
  deriving DecidableEq, Repr

/-- The default order: PC1 of a selection just made, and then in turn an issue, a due step and an offer. The round-robin point
holds the last selected warp, and the turn in its low bits. -/
def State.default (s : State) : Default :=
  match s.warps.find? fun (e : Nat × Warp) => e.2.pair.isSome with
  | some e => .pick (.pair e.1)
  | none =>
    let issue : Option Default := s.nextIssue.map fun k => .pick (.issue k)
    let event : Option Default := (s.firstChange s.dueSteps).map .state
    let offer : Option Default := s.nextOffer.map fun x => .pick (.offer x.1 x.2)
    let order := match s.rr % 4 with
      | 0 => [issue, event, offer]
      | 1 => [event, offer, issue]
      | _ => [offer, issue, event]
    (order.findSome? id).getD (.state s)

/-- The default order moves on. -/
def State.nextTurn (s : State) : State :=
  let turn := (s.rr % 4 + 1) % 3
  let point := match s.nextIssue with | some k => if s.rr % 4 = 0 then k else s.rr / 4 | none => s.rr / 4 + 1
  { s with rr := point * 4 + turn, turns := if turn = 0 then s.turns + 1 else s.turns }

end Sys2Proof.Machine
end

