-- ==== Sys2Proof/Machine/Bench.lean ====
section
/-! DEFINITION. A unit placed from outside the machine, so that one instruction word can be run at once (log entry 9): page
tables, a launch, a quad group with one workgroup of one warp, its sequencer, and the service warp of the quad. -/
namespace Sys2Proof.Machine

/-- Address at which the word stands: virtual and physical. -/
def benchPc : Nat := 0x10000

/-- The tables: level 3, 2 and 1 at these addresses, and one 128 MiB leaf that maps addresses to themselves. -/
def benchTables : List (Nat × Byte) :=
  atAddrs 0x100000 (leBytes 8 (1 + 0x108000 / 2 ^ 15 * 2 ^ 25)) ++ atAddrs 0x108000 (leBytes 8 (1 + 0x110000 / 2 ^ 15 * 2 ^ 25))
    ++ atAddrs 0x110000 (leBytes 8 63)

def benchCtx (asid : Nat) : Ctx :=
  { asid := BitVec.ofNat 16 asid, ptbase := 0x100000, ctxbase := 0, utrapvec := 0, errqbase := 0 }

/-- The launch record: a quad group of one workgroup with one warp of 64 registers, 64 KiB of scratchpad and four tiles. -/
def benchRecord : LRec :=
  { wgentry := BitVec.ofNat 64 benchPc, sqentry := BitVec.ofNat 64 benchPc, args := 0, gx := 1, gy := 1, gz := 1, warps := 1,
    flags := 2, bregs := 64, ncopy := 0, nepi := 0, cregs := 0, eregs := 0, spad := 0x10000, tiles := 4, coop := 1,
    bucket := 0, prio := 0, sab := 0, str := 0, utrap := 0, asid := 1, nrange := 0, ranges := [], sstride := 0, zero := true }

def benchLaunch : Launch :=
  { pkg := 0, chain := 0, num := 1, addr := 0, record := benchRecord, cause := 0, deps := [], placed := 1, endedWgs := 0,
    faulted := false, order := 0, userAsid := none, bfSlot := none }

def benchGroup : Group :=
  { mkGroup benchRecord 1 0 0 [mkWg benchRecord 0 0 (0, [0])] with phase := .running, seq := some 40 }

def benchWarp : Warp := freshWarp .user 1 0 0 0 0 0 64 32 (BitVec.ofNat 64 benchPc) (benchCtx 1)
def benchSeq : Warp := freshWarp .seq 1 0 0 3 0 40 0 1 (BitVec.ofNat 64 benchPc) (benchCtx 1)
def benchService : Warp := freshWarp .service 0 0 0 4 0 34 64 32 (BitVec.ofNat 64 benchPc) (benchCtx 0)

/-- The agent that runs an instruction: the service warp where it is privileged, the sequencer where no warp has it, else the
user warp. -/
def benchKey (i : Option Instr) : Nat :=
  match i.bind opSpec with
  | some sp => if sp.forP then 34 else if sp.forW then 0 else 40
  | none => 0

/-- A state with the unit in place and a word at its program counter. -/
def State.placed (s : State) (word : List Byte) : State :=
  { s with
    mem := memSetAll s.mem (benchTables ++ atAddrs benchPc word),
    warps := aset (aset (aset s.warps 0 benchWarp) 34 benchService) 40 benchSeq,
    groups := aset s.groups 1 benchGroup, launches := aset s.launches 1 benchLaunch, nextId := max s.nextId 2 }

end Sys2Proof.Machine
end

