-- ==== Sys2Proof/Machine/Uniform.lean ====
section
/-! DEFINITION. Group 0x1, uniform integer instructions (R89-R95). -/
namespace Sys2Proof.Machine

/-- MOD.U and MOD.SAT of R90. -/
def modU (f : Fields) : Bool := mdB f 0
def modSat1 (f : Fields) : Bool := mdB f 1

/-- A uniform source: 64 bits as they stand, an immediate extended by U (R89). -/
def Env.uni (e : Env) (s : State) (x : Src) : Word :=
  match x with
  | .v _ => 0
  | .u n => e.u n.toNat
  | .imm => if modU e.f then BitVec.ofNat 64 (immN e.f) else BitVec.ofInt 64 (sextN (immN e.f) 32)
  | .sp c => BitVec.ofNat 64 (special s e.w c.toNat 0 0)

/-- The integer reading of a word under U. -/
def readU (u : Bool) (x : Word) : Int := if u then (x.toNat : Int) else x.toInt

/-- R91: wrap, or with SAT clamp to range. -/
def fit64 (u sat : Bool) (x : Int) : Word :=
  BitVec.ofInt 64 (if sat then satInt x 64 (!u) else x)

/-- An instruction of group 0x1 acts once, if its issuing lane set has a leading lane (R77); its result is of the integer
and logic class (R95). -/
def Env.uniOp (e : Env) (s : State) (val : Word) : State :=
  if e.taking == 0 then e.done s e.w else e.uniDone s latInt e.f.d.toNat val

/-- `sdiv` and `srem` give variable-latency results (R95). -/
def Env.uniOpFly (e : Env) (s : State) (val : Word) : State :=
  if e.taking == 0 then e.done s e.w else e.uniFly s e.f.d.toNat val

def execSadd (f : Fields) (s : State) : Out :=
  issued (.sadd f) f s fun e s =>
    e.uniOp s (fit64 (modU f) (modSat1 f) (readU (modU f) (e.uni s f.a) + readU (modU f) (e.uni s f.b)))

def execSsub (f : Fields) (s : State) : Out :=
  issued (.ssub f) f s fun e s =>
    e.uniOp s (fit64 (modU f) (modSat1 f) (readU (modU f) (e.uni s f.a) - readU (modU f) (e.uni s f.b)))

def execSmul (f : Fields) (s : State) : Out :=
  issued (.smul f) f s fun e s =>
    e.uniOp s (fit64 (modU f) (modSat1 f) (readU (modU f) (e.uni s f.a) * readU (modU f) (e.uni s f.b)))

def execSmulh (f : Fields) (s : State) : Out :=
  issued (.smulh f) f s fun e s =>
    e.uniOp s (BitVec.ofInt 64 (readU (modU f) (e.uni s f.a) * readU (modU f) (e.uni s f.b) / 2 ^ 64))

/-- R92. -/
def divide (u : Bool) (a b : Word) : Word :=
  if b = 0 then BitVec.allOnes 64
  else if u then BitVec.ofNat 64 (a.toNat / b.toNat)
  else BitVec.ofInt 64 (a.toInt.tdiv b.toInt)

def remainder (u : Bool) (a b : Word) : Word :=
  if b = 0 then BitVec.allOnes 64
  else if u then BitVec.ofNat 64 (a.toNat % b.toNat)
  else BitVec.ofInt 64 (a.toInt.tmod b.toInt)

def execSdiv (f : Fields) (s : State) : Out :=
  issued (.sdiv f) f s fun e s => e.uniOpFly s (divide (modU f) (e.uni s f.a) (e.uni s f.b))

def execSrem (f : Fields) (s : State) : Out :=
  issued (.srem f) f s fun e s => e.uniOpFly s (remainder (modU f) (e.uni s f.a) (e.uni s f.b))

def execSmin (f : Fields) (s : State) : Out :=
  issued (.smin f) f s fun e s =>
    let a := e.uni s f.a
    let b := e.uni s f.b
    e.uniOp s (if readU (modU f) a ≤ readU (modU f) b then a else b)

def execSmax (f : Fields) (s : State) : Out :=
  issued (.smax f) f s fun e s =>
    let a := e.uni s f.a
    let b := e.uni s f.b
    e.uniOp s (if readU (modU f) a ≤ readU (modU f) b then b else a)

def execSand (f : Fields) (s : State) : Out := issued (.sand f) f s fun e s => e.uniOp s (e.uni s f.a &&& e.uni s f.b)

def execSor (f : Fields) (s : State) : Out := issued (.sor f) f s fun e s => e.uniOp s (e.uni s f.a ||| e.uni s f.b)

def execSxor (f : Fields) (s : State) : Out := issued (.sxor f) f s fun e s => e.uniOp s (e.uni s f.a ^^^ e.uni s f.b)

/-- Shifts by an unsigned 64-bit count (R91): every count of 64 or more gives the same result. -/
def shiftBy (b : Word) : Nat := min b.toNat 64

def execSshl (f : Fields) (s : State) : Out :=
  issued (.sshl f) f s fun e s => e.uniOp s (e.uni s f.a <<< shiftBy (e.uni s f.b))

def execSshr (f : Fields) (s : State) : Out :=
  issued (.sshr f) f s fun e s => e.uniOp s (e.uni s f.a >>> shiftBy (e.uni s f.b))

def execSsra (f : Fields) (s : State) : Out :=
  issued (.ssra f) f s fun e s => e.uniOp s ((e.uni s f.a).sshiftRight (shiftBy (e.uni s f.b)))

def execSmov (f : Fields) (s : State) : Out := issued (.smov f) f s fun e s => e.uniOp s (e.uni s f.a)

/-- `smovh` keeps the low half of D, which it reads at issue. -/
def execSmovh (f : Fields) (s : State) : Out :=
  issued (.smovh f) f s fun e s =>
    e.uniOp s (BitVec.ofNat 64 (wbits (e.uni s f.a) 0 32 * 2 ^ 32 + wbits (e.u f.d.toNat) 0 32))

/-- R93: the outcome in every bit of D in each taking lane; in the sequencer all 16 bits of its one lane. -/
def execScmp (f : Fields) (s : State) : Out :=
  issued (.scmp f) f s fun e s =>
    if e.taking == 0 then e.done s e.w
    else
      let p := intCond (mdN f 2 3) (readU (modU f) (e.uni s f.a)) (readU (modU f) (e.uni s f.b))
      let m := e.taking
      e.done s (e.w.fixed latInt e.free e.paired
        (e.predWrite f.d.toNat (fun l => if m.getLsbD l then allOnes16 else 0) (fun _ => if p then allOnes16 else 0)))

def execSsel (f : Fields) (s : State) : Out :=
  issued (.ssel f) f s fun e s =>
    let p := ((e.q f.e.toNat).getD ((e.leading).getD 0) 0).getLsbD 0
    e.uniOp s (if p then e.uni s f.a else e.uni s f.b)

/-- The pos and len of `sbfx`: an immediate is its byte of IMM (R94). -/
def Env.fieldPos (e : Env) (s : State) (x : Src) (lo : Nat) : Nat :=
  match x with
  | .imm => bitsN (immN e.f) lo 8
  | _ => (e.uni s x).toNat

/-- R94: the field of a. -/
def extractField (u : Bool) (a : Word) (pos len : Nat) : Word :=
  if len = 0 ∨ 64 ≤ pos then 0
  else
    let l := min len (64 - pos)
    let x := wbits a pos l
    if u then BitVec.ofNat 64 x else BitVec.ofInt 64 (sextN x l)

def execSbfx (f : Fields) (s : State) : Out :=
  issued (.sbfx f) f s fun e s =>
    e.uniOp s (extractField (modU f) (e.uni s f.a) (e.fieldPos s f.b 0) (e.fieldPos s f.c 8))

def execSpopc (f : Fields) (s : State) : Out :=
  issued (.spopc f) f s fun e s => e.uniOp s (BitVec.ofNat 64 (popN 64 (e.uni s f.a).toNat))

/-- Leading zeros of the low `n` bits. -/
def clzN (n x : Nat) : Nat := if x % 2 ^ n = 0 then n else n - 1 - (x % 2 ^ n).log2

def execSclz (f : Fields) (s : State) : Out :=
  issued (.sclz f) f s fun e s => e.uniOp s (BitVec.ofNat 64 (clzN 64 (e.uni s f.a).toNat))

end Sys2Proof.Machine
end

