-- ==== Sys2Proof/Machine/VectorInt.lean ====
section
/-! DEFINITION. Group 0x2, vector integer arithmetic (R102-R104). -/
namespace Sys2Proof.Machine

/-- SAT and HI of R62. -/
def modSat (f : Fields) : Bool := mdB f 0
def modHi (f : Fields) : Bool := mdB f 4
def modRnd (f : Fields) : Nat := mdN f 1 3
def modFmt (f : Fields) : Nat := mdN f 5 5

/-- An operand format of group 0x2 with accepted tags (R99, R102). -/
def Env.intOk (e : Env) (t : Nat) (xs : List Src) : Bool := fmtIntAddr t && (e.tags xs).all fmtIntAddr && mixOk (e.tags xs)

/-- Result format of `vmul` and its like: I64 for ADDR (R102). -/
def mulFmt (t : Nat) : Nat := if t == tagADDR then 0x0A else t

/-- Result format of `vadd` and `vsub`: ADDR if a source is ADDR (R102). -/
def Env.addFmt (e : Env) (t : Nat) (xs : List Src) : Nat := if (e.tags xs).contains tagADDR then tagADDR else t

/-- An instruction of R102: `g` forms the exact value, `td` is the result format. -/
def Env.intArith (e : Env) (s : State) (rule : ShapeRule) (sat : Bool) (xs : List Src) (td : Nat → Nat)
    (g : Nat → List Int → Int) : State :=
  let t := e.mixFmt xs
  e.check s (e.vecFault t (e.intOk t xs) xs)
    (e.laneOp s rule t (td t) sat xs fun vs => fitInt (td t) sat (g (fmtWidth t) (vs.map (toInt t))))

def arg (xs : List Int) (n : Nat) : Int := xs.getD n 0

def execVadd (f : Fields) (s : State) : Out :=
  issued (.vadd f) f s fun e s =>
    e.intArith s (.add false) (modSat f) [f.a, f.b] (fun t => e.addFmt t [f.a, f.b]) fun _ v => arg v 0 + arg v 1

def execVsub (f : Fields) (s : State) : Out :=
  issued (.vsub f) f s fun e s =>
    e.intArith s (.add true) (modSat f) [f.a, f.b] (fun t => e.addFmt t [f.a, f.b]) fun _ v => arg v 0 - arg v 1

def execVmul (f : Fields) (s : State) : Out :=
  issued (.vmul f) f s fun e s =>
    e.intArith s .mul (modSat f) [f.a, f.b] mulFmt fun _ v => arg v 0 * arg v 1

/-- Bits [2w - 1 : w] of the exact product. -/
def execVmulh (f : Fields) (s : State) : Out :=
  issued (.vmulh f) f s fun e s =>
    e.intArith s .lanewise false [f.a, f.b] mulFmt fun w v => arg v 0 * arg v 1 / (2 ^ w : Nat)

def execVmad (f : Fields) (s : State) : Out :=
  issued (.vmad f) f s fun e s =>
    e.intArith s .lanewise (modSat f) [f.a, f.b, f.c] mulFmt fun _ v => arg v 0 * arg v 1 + arg v 2

def execVabsd (f : Fields) (s : State) : Out :=
  issued (.vabsd f) f s fun e s =>
    e.intArith s .lanewise false [f.a, f.b] (fun t => intFmt (fmtWidth t) false) fun _ v => (arg v 0 - arg v 1).natAbs

def execVmin (f : Fields) (s : State) : Out :=
  issued (.vmin f) f s fun e s => e.intArith s .lanewise false [f.a, f.b] id fun _ v => min (arg v 0) (arg v 1)

def execVmax (f : Fields) (s : State) : Out :=
  issued (.vmax f) f s fun e s => e.intArith s .lanewise false [f.a, f.b] id fun _ v => max (arg v 0) (arg v 1)

def execVabs (f : Fields) (s : State) : Out :=
  issued (.vabs f) f s fun e s => e.intArith s .lanewise (modSat f) [f.a] id fun _ v => (arg v 0).natAbs

def execVneg (f : Fields) (s : State) : Out :=
  issued (.vneg f) f s fun e s => e.intArith s .neg (modSat f) [f.a] id fun _ v => 0 - arg v 0

/-- The format in which a widening instruction reads a source: its own tag, else the operand format (R103). -/
def Env.ownFmt (e : Env) (t : Nat) (x : Src) : Nat := (e.tagOf x).getD t

/-- A widening instruction (R103, R104): A and B of one width, C tagged with the result format or read in it. -/
def Env.widen (e : Env) (s : State) (widths : Nat → Bool) (td : Nat → Bool → Nat)
    (g : (tr : Nat) → (a b c : Nat → Int) → Nat → Int) : State :=
  let t := e.opFmt [e.f.a, e.f.b, e.f.c]
  let ta := e.ownFmt t e.f.a
  let tb := e.ownFmt t e.f.b
  let tr := td (fmtWidth ta) (fmtSigned ta || fmtSigned tb)
  let ok := fmtInt ta && fmtInt tb && fmtWidth ta == fmtWidth tb && widths (fmtWidth ta)
    && (match e.tagOf e.f.c with | some tc => tc == tr | none => true)
  e.check s (e.srcFaults ok [(ta, e.f.a), (tb, e.f.b), (tr, e.f.c)])
    (let ea := e.el s ta e.f.a
     let eb := e.el s tb e.f.b
     let ec := e.el s tr e.f.c
     e.vecDone s latInt tr (e.resultShape s .lanewise tr (nSub tr) true true [e.f.a, e.f.b, e.f.c]) (fun _ => true)
       (fun l j => fitInt tr (modSat e.f)
         (g tr (fun k => toInt ta (ea l k)) (fun k => toInt tb (eb l k)) (fun k => toInt tr (ec l k)) j)) 0)

/-- R103. -/
def execVmadw (f : Fields) (s : State) : Out :=
  issued (.vmadw f) f s fun e s =>
    e.widen s (fun w => w ≤ 32) (fun w sg => intFmt (2 * w) sg) fun tr a b c j =>
      let k := j + (modHi f).toNat * nSub tr
      a k * b k + c j

/-- R104. -/
def execVdot (f : Fields) (s : State) : Out :=
  issued (.vdot f) f s fun e s =>
    let t := e.opFmt [f.a, f.b, f.c]
    let ns := nSub (e.ownFmt t f.a)
    e.widen s (fun w => w ≤ 16) (fun w sg => intFmt (if w == 16 then 64 else 32) sg) fun tr a b c j =>
      let g := ns / nSub tr
      (List.range g).foldl (fun acc k => acc + a (j * g + k) * b (j * g + k)) (c j)

end Sys2Proof.Machine
end

