-- ==== Sys2Proof/Machine/VectorLogic.lean ====
section
/-! DEFINITION. Group 0x3: logic, shifts, compares and moves (R105-R110). -/
namespace Sys2Proof.Machine

/-- R105: every tag but VOID and the reserved codes; class-00 sources of one width. -/
def Env.bitsOk (e : Env) (t : Nat) (xs : List Src) : Bool :=
  fmtCodeOk t && (e.tags xs).all fun u => fmtCodeOk u && fmtWidth u == fmtWidth t

/-- A bitwise instruction (R105): the result takes the first class-00 source's tag, or FMT. -/
def Env.bitwise (e : Env) (s : State) (xs : List Src) (g : Nat → List Nat → Nat) : State :=
  let t := e.opFmt xs
  e.check s (e.vecFault t (e.bitsOk t xs) xs) (e.laneOp s .lanewise t t true xs fun vs => g (fmtWidth t) vs)

def nth (xs : List Nat) (n : Nat) : Nat := xs.getD n 0

def execVand (f : Fields) (s : State) : Out :=
  issued (.vand f) f s fun e s => e.bitwise s [f.a, f.b] fun _ v => nth v 0 &&& nth v 1

def execVor (f : Fields) (s : State) : Out :=
  issued (.vor f) f s fun e s => e.bitwise s [f.a, f.b] fun _ v => nth v 0 ||| nth v 1

def execVxor (f : Fields) (s : State) : Out :=
  issued (.vxor f) f s fun e s => e.bitwise s [f.a, f.b] fun _ v => nth v 0 ^^^ nth v 1

def execVnot (f : Fields) (s : State) : Out :=
  issued (.vnot f) f s fun e s => e.bitwise s [f.a] fun w v => 2 ^ w - 1 - nth v 0

/-- R106: bit by bit, the truth table at a * 4 + b * 2 + c. -/
def lop3 (lut w a b c : Nat) : Nat :=
  (List.range w).foldl (fun acc i =>
    acc + bitsN lut (bitsN a i 1 * 4 + bitsN b i 1 * 2 + bitsN c i 1) 1 * 2 ^ i) 0

def execVlop3 (f : Fields) (s : State) : Out :=
  issued (.vlop3 f) f s fun e s =>
    e.bitwise s [f.a, f.b, f.c] fun w v => lop3 (bitsN (immN f) 0 8) w (nth v 0) (nth v 1) (nth v 2)

/-- A shift of R107: `g w a n` on a w-bit value. -/
def Env.shift (e : Env) (s : State) (rule : ShapeRule) (g : Nat → Nat → Nat → Nat) : State :=
  let xs := [e.f.a, e.f.b]
  let t := e.mixFmt xs
  e.check s (e.vecFault t (e.intOk t xs) xs) (e.laneOp s rule t t false xs fun v => g (fmtWidth t) (nth v 0) (nth v 1))

def execVshl (f : Fields) (s : State) : Out :=
  issued (.vshl f) f s fun e s => e.shift s .shl fun w a n => if n ≥ w then 0 else a * 2 ^ n % 2 ^ w

def execVshr (f : Fields) (s : State) : Out :=
  issued (.vshr f) f s fun e s => e.shift s .lanewise fun w a n => if n ≥ w then 0 else a / 2 ^ n

def execVsra (f : Fields) (s : State) : Out :=
  issued (.vsra f) f s fun e s =>
    e.shift s .lanewise fun w a n => wrapN (sextN a w / (2 ^ (min n w) : Nat)) w

def execVrotl (f : Fields) (s : State) : Out :=
  issued (.vrotl f) f s fun e s =>
    e.shift s .lanewise fun w a n => a * 2 ^ (n % w) % 2 ^ w + a / 2 ^ (w - n % w)

/-- `vbfx` of R107. -/
def bitField (signed : Bool) (w a p len : Nat) : Nat :=
  if len = 0 ∨ w ≤ p then 0
  else
    let l := min len (w - p)
    let x := bitsN a p l
    if signed then wrapN (sextN x l) w else x

def execVbfx (f : Fields) (s : State) : Out :=
  issued (.vbfx f) f s fun e s =>
    let xs := [f.a, f.b, f.c]
    let vs := xs.filter fun x => !isImm x
    let t := e.mixFmt xs
    e.check s (e.vecFault t (e.intOk t xs) (if isImm f.a then xs else vs))
      (let ea := e.el s t f.a
       let eb := e.el s t f.b
       let ec := e.el s t f.c
       e.vecDone s latInt t (e.resultShape s .lanewise t (nSub t) true true xs) (fun _ => true)
         (fun l j => bitField (fmtSigned t) (fmtWidth t) (ea l j)
           (if isImm f.b then bitsN (immN f) 0 8 else eb l j) (if isImm f.c then bitsN (immN f) 8 8 else ec l j)) 0)

/-- `vbfi` of R107. -/
def bitInsert (w a b p len : Nat) : Nat :=
  if len = 0 ∨ w ≤ p then a
  else
    let l := min len (w - p)
    a % 2 ^ p + b % 2 ^ l * 2 ^ p + a / 2 ^ (p + l) * 2 ^ (p + l)

/-- Equal tags of all class-00 sources (R99, R107, R109). -/
def Env.sameTags (e : Env) (xs : List Src) : Bool := (e.tags xs).all fun t => t == (e.tags xs).headD 0

def execVbfi (f : Fields) (s : State) : Out :=
  issued (.vbfi f) f s fun e s =>
    let xs := [f.a, f.b]
    let t := e.opFmt xs
    e.check s (e.vecFault t (fmtIntAddr t && e.sameTags xs) xs)
      (e.laneOp s .lanewise t t true xs fun v =>
        bitInsert (fmtWidth t) (nth v 0) (nth v 1) (bitsN (immN f) 0 8) (bitsN (immN f) 8 8))

/-- `vpopc` and `vclz` give the unsigned format of width w (R107). -/
def Env.count (e : Env) (s : State) (g : Nat → Nat → Nat) : State :=
  let t := e.opFmt [e.f.a]
  e.check s (e.vecFault t (fmtIntAddr t) [e.f.a])
    (e.laneOp s .lanewise t (intFmt (fmtWidth t) false) true [e.f.a] fun v => g (fmtWidth t) (nth v 0))

def execVpopc (f : Fields) (s : State) : Out := issued (.vpopc f) f s fun e s => e.count s popN

def execVclz (f : Fields) (s : State) : Out := issued (.vclz f) f s fun e s => e.count s clzN

/-- R108. -/
def execVcmp (f : Fields) (s : State) : Out :=
  issued (.vcmp f) f s fun e s =>
    let xs := [f.a, f.b]
    let t := e.mixFmt xs
    e.check s (e.vecFault t (e.intOk t xs) xs)
      (let ea := e.el s t f.a
       let eb := e.el s t f.b
       e.cmpDone s latInt (nSub t) (fun l j => intCond (mdN f 16 4) (toInt t (ea l j)) (toInt t (eb l j))) 0)

/-- R109. -/
def execVsel (f : Fields) (s : State) : Out :=
  issued (.vsel f) f s fun e s =>
    let xs := [f.a, f.b]
    let t := e.opFmt xs
    let q := e.q f.e.toNat
    e.check s (e.vecFault t (fmtCodeOk t && e.sameTags xs) xs)
      (let ea := e.el s t f.a
       let eb := e.el s t f.b
       e.vecDone s latInt t .general (fun _ => true)
         (fun l j => if (q.getD l 0).getLsbD j then ea l j else eb l j) 0)

/-- The shape of a move (R110, R249). -/
def Env.moveShape (e : Env) (td : Nat) (x : Src) : Shape :=
  if e.partialWrite (nSub td) then .general
  else match e.shapeOf td x with
    | .affine t => if fmtIntAddr td then .affine t else .general
    | sh => sh

/-- R110: `vmov` writes the sub-elements of A's format: of an L6 register the bits [63:60] of D's lanes stay (DESIGN CHOICE, log
entry 96). -/
def execVmov (f : Fields) (s : State) : Out :=
  issued (.vmov f) f s fun e s =>
    let t := e.opFmt [f.a]
    e.check s (e.vecFault t (fmtCodeOk t) [f.a])
      (let ea := e.el s t f.a
       e.vecDone s latInt t (e.moveShape t f.a) (fun _ => true) ea 0)

/-- R110: `vmovi`. -/
def execVmovi (f : Fields) (s : State) : Out :=
  issued (.vmovi f) f s fun e s =>
    let t := modFmt f
    e.check s (e.vecFault t true [f.a])
      (let ea := e.el s t f.a
       e.vecDone s latInt t (e.moveShape t f.a) (fun _ => true) ea 0)

end Sys2Proof.Machine
end

