-- ==== Sys2Proof/Machine/VectorFloat.lean ====
section
/-! DEFINITION. Group 0x4, float arithmetic (R111-R116). -/
namespace Sys2Proof.Machine

/-- Sources of one tag, of a format that the instruction takes (R99, R111). -/
def Env.floatOk (e : Env) (fmts : Nat → Bool) (t : Nat) (xs : List Src) : Bool := fmts t && e.sameTags xs

/-- An arithmetic instruction of R111. -/
def Env.floatOp (e : Env) (s : State) (fmts : Nat → Bool) (xs : List Src)
    (g : FF → List Nat → Nat × BitVec 5) : State :=
  let t := e.opFmt xs
  e.check s (e.vecFault t (e.floatOk fmts t xs) xs) (e.laneFloat s t t xs (g (ffOf t)))

def execVfadd (f : Fields) (s : State) : Out :=
  issued (.vfadd f) f s fun e s =>
    e.floatOp s fmtFloat16up [f.a, f.b] fun p v =>
      fAdd p (modRnd f) (modSat f) (ffDecode p (nth v 0)) (ffDecode p (nth v 1))

def execVfsub (f : Fields) (s : State) : Out :=
  issued (.vfsub f) f s fun e s =>
    e.floatOp s fmtFloat16up [f.a, f.b] fun p v =>
      fAdd p (modRnd f) (modSat f) (ffDecode p (nth v 0)) (fneg (ffDecode p (nth v 1)))

def execVfmul (f : Fields) (s : State) : Out :=
  issued (.vfmul f) f s fun e s =>
    e.floatOp s fmtFloat16up [f.a, f.b] fun p v =>
      fMul p (modRnd f) (modSat f) (ffDecode p (nth v 0)) (ffDecode p (nth v 1))

def execVfma (f : Fields) (s : State) : Out :=
  issued (.vfma f) f s fun e s =>
    e.floatOp s fmtFloat16up [f.a, f.b, f.c] fun p v =>
      fFma p (modRnd f) (modSat f) (ffDecode p (nth v 0)) (ffDecode p (nth v 1)) (ffDecode p (nth v 2))

def execVfmin (f : Fields) (s : State) : Out :=
  issued (.vfmin f) f s fun e s =>
    e.floatOp s fmtFloat16up [f.a, f.b] fun p v => fMinMax p false (nth v 0) (nth v 1)

def execVfmax (f : Fields) (s : State) : Out :=
  issued (.vfmax f) f s fun e s =>
    e.floatOp s fmtFloat16up [f.a, f.b] fun p v => fMinMax p true (nth v 0) (nth v 1)

/-- R113: `vfmin(vfmax(a, lo), hi)`, and hi where lo lies above hi. -/
def fClamp (p : FF) (a lo hi : Nat) : Nat × BitVec 5 :=
  let x := fMinMax p true a lo
  let y := fMinMax p false x.1 hi
  (y.1, x.2 ||| y.2)

def execVfclamp (f : Fields) (s : State) : Out :=
  issued (.vfclamp f) f s fun e s =>
    e.floatOp s fmtFloat16up [f.a, f.b, f.c] fun p v => fClamp p (nth v 0) (nth v 1) (nth v 2)

/-- The formats of `vfabs`, `vfneg`, `vfcmp` and `vfclass` (R111). -/
def fmtFloatL6 (t : Nat) : Bool := fmtFloat t || t == 0x0E

/-- R112: only the sign bit changes; no flag. -/
def Env.signOp (e : Env) (s : State) (g : Nat → Nat → Nat) : State :=
  let t := e.opFmt [e.f.a]
  e.check s (e.vecFault t (fmtFloatL6 t) [e.f.a])
    (e.laneFloat s t t [e.f.a] fun v => (g (2 ^ (fmtWidth t - 1)) (nth v 0), 0))

def execVfabs (f : Fields) (s : State) : Out := issued (.vfabs f) f s fun e s => e.signOp s fun h x => x % h

def execVfneg (f : Fields) (s : State) : Out :=
  issued (.vfneg f) f s fun e s => e.signOp s fun h x => if x / h % 2 == 1 then x % h else x % h + h

/-- R114. -/
def execVfcmp (f : Fields) (s : State) : Out :=
  issued (.vfcmp f) f s fun e s =>
    let xs := [f.a, f.b]
    let t := e.opFmt xs
    e.check s (e.vecFault t (e.floatOk fmtFloatL6 t xs) xs)
      (let ea := e.el s t f.a
       let eb := e.el s t f.b
       let r (l j : Nat) := floatCond (mdN f 16 4) (fmtValue t (ea l j)) (fmtValue t (eb l j))
       e.cmpDone s latFloat (nSub t) (fun l j => (r l j).1) (e.flagsOf t (fun _ => true) fun l j => (r l j).2))

/-- R115. -/
def execVfclass (f : Fields) (s : State) : Out :=
  issued (.vfclass f) f s fun e s =>
    let t := e.opFmt [f.a]
    e.check s (e.vecFault t (fmtFloatL6 t) [f.a])
      (let ea := e.el s t f.a
       e.cmpDone s latFloat (nSub t) (fun l j => f.imm.getLsbD (classBit t (ea l j))) 0)

/-- The signed integer format of a float format's width (R112). -/
def scaleFmt (t : Nat) : Nat := Sys2Proof.Machine.intFmt (fmtWidth t) true

/-- R112: a * 2^n, formed exactly and rounded once. Exponents beyond every format's range give the same result. -/
def fScale (p : FF) (rnd : Nat) (sat : Bool) (a : FVal) (n : Int) : Nat × BitVec 5 :=
  match a with
  | .nan sg => (ffNan p, if sg then fNV else 0)
  | .inf neg => ffInfSat p sat neg
  | .fin neg m ex => ffRound p rnd sat neg m 1 (ex + max (-20000) (min n 20000))

def execVfscale (f : Fields) (s : State) : Out :=
  issued (.vfscale f) f s fun e s =>
    let t := e.opFmt [f.a]
    let ti := if fmtFloat t then scaleFmt t else 0
    let ok := fmtFloat t && (match e.tagOf f.b with | some u => u == ti | none => true)
    e.check s (e.srcFaults ok [(t, f.a), (ti, f.b)])
      (let ea := e.el s t f.a
       let eb := e.el s ti f.b
       let r (l j : Nat) := fScale (ffOf t) (modRnd f) (modSat f) (ffDecode (ffOf t) (ea l j)) (toInt ti (eb l j))
       e.vecDone s latFloat t (e.resultShape s .lanewise t (nSub t) true true [f.a, f.b]) (fun _ => true)
         (fun l j => (r l j).1) (e.flagsOf t (fun _ => true) fun l j => (r l j).2))

/-- R112: rounded to an integral value; NX when it differs. -/
def fIntegral (p : FF) (rnd : Nat) (sat : Bool) (a : FVal) : Nat × BitVec 5 :=
  match a with
  | .nan sg => (ffNan p, if sg then fNV else 0)
  | .inf neg => ffInfSat p sat neg
  | .fin neg m ex =>
    let r := toIntegral rnd neg m ex
    let y := ffRound p rnd sat neg r.1 1 0
    (y.1, if r.2 then fNX else 0)

def execVfrnd (f : Fields) (s : State) : Out :=
  issued (.vfrnd f) f s fun e s =>
    e.floatOp s fmtFloat16up [f.a] fun p v => fIntegral p (modRnd f) (modSat f) (ffDecode p (nth v 0))

/-- The exact sum of two values, and whether it is the invalid difference of infinities. -/
def vSum (rdn : Bool) (a b : FVal) : FVal × Bool :=
  match a, b with
  | .fin n1 m1 e1, .fin n2 m2 e2 => let r := addExact n1 m1 e1 n2 m2 e2 rdn; (.fin r.1 r.2.1 r.2.2, false)
  | .inf n1, .inf n2 => if n1 == n2 then (.inf n1, false) else (.nan false, true)
  | .inf n1, .fin _ _ _ => (.inf n1, false)
  | .fin _ _ _, .inf n2 => (.inf n2, false)
  | _, _ => (.nan false, false)

/-- R116: a0 b0 + a1 b1 + c with one rounding into F32. -/
def fDot2 (rnd : Nat) (sat : Bool) (a0 b0 a1 b1 c : FVal) : Nat × BitVec 5 :=
  let p := ffF32
  let bad0 := (fMulExact a0 b0).isNone
  let bad1 := (fMulExact a1 b1).isNone
  let ops := [a0, b0, a1, b1, c]
  let x := vSum (rnd == 2) ((fMulExact a0 b0).getD (.nan false)) ((fMulExact a1 b1).getD (.nan false))
  if bad0 || bad1 || x.2 then (ffNan p, fNV)
  else if ops.any isNan then (ffNan p, snanFlag ops)
  else
    let y := vSum (rnd == 2) x.1 c
    if y.2 then (ffNan p, fNV)
    else match y.1 with
      | .fin n m ex => ffRound p rnd sat n m 1 ex
      | .inf n => ffInfSat p sat n
      | .nan _ => (ffNan p, 0)

def execVfdot2 (f : Fields) (s : State) : Out :=
  issued (.vfdot2 f) f s fun e s =>
    let t := e.opFmt [f.a, f.b, f.c]
    let ta := e.ownFmt t f.a
    let tb := e.ownFmt t f.b
    let tr := 0x12
    let pair := t == 0x10 || t == 0x11
    let fmts := pair || t == 0x0C || t == 0x0D
    let ok := fmts && ta == t && tb == t && (match e.tagOf f.c with | some u => u == tr | none => true)
    e.check s (if pair && modHi f then some ILLOP
        else e.srcFaults ok [(t, f.a), (t, f.b), (tr, f.c)])
      (let ea := e.el s t f.a
       let eb := e.el s t f.b
       let ec := e.el s tr f.c
       let r (l j : Nat) :=
         let k := 2 * j + 4 * (modHi f).toNat
         let p := ffOf t
         fDot2 (modRnd f) (modSat f) (ffDecode p (ea l k)) (ffDecode p (eb l k)) (ffDecode p (ea l (k + 1)))
           (ffDecode p (eb l (k + 1))) (ffDecode ffF32 (ec l j))
       e.vecDone s latFloat tr (e.resultShape s .lanewise tr (nSub tr) true true [f.a, f.b, f.c]) (fun _ => true)
         (fun l j => (r l j).1) (e.flagsOf tr (fun _ => true) fun l j => (r l j).2))

end Sys2Proof.Machine
end

