-- ==== Sys2Proof/Machine/VectorConvert.lean ====
section
/-! DEFINITION. Group 0x5: conversion, tags and scales (R117-R125). -/
namespace Sys2Proof.Machine

/-- The formats that `vcvt`, `vpack` and `vunpack` convert: all but SC8 (R118). -/
def fmtConv (t : Nat) : Bool := fmtCodeOk t && t != 0x0F

/-- A converted result: element `j` of lane `l` takes the conversion of source bits `src l j` where `reach j`. -/
def Env.convDone (e : Env) (s : State) (ts td : Nat) (whole : Bool) (reach : Nat → Bool) (src : Nat → Nat → Nat) : State :=
  let r (l j : Nat) := convert ts td (modRnd e.f) (modSat e.f) (src l j)
  e.vecDone s latFloat td (e.resultShape s .lanewise td (nSub td) true whole [e.f.a]) reach
    (fun l j => (r l j).1) (e.flagsOf td reach fun l j => (r l j).2)

/-- R118, R119. -/
def execVcvt (f : Fields) (s : State) : Out :=
  issued (.vcvt f) f s fun e s =>
    let td := modFmt f
    let ts := (e.tagOf f.a).getD td
    let ns := nSub ts
    let nd := nSub td
    let part := bitsN (immN f) 0 4
    let hi := max ns nd
    let lo := min ns nd
    if !(fmtConv ts && fmtConv td) then e.faultAll s FMT
    else if (hi + lo - 1) / lo ≤ part then e.faultAll s FMT
    else
      let ea := e.el s ts f.a
      if nd ≤ ns then
        e.convDone s ts td (part * nd + nd ≤ ns) (fun j => part * nd + j < ns) fun l j => ea l (part * nd + j)
      else
        e.convDone s ts td false (fun j => part * ns ≤ j && j < part * ns + ns) fun l j => ea l (j - part * ns)

/-- R122: the 64 bits of each lane whose guard bit 0 is set, under the tag FMT. The bits are copied as the register holds
them: what L6 hides (R19) is still there for a later `vtag`. Where the guard is not zero but no lane has guard bit 0 set, nothing
is written, the tag and the shape included (DESIGN CHOICE, log entry 83). -/
def execVtag (f : Fields) (s : State) : Out :=
  issued (.vtag f) f s fun e s =>
    let ts := e.opFmt [f.a]
    let td := modFmt f
    let m := e.taking
    e.check s (e.vecFault ts (fmtCodeOk ts) [f.a])
      (let rw := RegWrite.v f.d.toNat (allLanes.map fun l => if m.getLsbD l then BitVec.allOnes 64 else 0)
          (allLanes.map fun l => match f.a with | .v n => (e.v n.toNat).lanes.getD l 0 | _ => 0) (BitVec.ofNat 5 td)
          (e.moveShape td f.a)
       e.done s (if m == 0 then e.w else e.w.fixed latFloat e.free e.paired rw))

def shapeCode : Shape → Nat
  | .general => 0
  | .uniform => 1
  | .affine _ => 2

/-- R123. -/
def execVtagq (f : Fields) (s : State) : Out :=
  issued (.vtagq f) f s fun e s =>
    if e.taking == 0 then e.done s e.w
    else match f.a with
      | .v n =>
        let r := e.v n.toNat
        e.uniDone s latFloat f.d.toNat (BitVec.ofNat 64 (r.tag.toNat + 32 * shapeCode r.shape))
      | _ => e.done s e.w

/-- R120. -/
def execVpack (f : Fields) (s : State) : Out :=
  issued (.vpack f) f s fun e s =>
    let ts := e.opFmt [f.a, f.b]
    let td := modFmt f
    let ns := nSub ts
    let ok := fmtConv ts && fmtConv td && ts != 0x0E && td != 0x0E && e.sameTags [f.a, f.b] && nSub td == 2 * ns
    e.check s (if ok then none else some FMT)
      (let ea := e.el s ts f.a
       let eb := e.el s ts f.b
       let r (l j : Nat) := convert ts td (modRnd f) (modSat f) (if j < ns then ea l j else eb l (j - ns))
       e.vecDone s latFloat td (e.resultShape s .lanewise td (nSub td) true true [f.a, f.b]) (fun _ => true)
         (fun l j => (r l j).1) (e.flagsOf td (fun _ => true) fun l j => (r l j).2))

/-- R121. -/
def execVunpack (f : Fields) (s : State) : Out :=
  issued (.vunpack f) f s fun e s =>
    let ts := e.opFmt [f.a]
    let td := modFmt f
    let nd := nSub td
    let ok := fmtConv ts && fmtConv td && nSub ts == 2 * nd
    e.check s (if ok then none else some FMT)
      (let ea := e.el s ts f.a
       let r (off l j : Nat) := convert ts td (modRnd f) (modSat f) (ea l (j + off))
       let sh := e.resultShape s .lanewise td nd true true [f.a]
       let fl := e.flagsOf td (fun _ => true) (fun l j => (r 0 l j).2 ||| (r nd l j).2)
       let ws := e.vecWrites td [e.vecWrite f.d.toNat td sh (fun _ => true) fun l j => (r 0 l j).1,
         e.vecWrite f.e.toNat td sh (fun _ => true) fun l j => (r nd l j).1]
       e.done s ((ws.foldl (fun w rw => w.fixed latFloat e.free e.paired rw) e.w).raise latFloat fl))

/-- R124. -/
def execVgen (f : Fields) (s : State) : Out :=
  issued (.vgen f) f s fun e s =>
    let t := e.opFmt [f.a]
    e.check s (e.vecFault t (fmtCodeOk t) [f.a])
      (let ea := e.el s t f.a
       e.vecDone s latFloat t .general (fun _ => true) ea 0)

/-- R125: a * T[f] * 2^(i - 31), exact before its one rounding. -/
def fScaleSc8 (p : FF) (rnd : Nat) (sat : Bool) (a : FVal) (k : Int) : Nat × BitVec 5 :=
  match a with
  | .nan sg => (ffNan p, if sg then fNV else 0)
  | .inf neg => ffInfSat p sat neg
  | .fin neg m ex => let c := sc8Factor k; ffRound p rnd sat neg (m * c.1) 1 (ex + c.2)

def execVbsc (f : Fields) (s : State) : Out :=
  issued (.vbsc f) f s fun e s =>
    let t := e.opFmt [f.a]
    let tb := 0x0F
    let ok := fmtFloat t && (match e.tagOf f.b with | some u => u == tb | none => true)
    e.check s (e.srcFaults ok [(t, f.a), (tb, f.b)])
      (let ea := e.el s t f.a
       let eb := e.el s tb f.b
       let r (l j : Nat) := fScaleSc8 (ffOf t) (modRnd f) (modSat f) (ffDecode (ffOf t) (ea l j)) (toInt tb (eb l j))
       e.vecDone s latFloat t (e.resultShape s .lanewise t (nSub t) true true [f.a, f.b]) (fun _ => true)
         (fun l j => (r l j).1) (e.flagsOf t (fun _ => true) fun l j => (r l j).2))

end Sys2Proof.Machine
end

