-- ==== Sys2Proof/Machine/CrossLane.lean ====
section
/-! DEFINITION. Reductions, cross-lane moves and predicate instructions (R42, R43, R139-R149). -/
namespace Sys2Proof.Machine

/-! ### The reduction tree (R42) -/

/-- One level of the tree over the level below, with the flags its nodes raise. -/
def treeUp {α : Type} (g : α → α → α × BitVec 5) : List α → List α × BitVec 5
  | a :: b :: xs =>
    let r := g a b
    let t := treeUp g xs
    (r.1 :: t.1, r.2 ||| t.2)
  | xs => (xs, 0)

/-- The levels of the tree from the leaves up, `n` of them above the leaves, and the flags of all nodes. -/
def treeLevels {α : Type} (g : α → α → α × BitVec 5) : Nat → List α → List (List α) × BitVec 5
  | 0, xs => ([xs], 0)
  | n + 1, xs =>
    let u := treeUp g xs
    let r := treeLevels g n u.1
    (xs :: r.1, u.2 ||| r.2)

/-- The prefix over leaves 0 to c - 1 (R141): the set bits of c from bit `b` down. -/
def prefixOf {α : Type} (g : α → α → α × BitVec 5) (lev : List (List α)) (c : Nat) :
    Nat → Nat → Option (α × BitVec 5) → Option (α × BitVec 5)
  | 0, _, acc => acc
  | b + 1, start, acc =>
    if bitsN c b 1 == 1 then
      let acc := match (lev.getD b [])[start / 2 ^ b]?, acc with
        | some node, none => some (node, 0)
        | some node, some (x, fl) => let r := g x node; some (r.1, fl ||| r.2)
        | none, a => a
      prefixOf g lev c b (start + 2 ^ b) acc
    else prefixOf g lev c b start acc

/-- OPR of R139. -/
def modOpr (f : Fields) : Nat := mdN f 14 4

def isFloatOp (op : Nat) : Bool := 8 ≤ op

/-- The formats of an operation (R139). -/
def oprFmt (op t : Nat) : Bool := if isFloatOp op then fmtFloat t else fmtInt t

/-- Combine two nodes: exact integers, or bits of the float format. -/
def oprStep (op rnd t : Nat) (a b : Int) : Int × BitVec 5 :=
  let w := fmtWidth t
  let bits (g : Nat → Nat → Nat) : Int := toInt t (g (wrapN a w) (wrapN b w))
  let fl (r : Nat × BitVec 5) : Int × BitVec 5 := ((r.1 : Int), r.2)
  match op with
  | 0 => (a + b, 0)
  | 2 => (min a b, 0)
  | 3 => (max a b, 0)
  | 4 => (bits (· &&& ·), 0)
  | 5 => (bits (· ||| ·), 0)
  | 6 => (bits (· ^^^ ·), 0)
  | 8 => fl (fAdd (ffOf t) rnd false (ffDecode (ffOf t) a.toNat) (ffDecode (ffOf t) b.toNat))
  | 9 => fl (fMinMax (ffOf t) false a.toNat b.toNat)
  | _ => fl (fMinMax (ffOf t) true a.toNat b.toNat)

/-- The identities of R42. -/
def oprIdentity (op t : Nat) : Int :=
  let w := fmtWidth t
  match op with
  | 2 => if fmtSigned t then (2 ^ (w - 1) : Nat) - 1 else (2 ^ w : Nat) - 1
  | 3 => if fmtSigned t then -(2 ^ (w - 1) : Nat) else 0
  | 4 => toInt t (2 ^ w - 1)
  | 9 => if (ffOf t).hasInf then (ffInf (ffOf t) false : Nat) else (ffMax (ffOf t) false : Nat)
  | 10 => if (ffOf t).hasInf then (ffInf (ffOf t) true : Nat) else (ffMax (ffOf t) true : Nat)
  | _ => 0

/-- A delivered value (R42): wrapped or saturated once; a float infinity under SAT becomes the largest finite value. E4M3 has no
infinity: a node whose sum overflows there is the NaN that its rounding without SAT gives, also where it is the last one, and is
delivered as that NaN (DESIGN CHOICE, log entry 117: R42 saturates no node, R27 an E4M3 result). -/
def deliver (op t : Nat) (sat : Bool) (x : Int) : Nat × BitVec 5 :=
  if isFloatOp op then
    match ffDecode (ffOf t) x.toNat with
    | .inf neg => if sat then (ffMax (ffOf t) neg, fNX) else (x.toNat, 0)
    | _ => (x.toNat, 0)
  else (fitInt t sat x, 0)

/-- `vred` and `vscan` (R139-R141): `value` gives the delivered value of a leaf position from the tree's levels. -/
def Env.reduce (e : Env) (s : State) (shape : Shape)
    (value : (g : Int → Int → Int × BitVec 5) → List (List Int) → Nat → Nat → Int × BitVec 5) : State :=
  let f := e.f
  let t := e.opFmt [f.a]
  let op := modOpr f
  e.check s (e.vecFault t (oprFmt op t) [f.a])
    (let n := nSub t
     let ea := e.el s t f.a
     let gd := e.guardOf
     let act (l j : Nat) : Bool := e.lanes.getLsbD l && (gd.getD l 0).getLsbD j
     let leaves := allLanes.flatMap fun l => (List.range n).map fun j =>
       if act l j then (if isFloatOp op then (ea l j : Int) else toInt t (ea l j)) else oprIdentity op t
     let g := oprStep op (modRnd f) t
     let tr := treeLevels g (5 + n.log2) leaves
     let any := allLanes.any fun l => (List.range n).any fun j => act l j
     let out (l j : Nat) : Nat × BitVec 5 :=
       let v := value g tr.1 n (l * n + j)
       let d := deliver op t (modSat f) v.1
       (d.1, v.2 ||| d.2)
     let vals := allLanes.map fun l => (List.range n).map (out l)
     let all := allLanes.map fun l =>
       if e.lanes.getLsbD l then packLane t (fun _ => true) (fun j => ((vals.getD l []).getD j (0, 0)).1) else (0, 0)
     let fl := (lanesOf e.lanes).foldl (fun a l => (vals.getD l []).foldl (fun a r => a ||| r.2) a) tr.2
     e.flyDone s
       [.v f.d.toNat (all.map Prod.fst) (all.map Prod.snd) (BitVec.ofNat 5 t) shape,
        e.predWrite f.e.toNat (fun _ => allOnes16) (fun _ => if any then allOnes16 else 0)] fl)

def execVred (f : Fields) (s : State) : Out :=
  issued (.vred f) f s fun e s =>
    e.reduce s .uniform fun _ lev n _ => (((lev.getD (5 + n.log2) []).headD 0), 0)

def execVscan (f : Fields) (s : State) : Out :=
  issued (.vscan f) f s fun e s =>
    let excl := mdB f 4
    e.reduce s .general fun g lev n p =>
      let c := if excl then p else p + 1
      (prefixOf g lev c (6 + n.log2) 0 none).getD (oprIdentity (modOpr f) (e.opFmt [f.a]), 0)

/-! ### Cross-lane moves (R142-R148) -/

/-- A cross-lane move of A: element `j` of lane `l` takes the bits `val a l j`, with `a` reading A in any lane. -/
def Env.move (e : Env) (s : State) (shape : Shape) (ok : Nat → Bool) (xs : List Src)
    (val : (a : Nat → Nat → Nat) → (n l j : Nat) → Nat) : State :=
  let t := e.opFmt [e.f.a]
  e.check s (if !(fmtCodeOk t && ok t) then some FMT else e.valueFaults t (xs.filter fun x => !isImm x))
    (let ea := e.el s t e.f.a
     e.vecDone s latCross t shape (fun _ => true) (val ea (nSub t)) 0)

/-- The control word of `vshfl` (R144). -/
def Env.shflWord (e : Env) (s : State) (l j : Nat) : Nat :=
  match e.f.b with
  | .v n => ((e.v n.toNat).lanes.getD l 0).toNat % 4096
  | .u n => (e.u n.toNat).toNat % 4096
  | .imm => immN e.f
  | .sp c => special s e.w c.toNat l j % 4096

def execVshfl (f : Fields) (s : State) : Out :=
  issued (.vshfl f) f s fun e s =>
    let okB := match e.tagOf f.b with | some t => fmtIntAddr t | none => true
    let mode := mdN f 0 2
    e.move s .general (fun _ => okB) [f.b] fun a n l j =>
      let x := e.shflWord s l j
      let k := x % 32
      let rot := bitsN x 8 4
      let src : Nat :=
        if mode = 0 then k
        else if mode = 1 then (if k ≤ l then l - k else l)
        else if mode = 2 then (if l + k ≤ 31 then l + k else l)
        else l ^^^ k
      a src ((j + rot) % n)

/-- The position operand of `vbcast` and `vrotx`: IMM, or the low 32 bits of the value (R145). -/
def Env.posWord (e : Env) (s : State) (l j : Nat) : Nat :=
  match e.f.b with
  | .u n => (e.u n.toNat).toNat % 2 ^ 32
  | .sp c => special s e.w c.toNat l j % 2 ^ 32
  | _ => immN e.f

/-- `vbcast` by `%lane` or `%tid` reads a position of its own in each lane (R145, R249). -/
def execVbcast (f : Fields) (s : State) : Out :=
  issued (.vbcast f) f s fun e s =>
    let sh := match f.b with | .sp c => if c == 1 || c == 3 then Shape.general else .uniform | _ => .uniform
    e.move s sh (fun _ => true) [f.b] fun a n l j =>
      let p := e.posWord s l j % (32 * n)
      a (p / n) (p % n)

def execVrotx (f : Fields) (s : State) : Out :=
  issued (.vrotx f) f s fun e s =>
    e.move s .general (fun _ => true) [f.b] fun a n l j =>
      let p := (l * n + j + e.posWord s l j) % (32 * n)
      a (p / n) (p % n)

def execVperm (f : Fields) (s : State) : Out :=
  issued (.vperm f) f s fun e s =>
    let tb (t : Nat) : Nat := if nSub t ≤ 8 then 3 else 1
    e.move s .general (fun t => e.tagOf f.b == some (tb t)) [] fun a n l j =>
      let b := match f.b with | .v m => subEl (if n ≤ 8 then 3 else 1) ((e.v m.toNat).lanes.getD l 0) j | _ => 0
      if b < n then a l b else 0

/-- R147. Without a voter D stays, and the mask of BAL is zero; an all-zero guard writes nothing (R46). -/
def execVvote (f : Fields) (s : State) : Out :=
  issued (.vvote f) f s fun e s =>
    let q := match f.a with | .v n => e.q n.toNat | _ => []
    let vs := lanesOf e.taking
    let bit (l : Nat) : Bool := (q.getD l 0).getLsbD 0
    let mode := mdN f 0 2
    let r := if mode = 0 then vs.any bit else if mode = 1 then vs.all bit else vs.all bit || vs.all fun l => !bit l
    let m := e.taking
    let bal := mdB f 2
    if !e.acts 16 then e.done s e.w
    else if bal && e.w.busy f.e.toNat then e.holds s .counter
    else
      let w := e.w.fixed latCross e.free e.paired
        (e.predWrite f.d.toNat (fun l => if m.getLsbD l then allOnes16 else 0) fun _ => if r then allOnes16 else 0)
      e.done s (if bal then w.fixed latCross e.free e.paired (.u f.e.toNat ((maskOf (vs.filter bit)).setWidth 64)) else w)

/-- R148. Without a participant nothing is written, the tag of D included (DESIGN CHOICE, log entry 83). -/
def execVmatch (f : Fields) (s : State) : Out :=
  issued (.vmatch f) f s fun e s =>
    let t := e.opFmt [f.a]
    e.check s (e.vecFault t (fmtCodeOk t) [f.a])
      (let ps := lanesOf e.taking
       let m := e.taking
       let x (l : Nat) : Word := match f.a with | .v n => e.lane64 n.toNat l | _ => 0
       let same (l : Nat) : List Nat := ps.filter fun k => x k == x l
       let val (l : Nat) : Word := BitVec.ofNat 64 ((maskOf (same l)).toNat + (same l).headD 0 * 2 ^ 32)
       if m == 0 then e.done s e.w
       else
         let w := e.w.fixed latCross e.free e.paired
           (.v f.d.toNat (allLanes.map fun l => if m.getLsbD l then BitVec.allOnes 64 else 0) (allLanes.map val) 7 .general)
         e.done s (w.fixed latCross e.free e.paired
           (e.predWrite f.e.toNat (fun l => if m.getLsbD l then allOnes16 else 0)
             fun l => if (same l).length == ps.length then allOnes16 else 0)))

/-! ### Predicate instructions (R149) -/

/-- A predicate instruction: the bits whose guard bits are set take `g` of the sources. -/
def Env.predOp (e : Env) (s : State) (g : Nat → PBits) : State :=
  let gd := e.guardOf
  e.done s (e.w.fixed latInt e.free e.paired (e.predWrite e.f.d.toNat (fun l => gd.getD l 0) g))

/-- A predicate source. -/
def Env.pred (e : Env) (x : Src) : Nat → PBits :=
  match x with
  | .v n => let q := e.q n.toNat; fun l => q.getD l 0
  | .u n => let y := (e.u n.toNat).setWidth 16; fun _ => y
  | _ => fun _ => e.f.imm.setWidth 16

def execPand (f : Fields) (s : State) : Out :=
  issued (.pand f) f s fun e s => e.predOp s fun l => e.pred f.a l &&& e.pred f.b l

def execPor (f : Fields) (s : State) : Out :=
  issued (.por f) f s fun e s => e.predOp s fun l => e.pred f.a l ||| e.pred f.b l

def execPxor (f : Fields) (s : State) : Out :=
  issued (.pxor f) f s fun e s => e.predOp s fun l => e.pred f.a l ^^^ e.pred f.b l

def execPnot (f : Fields) (s : State) : Out :=
  issued (.pnot f) f s fun e s => e.predOp s fun l => ~~~e.pred f.a l

def execPmov (f : Fields) (s : State) : Out := issued (.pmov f) f s fun e s => e.predOp s (e.pred f.a)

/-- `ppopc` writes sD once for the warp, whatever the guards (R149). -/
def execPpopc (f : Fields) (s : State) : Out :=
  issued (.ppopc f) f s fun e s =>
    let gd := e.guardOf
    let n := (lanesOf e.lanes).foldl (fun a l => a + popN 16 (e.pred f.a l &&& gd.getD l 0).toNat) 0
    e.uniDone s latInt f.d.toNat (BitVec.ofNat 64 n)

end Sys2Proof.Machine
end

