-- ==== Sys2Proof/Machine/Transcendental.lean ====
section
/-! DEFINITION. Group 0x6, the CORDIC functions (R128-R137). -/
namespace Sys2Proof.Machine

/-- ITER of R128: code 0 means 24. -/
def iterN (f : Fields) : Nat := if mdN f 10 6 = 0 then 24 else mdN f 10 6

/-- A transcendental instruction: its operands of one tag out of F16, BF16, F32 and F64, its result variable-latency with the
flags raised as it returns (R30, R128-R130). -/
def Env.transc (e : Env) (s : State) (fn : TFun) (b : Option Src) : State :=
  let xs := match b with | some x => [e.f.a, x] | none => [e.f.a]
  let t := e.opFmt [e.f.a]
  e.check s (e.vecFault t (fmtFloat16up t && e.sameTags xs) xs)
    (let p := ffOf t
     let ea := e.el s t e.f.a
     let eb := match b with | some x => e.el s t x | none => ea
     let r (l j : Nat) := tEval fn p (modRnd e.f) (modSat e.f) (iterN e.f) (ffDecode p (ea l j)) (ffDecode p (eb l j))
     e.flyDone s
       (e.vecWrites t [e.vecWrite e.f.d.toNat t (e.resultShape s .lanewise t (nSub t) true true xs) (fun _ => true)
         fun l j => (r l j).1])
       (e.flagsOf t (fun _ => true) fun l j => (r l j).2))

def execVexp2 (f : Fields) (s : State) : Out := issued (.vexp2 f) f s fun e s => e.transc s .exp2 none
def execVexp (f : Fields) (s : State) : Out := issued (.vexp f) f s fun e s => e.transc s .exp none
def execVlog2 (f : Fields) (s : State) : Out := issued (.vlog2 f) f s fun e s => e.transc s .log2 none
def execVln (f : Fields) (s : State) : Out := issued (.vln f) f s fun e s => e.transc s .ln none
def execVsin (f : Fields) (s : State) : Out := issued (.vsin f) f s fun e s => e.transc s .sin none
def execVcos (f : Fields) (s : State) : Out := issued (.vcos f) f s fun e s => e.transc s .cos none
def execVatan2 (f : Fields) (s : State) : Out := issued (.vatan2 f) f s fun e s => e.transc s .atan2 (some f.b)
def execVtanh (f : Fields) (s : State) : Out := issued (.vtanh f) f s fun e s => e.transc s .tanh none
def execVsigm (f : Fields) (s : State) : Out := issued (.vsigm f) f s fun e s => e.transc s .sigm none
def execVsilu (f : Fields) (s : State) : Out := issued (.vsilu f) f s fun e s => e.transc s .silu none
def execVgelu (f : Fields) (s : State) : Out := issued (.vgelu f) f s fun e s => e.transc s .gelu none
def execVsqrt (f : Fields) (s : State) : Out := issued (.vsqrt f) f s fun e s => e.transc s .sqrt none
def execVrsqrt (f : Fields) (s : State) : Out := issued (.vrsqrt f) f s fun e s => e.transc s .rsqrt none
def execVrcp (f : Fields) (s : State) : Out := issued (.vrcp f) f s fun e s => e.transc s .rcp none
def execVdiv (f : Fields) (s : State) : Out := issued (.vdiv f) f s fun e s => e.transc s .div (some f.b)

end Sys2Proof.Machine
end

