-- ==== Sys2Proof/Machine/Dispatch.lean ====
section
/-! DEFINITION. What each instruction and each step of the other agents does: one arm for each constructor. -/
namespace Sys2Proof.Machine

def exec (i : Instr) (s : State) : Host.Outcome State Fault Refusal :=
  match i with
  | .nop f => Sys2Proof.Machine.execNop f s
  | .bra f => Sys2Proof.Machine.execBra f s
  | .brx f => Sys2Proof.Machine.execBrx f s
  | .call f => Sys2Proof.Machine.execCall f s
  | .callx f => Sys2Proof.Machine.execCallx f s
  | .ret f => Sys2Proof.Machine.execRet f s
  | .exit f => Sys2Proof.Machine.execExit f s
  | .reform f => Sys2Proof.Machine.execReform f s
  | .yield f => Sys2Proof.Machine.execYield f s
  | .sleep f => Sys2Proof.Machine.execSleep f s
  | .trap f => Sys2Proof.Machine.execTrap f s
  | .brk f => Sys2Proof.Machine.execBrk f s
  | .sadd f => Sys2Proof.Machine.execSadd f s
  | .ssub f => Sys2Proof.Machine.execSsub f s
  | .smul f => Sys2Proof.Machine.execSmul f s
  | .smulh f => Sys2Proof.Machine.execSmulh f s
  | .sdiv f => Sys2Proof.Machine.execSdiv f s
  | .srem f => Sys2Proof.Machine.execSrem f s
  | .smin f => Sys2Proof.Machine.execSmin f s
  | .smax f => Sys2Proof.Machine.execSmax f s
  | .sand f => Sys2Proof.Machine.execSand f s
  | .sor f => Sys2Proof.Machine.execSor f s
  | .sxor f => Sys2Proof.Machine.execSxor f s
  | .sshl f => Sys2Proof.Machine.execSshl f s
  | .sshr f => Sys2Proof.Machine.execSshr f s
  | .ssra f => Sys2Proof.Machine.execSsra f s
  | .smov f => Sys2Proof.Machine.execSmov f s
  | .smovh f => Sys2Proof.Machine.execSmovh f s
  | .scmp f => Sys2Proof.Machine.execScmp f s
  | .ssel f => Sys2Proof.Machine.execSsel f s
  | .sbfx f => Sys2Proof.Machine.execSbfx f s
  | .spopc f => Sys2Proof.Machine.execSpopc f s
  | .sclz f => Sys2Proof.Machine.execSclz f s
  | .vadd f => Sys2Proof.Machine.execVadd f s
  | .vsub f => Sys2Proof.Machine.execVsub f s
  | .vmul f => Sys2Proof.Machine.execVmul f s
  | .vmulh f => Sys2Proof.Machine.execVmulh f s
  | .vmad f => Sys2Proof.Machine.execVmad f s
  | .vmadw f => Sys2Proof.Machine.execVmadw f s
  | .vdot f => Sys2Proof.Machine.execVdot f s
  | .vabsd f => Sys2Proof.Machine.execVabsd f s
  | .vmin f => Sys2Proof.Machine.execVmin f s
  | .vmax f => Sys2Proof.Machine.execVmax f s
  | .vabs f => Sys2Proof.Machine.execVabs f s
  | .vneg f => Sys2Proof.Machine.execVneg f s
  | .vand f => Sys2Proof.Machine.execVand f s
  | .vor f => Sys2Proof.Machine.execVor f s
  | .vxor f => Sys2Proof.Machine.execVxor f s
  | .vnot f => Sys2Proof.Machine.execVnot f s
  | .vlop3 f => Sys2Proof.Machine.execVlop3 f s
  | .vshl f => Sys2Proof.Machine.execVshl f s
  | .vshr f => Sys2Proof.Machine.execVshr f s
  | .vsra f => Sys2Proof.Machine.execVsra f s
  | .vrotl f => Sys2Proof.Machine.execVrotl f s
  | .vbfx f => Sys2Proof.Machine.execVbfx f s
  | .vbfi f => Sys2Proof.Machine.execVbfi f s
  | .vpopc f => Sys2Proof.Machine.execVpopc f s
  | .vclz f => Sys2Proof.Machine.execVclz f s
  | .vcmp f => Sys2Proof.Machine.execVcmp f s
  | .vsel f => Sys2Proof.Machine.execVsel f s
  | .vmov f => Sys2Proof.Machine.execVmov f s
  | .vmovi f => Sys2Proof.Machine.execVmovi f s
  | .vfadd f => Sys2Proof.Machine.execVfadd f s
  | .vfsub f => Sys2Proof.Machine.execVfsub f s
  | .vfmul f => Sys2Proof.Machine.execVfmul f s
  | .vfma f => Sys2Proof.Machine.execVfma f s
  | .vfmin f => Sys2Proof.Machine.execVfmin f s
  | .vfmax f => Sys2Proof.Machine.execVfmax f s
  | .vfabs f => Sys2Proof.Machine.execVfabs f s
  | .vfneg f => Sys2Proof.Machine.execVfneg f s
  | .vfcmp f => Sys2Proof.Machine.execVfcmp f s
  | .vfclass f => Sys2Proof.Machine.execVfclass f s
  | .vfscale f => Sys2Proof.Machine.execVfscale f s
  | .vfrnd f => Sys2Proof.Machine.execVfrnd f s
  | .vfclamp f => Sys2Proof.Machine.execVfclamp f s
  | .vfdot2 f => Sys2Proof.Machine.execVfdot2 f s
  | .vcvt f => Sys2Proof.Machine.execVcvt f s
  | .vtag f => Sys2Proof.Machine.execVtag f s
  | .vtagq f => Sys2Proof.Machine.execVtagq f s
  | .vpack f => Sys2Proof.Machine.execVpack f s
  | .vunpack f => Sys2Proof.Machine.execVunpack f s
  | .vgen f => Sys2Proof.Machine.execVgen f s
  | .vbsc f => Sys2Proof.Machine.execVbsc f s
  | .vexp2 f => Sys2Proof.Machine.execVexp2 f s
  | .vexp f => Sys2Proof.Machine.execVexp f s
  | .vlog2 f => Sys2Proof.Machine.execVlog2 f s
  | .vln f => Sys2Proof.Machine.execVln f s
  | .vsin f => Sys2Proof.Machine.execVsin f s
  | .vcos f => Sys2Proof.Machine.execVcos f s
  | .vatan2 f => Sys2Proof.Machine.execVatan2 f s
  | .vtanh f => Sys2Proof.Machine.execVtanh f s
  | .vsigm f => Sys2Proof.Machine.execVsigm f s
  | .vsilu f => Sys2Proof.Machine.execVsilu f s
  | .vgelu f => Sys2Proof.Machine.execVgelu f s
  | .vsqrt f => Sys2Proof.Machine.execVsqrt f s
  | .vrsqrt f => Sys2Proof.Machine.execVrsqrt f s
  | .vrcp f => Sys2Proof.Machine.execVrcp f s
  | .vdiv f => Sys2Proof.Machine.execVdiv f s
  | .vred f => Sys2Proof.Machine.execVred f s
  | .vscan f => Sys2Proof.Machine.execVscan f s
  | .vshfl f => Sys2Proof.Machine.execVshfl f s
  | .vbcast f => Sys2Proof.Machine.execVbcast f s
  | .vperm f => Sys2Proof.Machine.execVperm f s
  | .vrotx f => Sys2Proof.Machine.execVrotx f s
  | .vvote f => Sys2Proof.Machine.execVvote f s
  | .vmatch f => Sys2Proof.Machine.execVmatch f s
  | .pand f => Sys2Proof.Machine.execPand f s
  | .por f => Sys2Proof.Machine.execPor f s
  | .pxor f => Sys2Proof.Machine.execPxor f s
  | .pnot f => Sys2Proof.Machine.execPnot f s
  | .pmov f => Sys2Proof.Machine.execPmov f s
  | .ppopc f => Sys2Proof.Machine.execPpopc f s
  | .ld f => Sys2Proof.Machine.execLd f s
  | .st f => Sys2Proof.Machine.execSt f s
  | .ldb f => Sys2Proof.Machine.execLdb f s
  | .stb f => Sys2Proof.Machine.execStb f s
  | .ldu f => Sys2Proof.Machine.execLdu f s
  | .stu f => Sys2Proof.Machine.execStu f s
  | .ldnf f => Sys2Proof.Machine.execLdnf f s
  | .pf f => Sys2Proof.Machine.execPf f s
  | .cflu f => Sys2Proof.Machine.execCflu f s
  | .cinv f => Sys2Proof.Machine.execCinv f s
  | .atom f => Sys2Proof.Machine.execAtom f s
  | .acas f => Sys2Proof.Machine.execAcas f s
  | .red f => Sys2Proof.Machine.execRed f s
  | .atomu f => Sys2Proof.Machine.execAtomu f s
  | .acasu f => Sys2Proof.Machine.execAcasu f s
  | .fence f => Sys2Proof.Machine.execFence f s
  | .tdef f => Sys2Proof.Machine.execTdef f s
  | .tacq f => Sys2Proof.Machine.execTacq f s
  | .trdy f => Sys2Proof.Machine.execTrdy f s
  | .trel f => Sys2Proof.Machine.execTrel f s
  | .tstat f => Sys2Proof.Machine.execTstat f s
  | .acopyIn f => Sys2Proof.Machine.execAcopyIn f s
  | .acopyOut f => Sys2Proof.Machine.execAcopyOut f s
  | .acopygIn f => Sys2Proof.Machine.execAcopygIn f s
  | .acopygOut f => Sys2Proof.Machine.execAcopygOut f s
  | .waitz f => Sys2Proof.Machine.execWaitz f s
  | .apf f => Sys2Proof.Machine.execApf f s
  | .aev f => Sys2Proof.Machine.execAev f s
  | .shopen f => Sys2Proof.Machine.execShopen f s
  | .publ f => Sys2Proof.Machine.execPubl f s
  | .kvsum f => Sys2Proof.Machine.execKvsum f s
  | .mcfg f => Sys2Proof.Machine.execMcfg f s
  | .mldw f => Sys2Proof.Machine.execMldw f s
  | .mswap f => Sys2Proof.Machine.execMswap f s
  | .mmul f => Sys2Proof.Machine.execMmul f s
  | .mzero f => Sys2Proof.Machine.execMzero f s
  | .mrsum f => Sys2Proof.Machine.execMrsum f s
  | .mcsum f => Sys2Proof.Machine.execMcsum f s
  | .mload f => Sys2Proof.Machine.execMload f s
  | .mdrain f => Sys2Proof.Machine.execMdrain f s
  | .smxi f => Sys2Proof.Machine.execSmxi f s
  | .smxu f => Sys2Proof.Machine.execSmxu f s
  | .smxm f => Sys2Proof.Machine.execSmxm f s
  | .smxf f => Sys2Proof.Machine.execSmxf f s
  | .smxs f => Sys2Proof.Machine.execSmxs f s
  | .smxl f => Sys2Proof.Machine.execSmxl f s
  | .attn f => Sys2Proof.Machine.execAttn f s
  | .conftTop f => Sys2Proof.Machine.execConftTop f s
  | .conftMrg f => Sys2Proof.Machine.execConftMrg f s
  | .bfq f => Sys2Proof.Machine.execBfq f s
  | .bar f => Sys2Proof.Machine.execBar f s
  | .barm f => Sys2Proof.Machine.execBarm f s
  | .barv f => Sys2Proof.Machine.execBarv f s
  | .wait f => Sys2Proof.Machine.execWait f s
  | .launch f => Sys2Proof.Machine.execLaunch f s
  | .migrate f => Sys2Proof.Machine.execMigrate f s
  | .regdon f => Sys2Proof.Machine.execRegdon f s
  | .pgrant f => Sys2Proof.Machine.execPgrant f s
  | .trapret f => Sys2Proof.Machine.execTrapret f s
  | .trapretSkip f => Sys2Proof.Machine.execTrapretSkip f s
  | .trapretKill f => Sys2Proof.Machine.execTrapretKill f s
  | .csrr f => Sys2Proof.Machine.execCsrr f s
  | .csrw f => Sys2Proof.Machine.execCsrw f s
  | .tlbinvAddr f => Sys2Proof.Machine.execTlbinvAddr f s
  | .tlbinvAsid f => Sys2Proof.Machine.execTlbinvAsid f s
  | .tlbinvAll f => Sys2Proof.Machine.execTlbinvAll f s
  | .pgref f => Sys2Proof.Machine.execPgref f s
  | .ptw f => Sys2Proof.Machine.execPtw f s
  | .vsave f => Sys2Proof.Machine.execVsave f s
  | .vrest f => Sys2Proof.Machine.execVrest f s
  | .accsv f => Sys2Proof.Machine.execAccsv f s
  | .accrs f => Sys2Proof.Machine.execAccrs f s
  | .tsv f => Sys2Proof.Machine.execTsv f s
  | .trs f => Sys2Proof.Machine.execTrs f s
  | .pcsv f => Sys2Proof.Machine.execPcsv f s
  | .pcrs f => Sys2Proof.Machine.execPcrs f s
  | .lnkq f => Sys2Proof.Machine.execLnkq f s
  | .halt f => Sys2Proof.Machine.execHalt f s
  | .delayExpiry w => Sys2Proof.Machine.execDelayExpiry w s
  | .sleepExpiry w lanes => Sys2Proof.Machine.execSleepExpiry w lanes s
  | .starvationCount w => Sys2Proof.Machine.execStarvationCount w s
  | .resultReturn w idx => Sys2Proof.Machine.execResultReturn w idx s
  | .hoopAge core hoop => Sys2Proof.Machine.execHoopAge core hoop s
  | .hoopDraw core hoop => Sys2Proof.Machine.execHoopDraw core hoop s
  | .swapOut gid => Sys2Proof.Machine.execSwapOut gid s
  | .swapIn gid => Sys2Proof.Machine.execSwapIn gid s
  | .migrateLand w => Sys2Proof.Machine.execMigrateLand w s
  | .waitRecheck w => Sys2Proof.Machine.execWaitRecheck w s
  | .copyInLanded id => Sys2Proof.Machine.execCopyInLanded id s
  | .copyOutAccepted id => Sys2Proof.Machine.execCopyOutAccepted id s
  | .capCopyComplete id => Sys2Proof.Machine.execCapCopyComplete id s
  | .matrixComplete gid idx => Sys2Proof.Machine.execMatrixComplete gid idx s
  | .matrixFetchFault gid idx => Sys2Proof.Machine.execMatrixFetchFault gid idx s
  | .pageWalk core asid ptbase va => Sys2Proof.Machine.execPageWalk core asid ptbase va s
  | .intake pkg => Sys2Proof.Machine.execIntake pkg s
  | .lctailAppend pkg chain val => Sys2Proof.Machine.execLctailAppend pkg chain val s
  | .lcheadRetry pkg chain val => Sys2Proof.Machine.execLcheadRetry pkg chain val s
  | .lcheadDropOne pkg chain val => Sys2Proof.Machine.execLcheadDropOne pkg chain val s
  | .lcheadDropAll pkg chain val => Sys2Proof.Machine.execLcheadDropAll pkg chain val s
  | .dispatch pkg => Sys2Proof.Machine.execDispatch pkg s
  | .stagingComplete gid wg => Sys2Proof.Machine.execStagingComplete gid wg s
  | .launchComplete lid => Sys2Proof.Machine.execLaunchComplete lid s
  | .bucketRefill pkg => Sys2Proof.Machine.execBucketRefill pkg s
  | .preempt gid => Sys2Proof.Machine.execPreempt gid s
  | .migratedWarpReturn w => Sys2Proof.Machine.execMigratedWarpReturn w s
  | .preEmpted gid => Sys2Proof.Machine.execPreEmpted gid s
  | .hardwareSave gid => Sys2Proof.Machine.execHardwareSave gid s
  | .programFaultDelivery w => Sys2Proof.Machine.execProgramFaultDelivery w s
  | .workgroupFaultEnd gid => Sys2Proof.Machine.execWorkgroupFaultEnd gid s
  | .serviceRingPost die => Sys2Proof.Machine.execServiceRingPost die s
  | .storeError pkg err => Sys2Proof.Machine.execStoreError pkg err s
  | .powerWindow die => Sys2Proof.Machine.execPowerWindow die s
  | .thermalThrottle die celsius => Sys2Proof.Machine.execThermalThrottle die celsius s
  | .pwrctlWrite pkg val => Sys2Proof.Machine.execPwrctlWrite pkg val s
  | .flitReceive link atB flit noise badLanes => Sys2Proof.Machine.execFlitReceive link atB flit noise badLanes s
  | .nak link atB seq => Sys2Proof.Machine.execNak link atB seq s
  | .laneRetire link lane => Sys2Proof.Machine.execLaneRetire link lane s
  | .rateFallback link => Sys2Proof.Machine.execRateFallback link s
  | .lnkctlRetrain link val => Sys2Proof.Machine.execLnkctlRetrain link val s
  | .trainingAttempt link pass => Sys2Proof.Machine.execTrainingAttempt link pass s
  | .hbmTemperature die stk celsius laneFault => Sys2Proof.Machine.execHbmTemperature die stk celsius laneFault s
  | .hbmWidthChange die stk chan => Sys2Proof.Machine.execHbmWidthChange die stk chan s
  | .fabricPacketReceive pkg pkt how => Sys2Proof.Machine.execFabricPacketReceive pkg pkt how s
  | .fabricResend pkg dst kind seq => Sys2Proof.Machine.execFabricResend pkg dst kind seq s
  | .readMiss die line => Sys2Proof.Machine.execReadMiss die line s
  | .writeGrant die line asid dup => Sys2Proof.Machine.execWriteGrant die line asid dup s
  | .injectionOffer pkg src gpn => Sys2Proof.Machine.execInjectionOffer pkg src gpn s
  | .l2WriteBack die line => Sys2Proof.Machine.execL2WriteBack die line s
  | .firstWriteRetry w => Sys2Proof.Machine.execFirstWriteRetry w s
  | .amopDiscard pkg gpn => Sys2Proof.Machine.execAmopDiscard pkg gpn s
  | .amopPin pkg gpn => Sys2Proof.Machine.execAmopPin pkg gpn s
  | .amopUnpin pkg gpn => Sys2Proof.Machine.execAmopUnpin pkg gpn s
  | .amopLost pkg lost => Sys2Proof.Machine.execAmopLost pkg lost s
  | .dieReset die => Sys2Proof.Machine.execDieReset die s
  | .snpinv die addr => Sys2Proof.Machine.execSnpinv die addr s
  | .snpdata die addr => Sys2Proof.Machine.execSnpdata die addr s
  | .hostRead host pkg addr len => Sys2Proof.Machine.execHostRead host pkg addr len s
  | .hostWrite host pkg addr bytes => Sys2Proof.Machine.execHostWrite host pkg addr bytes s
  | .biasopToDevice pkg gpn => Sys2Proof.Machine.execBiasopToDevice pkg gpn s
  | .biasopToHost pkg host gpn => Sys2Proof.Machine.execBiasopToHost pkg host gpn s
  | .backfillAccept pkg => Sys2Proof.Machine.execBackfillAccept pkg s
  | .batchAge pkg => Sys2Proof.Machine.execBatchAge pkg s
  | .batchEmit pkg => Sys2Proof.Machine.execBatchEmit pkg s
  | .bfcfgWrite pkg val => Sys2Proof.Machine.execBfcfgWrite pkg val s
  | .scrubCheck die => Sys2Proof.Machine.execScrubCheck die s
  | .alarm pkg sources => Sys2Proof.Machine.execAlarm pkg sources s
  | .alarmcfgWrite pkg val => Sys2Proof.Machine.execAlarmcfgWrite pkg val s
  | .attcmd pkg => Sys2Proof.Machine.execAttcmd pkg s
  | .counterEvent core idx => Sys2Proof.Machine.execCounterEvent core idx s
  | .cntvalWrite core idx val => Sys2Proof.Machine.execCntvalWrite core idx val s
  | .bringUp cfg => Sys2Proof.Machine.execBringUp cfg s
  | .registerWrite pkg page off size val => Sys2Proof.Machine.execRegisterWrite pkg page off size val s
  | .fabricPortLinkChange pkg port up => Sys2Proof.Machine.execFabricPortLinkChange pkg port up s
  | .dieLeavesReset die => Sys2Proof.Machine.execDieLeavesReset die s
  | .powerLoss pkg => Sys2Proof.Machine.execPowerLoss pkg s

end Sys2Proof.Machine
end

