-- ==== Sys2Proof/Machine/Step.lean ====
section
/-! DEFINITION. One step of the pod: one agent moves. The agenda says which; where it says nothing the default order does. -/
namespace Sys2Proof.Machine

/-- Run what a selection has begun. An instruction at PC1 that a decode check faults has not issued (R241). -/
def runBegun (s : State) (b : Begun) : Out :=
  match b with
  | .idle => .next s
  | .finished t => .next { t with cur := none }
  | .run i t =>
    match t.cur, exec i t with
    | some c, .next u =>
      if c.paired && u.pairRefused i c then .next (s.modWarp c.key fun w => { w with pair := none })
      else .next (u.issueDone t i)
    | _, o => o

/-- Part of an agent's work. A `kvsum` that is named with a sector past the page's last has its sum (R341). -/
def State.moves (s : State) : Mover → State
  | .copy id i m => s.copyMove id i m
  | .engine id i m => s.engineMove id i m
  | .matByte gid idx n => s.matByte gid idx n
  | .matSector gid idx k => s.matSector gid idx k
  | .occupancy gid idx => s.occupancyEnd gid idx
  | .publish id => s.publishStep id
  | .ksum id i => if i < 2048 then s.ksumMove id i else s.ksumEnd id
  | .records gid idx i m => s.recordsMove gid idx i m
  | .walk gid idx n => s.walkMove gid idx n

/-- One agent moves. -/
def perform (s : State) (p : Pick) : Out :=
  match p with
  | .issue key => runBegun s (s.beginIssue key)
  | .pair key => runBegun s (s.beginPair key)
  | .offer key pc => .next (s.offerAt key pc)
  | .event i => if (opSpec i).isNone then exec i s else .next s
  | .count core idx => .next (s.countEvent core idx)
  | .move m => .next (s.moves m)

/-- After every move, swapped units whose change has come are due (R258). -/
def latched : Out → Out
  | .next s => .next s.latchDue
  | o => o

/-- One step. -/
def step (s : State) : Out :=
  latched <| match s.agenda with
    | p :: rest => perform { s with agenda := rest } p
    | [] =>
      match s.default with
      | .pick p => perform s.nextTurn p
      | .state t => .next t.nextTurn

/-- The state with an instruction word at the program counter of a unit placed for it, which the next step runs. -/
def State.withFetchWord (s : State) (nbits w : Nat) : State :=
  { s.placed (wordBytes (BitVec.ofNat 128 w)) with agenda := [.issue (benchKey (decodeTableWord nbits w))] }

end Sys2Proof.Machine
end

