-- ==== Sys2Proof/Safety.lean ====
section
/-! DEFINITION. What a safe run is, and the vocabulary in which the statements about the machine are written: an issue whose
decode checks have passed, the state that an issue leaves, and what it leaves of registers, lanes and memory. -/
namespace Sys2Proof.Machine

/-! ### Runs -/

/-- One step of the machine leads to a next state. -/
def Steps (s t : State) : Prop := step s = .next t

/-- A run that never stops with a fault or a refusal of the model. -/
def SafeFrom (s : State) : Prop := ∀ n, ∃ r : Nat → State, r 0 = s ∧ ∀ k < n, Steps (r k) (r (k + 1))

/-- The invariant of memory: addresses strictly rising, no cell equal to what an unlisted address reads as. -/
def State.memOk (s : State) : Prop := Memory.wf s.mem = true

/-! ### Issues -/

/-- An agent issues `i`, with the fields `f`, in `s`, and the checks of R67 that its word and its agent decide have passed:
`e` is what the meaning reads, `s1` the state in which the issue's cycle has passed for the warp. -/
def Issues (s : State) (i : Instr) (f : Fields) (e : Env) (s1 : State) : Prop :=
  ∃ c w, s.cur = some c ∧ aget s.warps c.key = some w ∧ decodeFault w i f = none ∧
    e = s.issueEnv c w f ∧ s1 = s.issueBase c w

/-- The same, where check `code` of R67 fails. -/
def IssuesBadly (s : State) (i : Instr) (f : Fields) (code : Nat) (e : Env) (s1 : State) : Prop :=
  ∃ c w, s.cur = some c ∧ aget s.warps c.key = some w ∧ decodeFault w i f = some code ∧
    e = s.issueEnv c w f ∧ s1 = s.issueBase c w

/-- The state after an issue: in `s` only the issuing warp changes, to `w'`, and no instruction is being issued. -/
def Env.after (e : Env) (s : State) (w' : Warp) : State := { s.setWarp e.key w' with cur := none }

/-- The same with a fresh number used for an outstanding result. -/
def Env.afterFly (e : Env) (s : State) (w' : Warp) : State := e.after { s with nextId := s.nextId + 1 } w'

/-- The outstanding results of a warp: number, flags and register writes. -/
def Warp.pending (w : Warp) : List (Nat × BitVec 5 × List RegWrite) :=
  w.flights.map fun g => (g.id, g.flags, g.writes.map Prod.fst)

/-- `w'` is the issuing warp after an issue: the delay and the switch marker are as the word says (R47), and nothing but the
lanes, the register files and what is outstanding may differ from before. -/
def Env.Settled (e : Env) (w' : Warp) : Prop :=
  w' = { e.w with
    lanes := w'.lanes, vregs := w'.vregs, uregs := w'.uregs, preds := w'.preds, bound := w'.bound,
    recent := w'.recent, flights := w'.flights,
    dly := if e.paired then max e.w.dly e.f.dly.toNat else e.f.dly.toNat,
    swPark := if e.f.sw then !w'.flights.isEmpty else e.w.swPark }

/-- The issuing lanes in RUN change by `g`; every other lane stays as it is. -/
def Env.LanesGo (e : Env) (w' : Warp) (g : Nat → Lane → Lane) : Prop :=
  w'.lanes.length = e.w.lanes.length ∧
    ∀ l x, e.w.lanes[l]? = some x → w'.lanes[l]? = some (if e.lanes.getLsbD l && x.isRun then g l x else x)

/-- The issuing lanes move to the next word (R77). -/
def Env.Advanced (e : Env) (w' : Warp) : Prop := e.LanesGo w' fun _ x => { x with pc := x.pc + 16 }

/-- No register changes. -/
def Env.SameRegs (e : Env) (w' : Warp) : Prop :=
  w'.vregs = e.w.vregs ∧ w'.uregs = e.w.uregs ∧ w'.preds = e.w.preds ∧ w'.bound = e.w.bound

/-- No result is outstanding that was not, and the float flags `fl` are raised. -/
def Env.Raised (e : Env) (w' : Warp) (fl : BitVec 5) : Prop :=
  w'.pending = e.w.pending ∧ w'.allFlags = e.w.allFlags ||| fl

/-- The issue leaves one more outstanding result: the writes `ws` with the flags `fl`. -/
def Env.Flies (e : Env) (s1 : State) (w' : Warp) (ws : List RegWrite) (fl : BitVec 5) : Prop :=
  w'.pending = e.w.pending ++ [(s1.nextId, fl, ws.filter fun rw => !rw.nothing)] ∧ w'.allFlags = e.w.allFlags

/-- The instruction that issued at PC0 in the same cycle writes this register too, at once or as a result that is still
outstanding (R246). -/
def Env.Collides (e : Env) (name : Nat × Nat) : Prop :=
  e.paired = true ∧ ((∃ r ∈ e.w.recent, r.born = e.w.clk ∧ r.old.name = name) ∨
    ∃ g ∈ e.w.flights, g.born = e.w.clk ∧ ∃ p ∈ g.writes, p.1.name = name)

/-! ### Results -/

/-- Uniform register `d` is written, alone: it holds `x`, or what PC0 wrote in the same cycle (R246); a binding as a
completion counter ends (R56). -/
def Env.WritesU (e : Env) (w' : Warp) (d : Nat) (x : Word) : Prop :=
  w'.vregs = e.w.vregs ∧ w'.preds = e.w.preds ∧ w'.bound = adel e.w.bound d ∧
    (w'.uregs = e.w.uregs.set d x ∨ (e.Collides (1, d) ∧ w'.uregs = e.w.uregs))

/-- Lane `l` holds the bits of `x` where `act l j`, sub-element by sub-element of format `t`, and elsewhere what it held. -/
def SubWritten (t : Nat) (act : Nat → Nat → Bool) (x : Nat → Nat → Nat) (r r' : VReg) : Prop :=
  ∀ l old, l < 32 → r.lanes[l]? = some old →
    ∃ new, r'.lanes[l]? = some new ∧
      ∀ j < nSub t, subEl t new j = if act l j then x l j % 2 ^ fmtWidth t else subEl t old j

/-- The active sub-elements of an instruction: those of issuing lanes whose guard bit is set (R46, R96). -/
def Env.active (e : Env) (l j : Nat) : Bool := e.lanes.getLsbD l && (e.guard l).getLsbD j

/-- Some sub-element is active among the first `n` of a lane. -/
def Env.someActive (e : Env) (n : Nat) : Prop := ∃ l < 32, ∃ j < n, e.active l j = true

/-- Vector register `d`, which held `r`, holds `r'`: where no sub-element is active that is `r`, tag and all; else it has the tag
`td`, the shape `sh`, and the values `x` in those active sub-elements that the instruction reaches, which `act` names (R19, R46,
R60, R96). Where PC0 writes the register in the same cycle it may hold PC0's value (R246). -/
def Env.VRegIs (e : Env) (d td : Nat) (sh : Shape) (act : Nat → Nat → Bool) (x : Nat → Nat → Nat) (r r' : VReg) : Prop :=
  ¬ e.Collides (0, d) →
    (¬ e.someActive (nSub td) → r' = r) ∧
    (e.someActive (nSub td) → r'.tag = BitVec.ofNat 5 td ∧ r'.shape = sh ∧ SubWritten td act x r r')

/-- Vector register `d` is written, alone. -/
def Env.WritesV (e : Env) (w' : Warp) (d td : Nat) (sh : Shape) (act : Nat → Nat → Bool) (x : Nat → Nat → Nat) : Prop :=
  w'.uregs = e.w.uregs ∧ w'.preds = e.w.preds ∧ w'.bound = e.w.bound ∧
    ∃ r r', e.w.vregs[d]? = some r ∧ w'.vregs = e.w.vregs.set d r' ∧ e.VRegIs d td sh act x r r'

/-- Predicate `d` is written, alone: bits `mask l` of lane `l` take those of `x l`; a write to `q0` is discarded (R57). -/
def Env.WritesQ (e : Env) (w' : Warp) (d : Nat) (mask x : Nat → PBits) : Prop :=
  w'.vregs = e.w.vregs ∧ w'.uregs = e.w.uregs ∧ w'.bound = e.w.bound ∧
    (d = 0 → w'.preds = e.w.preds) ∧
    (∀ k, k ≠ d → w'.preds[k]? = e.w.preds[k]?) ∧
    (¬ e.Collides (2, d) → d ≠ 0 → ∀ q, e.w.preds[d]? = some q →
      ∃ q', w'.preds[d]? = some q' ∧
        ∀ l b, l < 32 → q[l]? = some b →
          q'[l]? = some (if e.lanes.getLsbD l then (b &&& ~~~(mask l)) ||| (x l &&& mask l) else b))

/-! ### Memory -/

/-- Every byte of memory outside the listed keys reads as before. -/
def SameBytesBut (s t : State) (keys : List Nat) : Prop := ∀ k, k ∉ keys → memGet t.mem k = memGet s.mem k

/-- Every byte of memory reads as before. -/
def SameBytes (s t : State) : Prop := ∀ k, memGet t.mem k = memGet s.mem k

/-- No warp but the named one changes. -/
def OtherWarps (s t : State) (key : Nat) : Prop := ∀ k, k ≠ key → aget t.warps k = aget s.warps k

/-- What a meaning reads once the results that its instruction waits for have returned (R47). -/
def Env.waited (e : Env) : Env := { e with w := e.w.ordered }

/-- The formats in which a widening instruction reads A and B, and its result format (R103, R104). -/
def Env.wideA (e : Env) : Nat := e.ownFmt (e.opFmt [e.f.a, e.f.b, e.f.c]) e.f.a
def Env.wideB (e : Env) : Nat := e.ownFmt (e.opFmt [e.f.a, e.f.b, e.f.c]) e.f.b
def Env.wideR (e : Env) (td : Nat → Nat) : Nat := intFmt (td (fmtWidth e.wideA)) (fmtSigned e.wideA || fmtSigned e.wideB)

/-- What the operands of a widening instruction must be: integers of one width up to `top`, and C of the result format. -/
def Env.wideOk (e : Env) (top : Nat) (td : Nat → Nat) : Prop :=
  fmtInt e.wideA = true ∧ fmtInt e.wideB = true ∧ fmtWidth e.wideA = fmtWidth e.wideB ∧ fmtWidth e.wideA ≤ top ∧
    (∀ t, e.tagOf e.f.c = some t → t = e.wideR td) ∧ e.valueFaults e.wideA [e.f.a] = none ∧
    e.valueFaults e.wideB [e.f.b] = none ∧ e.valueFaults (e.wideR td) [e.f.c] = none

/-- The width-w number whose bits are `p`. -/
def ofBits (w : Nat) (p : Nat → Bool) : Nat := (BitVec.ofBoolListLE ((List.range w).map p)).toNat

/-! ### Accesses (R150, R154) -/

/-- Every link is up, every package has power and no page is LOST, so that no store and no write-back of a dirty line fails (R371,
R387). -/
def State.connected (s : State) : Prop := (∀ k, (s.link k).down = false) ∧ s.dead = [] ∧ ∀ g, (s.dirEnt g).lost = false

/-- A class-00 base address is tagged ADDR or a 32-bit or 64-bit integer format (R150). -/
def Env.baseOk (e : Env) : Prop :=
  ∀ n, e.f.b = .v n → (e.v n.toNat).tag.toNat = 0x0B ∨ (7 ≤ (e.v n.toNat).tag.toNat ∧ (e.v n.toNat).tag.toNat ≤ 0x0A)

/-- The token bucket of the warp's class does not hold the instruction, which acts on `n` sub-elements of a lane (R46, R276). -/
def Env.bucketOpen (e : Env) (s1 : State) (n : Nat := 1) : Prop :=
  e.acts n = true → (s1.pkg (pkgOfCore e.w.core)).stalled (s1.bucketOf e.w) = false

/-- A lane's access passes every check (R154) and reaches the lines `ls`, none of which needs a set on a die in reset (R370). -/
def State.grants (s : State) (w : Who) (a : Acc) (size : Nat) (x : LaneAcc) (ls : Lines) : Prop :=
  x.va % size = 0 ∧ s.transAll w a (x.offs.map (vaAdd x.va)) = .inr ls ∧ s.anyReset w ls a.wr = false

/-- An access of `n` bytes at one address that must be a multiple of `n`. -/
def State.grantsOne (s : State) (w : Who) (a : Acc) (va n : Nat) (ls : Lines) : Prop :=
  va % n = 0 ∧ s.transAll w a (vaRange va n) = .inr ls ∧ s.anyReset w ls a.wr = false

/-- Every byte of the access stands in memory, none in a register page. -/
def inMemory (ls : Lines) (vas : List Nat) : Prop := ∀ va ∈ vas, ∃ k, placeOf ls va = .mem k

/-- No line of the access has its CKV bit set: its page holds no checksum that a write would make stale (R342). -/
def noChecksum (ls : Lines) : Prop := ∀ x ∈ ls, ∀ l, x.2.2 = some l → l.ckv = false

/-- The number that the bytes at some virtual addresses hold, lowest first. -/
def State.numberAt (s : State) (ls : Lines) (swz va n : Nat) : Nat :=
  leNat ((vaRange va n).map fun a => memGet s.mem (keyOf ls swz a))

/-- The memory keys of an access of `n` bytes. -/
def keysAt (ls : Lines) (swz va n : Nat) : List Nat := (vaRange va n).map (keyOf ls swz)

/-- Elements read and written one after another, each by its memory keys and its function: what each lane found, and the memory
after the last. -/
def inTurn : List (Nat × List Nat × (Nat → Nat)) → List Host.Cell → List (Nat × Nat) × List Host.Cell
  | [], m => ([], m)
  | (l, ks, g) :: xs, m =>
    let x := leNat (ks.map (memGet m))
    let r := inTurn xs (memSetAll m (ks.zip (leBytes ks.length (g x))))
    ((l, x) :: r.1, r.2)

/-- The memory of `t` is that of `s` with `x` written at the bytes of an access, and nothing else changed. -/
def WroteNumber (s t : State) (ls : Lines) (swz va n x : Nat) : Prop :=
  SameBytesBut s t (keysAt ls swz va n) ∧ ∀ i < n, memGet t.mem (keyOf ls swz (vaAdd va i)) = BitVec.ofNat 8 (x / 256 ^ i)

/-! ### Completion

Each says of an instruction, for every state in which it issues, that it answers a next state, and what that state holds. -/

/-- The operand bits of a lane's sub-element, position by position. -/
def Env.operands (e : Env) (s1 : State) (t : Nat) (xs : List Src) (l j : Nat) : List Nat := xs.map fun x => e.el s1 t x l j

/-- Clamping of an exact integer to the unsigned and the signed 64-bit range (R16, R91). -/
def clampU (x : Int) : Word := BitVec.ofInt 64 (max 0 (min (2 ^ 64 - 1) x))
def clampS (x : Int) : Word := BitVec.ofInt 64 (max (-2 ^ 63) (min (2 ^ 63 - 1) x))

/-- Result `x`, or with MOD.SAT the exact result clamped to the range that MOD.U names (R90, R91). -/
def saturated (f : Fields) (x : Word) (exactU exactS : Int) : Word :=
  if mdB f 1 then (if mdB f 0 then clampU exactU else clampS exactS) else x

/-- An instruction whose effect is a change of tile `n`'s entry, which is outstanding from its issue on (R237). -/
def CompletesTile (mk : Fields → Instr) (pre : Env → State → Prop) (act : Env → State → TileAct) : Prop :=
  ∀ s f e s1, Issues s (mk f) f e s1 → e.taking ≠ 0 → pre e s1 →
    ∃ w', exec (mk f) s = .next (e.afterFly s1 w') ∧ e.Settled w' ∧ e.Advanced w' ∧ e.SameRegs w' ∧
      w'.allFlags = e.w.allFlags ∧
      w'.flights = e.w.flights ++
        [{ id := s1.nextId, born := e.w.clk, flags := 0, writes := [], tile := some (f.d.toNat, act e s1) }]

/-- An instruction that only moves its issuing lanes to the next word. -/
def MovesOn (mk : Fields → Instr) (pre : Env → State → Prop) : Prop :=
  ∀ s f e s1, Issues s (mk f) f e s1 → pre e s1 →
    ∃ w', exec (mk f) s = .next (e.after s1 w') ∧ e.Settled w' ∧ e.Advanced w' ∧ e.SameRegs w' ∧ e.Raised w' 0

/-- An instruction of group 0x1 whose fixed-latency result is `val` of the values of A, B and C (R89, R91). -/
def CompletesU (mk : Fields → Instr) (val : Env → State → Fields → Word → Word → Word → Word) : Prop :=
  ∀ s f e s1, Issues s (mk f) f e s1 → e.taking ≠ 0 → e.w.busy f.d.toNat = false →
    ∃ w', exec (mk f) s = .next (e.after s1 w') ∧ e.Settled w' ∧ e.Advanced w' ∧ e.Raised w' 0 ∧
      e.WritesU w' f.d.toNat (val e s1 f (e.uni s1 f.a) (e.uni s1 f.b) (e.uni s1 f.c))

/-- An instruction of group 0x1 whose result is outstanding (R95). -/
def CompletesUFly (mk : Fields → Instr) (val : Fields → Word → Word → Word) : Prop :=
  ∀ s f e s1, Issues s (mk f) f e s1 → e.taking ≠ 0 → e.w.busy f.d.toNat = false →
    ∃ w', exec (mk f) s = .next (e.afterFly s1 w') ∧ e.Settled w' ∧ e.Advanced w' ∧
      w'.vregs = e.w.vregs ∧ w'.uregs = e.w.uregs ∧ w'.preds = e.w.preds ∧ w'.bound = adel e.w.bound f.d.toNat ∧
      e.Flies s1 w' [.u f.d.toNat (val f (e.uni s1 f.a) (e.uni s1 f.b))] 0

/-- `fl` is the union of the flags of the active sub-elements (R30). -/
def UnionFlags (n : Nat) (act : Nat → Nat → Bool) (each : Nat → Nat → BitVec 5) (fl : BitVec 5) : Prop :=
  ∀ i, fl.getLsbD i = true ↔ ∃ l < 32, ∃ j < n, act l j = true ∧ (each l j).getLsbD i = true

/-- A vector instruction with a fixed-latency result in register D: format `td`, values `val`, float flags `each`; `pre` is
what its tags and operands must meet. -/
def CompletesV (mk : Fields → Instr) (pre : Env → State → Prop) (td : Env → Nat) (reach : Env → Nat → Bool)
    (val : Env → State → Nat → Nat → Nat) (each : Env → State → Nat → Nat → BitVec 5) : Prop :=
  ∀ s f e s1, Issues s (mk f) f e s1 → pre e s1 →
    ∃ w' sh fl, exec (mk f) s = .next (e.after s1 w') ∧ e.Settled w' ∧ e.Advanced w' ∧ e.Raised w' fl ∧
      UnionFlags (nSub (td e)) (fun l j => e.active l j && reach e j) (each e s1) fl ∧
      e.WritesV w' f.d.toNat (td e) sh (fun l j => e.active l j && reach e j) (val e s1)

def noFlags : Env → State → Nat → Nat → BitVec 5 := fun _ _ _ _ => 0
def allSubs : Env → Nat → Bool := fun _ _ => true

/-- A lane-wise instruction: its sources are `xs`, read in the format `fmt`; `takes` says which tags and formats it accepts
(R99), and the values of immediates and special operands must exist in that format (R50, R51). -/
def CompletesLanes (mk : Fields → Instr) (xs : Fields → List Src) (fmt : Env → List Src → Nat)
    (takes : Env → Nat → List Src → Bool) (td : Env → Nat → Nat) (val : Fields → Nat → List Nat → Nat)
    (each : Fields → Nat → List Nat → BitVec 5) : Prop :=
  CompletesV mk
    (fun e _ => takes e (fmt e (xs e.f)) (xs e.f) = true ∧ e.valueFaults (fmt e (xs e.f)) (xs e.f) = none)
    (fun e => td e (fmt e (xs e.f))) allSubs
    (fun e s1 l j => val e.f (fmt e (xs e.f)) (e.operands s1 (fmt e (xs e.f)) (xs e.f) l j))
    (fun e s1 l j => each e.f (fmt e (xs e.f)) (e.operands s1 (fmt e (xs e.f)) (xs e.f) l j))

/-- A compare of vectors into predicate D (R108): every active sub-element's bit takes the outcome `p`, the bits at and above
the sub-element count clear where guard bit 0 is set. -/
def CompletesCmp (mk : Fields → Instr) (pre : Env → State → Prop) (n : Env → Nat)
    (p : Env → State → Nat → Nat → Bool) (each : Env → State → Nat → Nat → BitVec 5) : Prop :=
  ∀ s f e s1, Issues s (mk f) f e s1 → pre e s1 →
    ∃ w' fl x, exec (mk f) s = .next (e.after s1 w') ∧ e.Settled w' ∧ e.Advanced w' ∧ e.Raised w' fl ∧
      UnionFlags (n e) e.active (each e s1) fl ∧
      e.WritesQ w' f.d.toNat (fun l => cmpMask (n e) (e.guard l)) x ∧
      (∀ l < 32, ∀ j < 16, (x l).getLsbD j = (decide (j < n e) && p e s1 l j))

/-! ### Further endings of an issue -/

/-- The issue has moved its lanes on; no register and nothing outstanding has changed. -/
def Env.Quiet (e : Env) (w' : Warp) : Prop := e.Settled w' ∧ e.Advanced w' ∧ e.SameRegs w' ∧ e.Raised w' 0

/-- The issue has moved its lanes on and leaves the writes `ws` outstanding; the registers stand as they were. -/
def Env.Leaves (e : Env) (w' : Warp) (ws : List RegWrite) : Prop :=
  e.Settled w' ∧ e.Advanced w' ∧ w'.vregs = e.w.vregs ∧ w'.uregs = e.w.uregs ∧ w'.preds = e.w.preds ∧
    w'.allFlags = e.w.allFlags ∧ ∃ id, w'.pending = e.w.pending ++ [(id, 0, ws)]

/-- `t` follows the issue in `s`: the issuing warp is `w'`, no other warp has changed, nothing is being issued. -/
def Env.Ends (e : Env) (s t : State) (w' : Warp) : Prop :=
  aget t.warps e.key = some w' ∧ OtherWarps s t e.key ∧ t.cur = none

/-- The issuing lanes are held for a reason; nothing else of the warp has changed (R240). -/
def Env.HeldBy (e : Env) (w' : Warp) (h : Hold) : Prop :=
  w' = { e.w0 with lanes := w'.lanes } ∧ w'.lanes.length = e.w0.lanes.length ∧
    ∀ l x, e.w0.lanes[l]? = some x →
      w'.lanes[l]? = some (if e.lanes.getLsbD l && x.isRun then { x with st := .hold h } else x)

/-- The instruction completes where `pre` holds, leaving the warp at rest in the state `post`. -/
def CompletesAs (mk : Fields → Instr) (pre : Env → State → Prop) (post : Env → State → State) : Prop :=
  ∀ s f e s1, Issues s (mk f) f e s1 → e.taking ≠ 0 → pre e s1 →
    ∃ w', exec (mk f) s = .next (e.after (post e s1) w') ∧ e.Quiet w'

/-- The keys of a map stand in rising order, as every operation of the machine keeps them. -/
def Keyed {α : Type} (m : AMap α) : Prop := (m.map Prod.fst).Pairwise (· < ·)

/-! ### Reductions (R42, R140, R141) -/

/-- Node `j` of level `b` of the tree over the leaves: it combines nodes 2j and 2j + 1 of the level below. -/
def treeNode (g : Int → Int → Int × BitVec 5) (leaf : Nat → Int) : Nat → Nat → Int
  | 0, j => leaf j
  | b + 1, j => (g (treeNode g leaf b (2 * j)) (treeNode g leaf b (2 * j + 1))).1

/-- The prefix over leaves 0 to c - 1, with the flags of its own combinations, once the upper `k` of the `top` bits of c have been
looked at: a set bit b takes in the node of level b that ends where the bits of c from b upward end. -/
def treePrefix (g : Int → Int → Int × BitVec 5) (leaf : Nat → Int) (c top : Nat) : Nat → Option (Int × BitVec 5)
  | 0 => none
  | k + 1 =>
    let b := top - (k + 1)
    let before := treePrefix g leaf c top k
    if c.testBit b then
      let node := treeNode g leaf b (c / 2 ^ b - 1)
      match before with
      | none => some (node, 0)
      | some (x, fl) => some ((g x node).1, fl ||| (g x node).2)
    else before

/-- The leaf at position `p`: the element of lane p / n, or the identity where that is not active (R42). -/
def Env.leaf (e : Env) (s1 : State) (op t p : Nat) : Int :=
  let x := e.el s1 t e.f.a (p / nSub t) (p % nSub t)
  if e.active (p / nSub t) (p % nSub t) then (if isFloatOp op then (x : Int) else toInt t x) else oprIdentity op t

/-! ### Groups 0xB and 0xC -/

/-- The tile table grants all that an instruction asks (R169, R284): each entry stands in the state that is asked of it, 0 EMPTY,
1 FILLING, 2 READY, 3 READY without a read reference, no change of it is outstanding, and no held instruction that the table grants
first gets what conflicts. -/
def Env.tableGrants (e : Env) (s1 : State) (xs : List Ask) : Prop :=
  (∀ x ∈ xs, (s1.tile e.w.gid x.1).state.toNat = min x.2 2 ∧ (x.2 = 3 → s1.referenced e.w.gid x.1 = false) ∧
    s1.changing e.w.gid x.1 = false) ∧ e.loses s1 xs = false

/-- What an instruction of the quad sequencer's engines meets before its own checks (R169, R187, R283, R284): the tiles it names
are its unit's and defined, the table grants its sources READY and its destination EMPTY, no source is poisoned, and no earlier
instruction under way shares state with it. -/
def Env.matReady (e : Env) (s1 : State) (foot : Foot) (srcs : List Nat) (dst : Option Nat) : Prop :=
  e.taking ≠ 0 ∧ (∀ n ∈ dst.toList ++ srcs, e.tileFault s1 n true = none) ∧
    e.tableGrants s1 (srcs.map (fun n => (n, 2)) ++ dst.toList.map fun d => (d, 0)) ∧
    (∀ n ∈ srcs, ((s1.unit e).tiles.getD n Tile.void).psn = false) ∧
    ∀ m ∈ (s1.unit e).mops, m.bars foot = false

/-- A power grant is held, or none is asked for by anybody (R278). -/
def Env.grantFree (e : Env) (s1 : State) : Prop :=
  (s1.unit e).grants ≠ 0 ∨ (s1.die (dieOf e.w.core)).pmQueue = []

/-- The engine has taken the instruction in: the unit is `g'`, the instruction is one that it has under way, with its source
and destination tiles and what it will have written at its completion; its result without a register is outstanding. No byte
of memory has changed where `mem` holds. -/
def Env.Engaged (e : Env) (s t : State) (i : Instr) (srcs : List Nat) (dst : Option Nat) (out : List (Nat × Byte))
    (g' : Group) (mem : Prop := True) : Prop :=
  ∃ w' m, e.Ends s t w' ∧ e.Leaves w' [] ∧ (mem → SameBytes s t) ∧ aget t.groups e.w.gid = some g' ∧
    m ∈ g'.mops ∧ m.instr = i ∧ m.src = srcs ∧ m.dst = dst ∧ m.out = out

/-- The elements of an accumulator region change to `h i j`, by offset, and no other element does (R186, R289). -/
def RegionIs (g g' : Group) (r0 nr c0 nc : Nat) (h : Nat → Nat → AccEl) : Prop :=
  ∀ r c, c < 256 * min 4 g.cores.length →
    g'.el r c = if r0 ≤ r ∧ r < r0 + nr ∧ c0 ≤ c ∧ c < c0 + nc then h (r - r0) (c - c0) else g.el r c

/-- A tile that the unit fills (R283): its state is FILLING. -/
def Fills (g g' : Group) (d : Option Nat) : Prop :=
  match d with
  | some d => g'.tiles = modAt g.tiles d fun t => { t with state := 1 }
  | none => g'.tiles = g.tiles

/-! ### Save areas (R229) -/

/-- An access of `n` bytes to a save area that passes its checks, of bytes in memory: in the capacity tier, the homeless space or a
host's memory. -/
def Env.savable (e : Env) (s : State) (a : Acc) (va n : Nat) (ls : Lines) : Prop :=
  va % 64 = 0 ∧ e.area s a va n = .inr ls ∧ s.anyReset (e.who s) ls a.wr = false ∧ inMemory ls (vaRange va n)

/-- An aligned write of `n` bytes by an agent of the switch die lands: in the homeless space or a host's memory (R322), with the page
not LOST and its storage within reach (R371, R387). -/
def State.takesBytes (s : State) (k n : Nat) : Prop := (isHomeless k = true ∨ isHostKey k = true) ∧ k % n = 0 ∧ s.connected

/-- A save whose lines can be obtained writes `bytes` to its area and leaves their number outstanding for D; `at_` is what it waits
for. Where no write fails and no page of the area holds a checksum, no other byte changes. -/
def CompletesSave (mk : Fields → Instr) (at_ : Env → Env) (pre : Env → State → Prop) (va : Env → State → Nat)
    (bytes : Env → State → List Byte) : Prop :=
  ∀ s f e s1, Issues s (mk f) f e s1 → e.taking ≠ 0 → e.bucketOpen s1 → e.w.busy f.d.toNat = false → pre e s1 →
    let bs := bytes (at_ e) s1
    let vas := vaRange (va (at_ e) s1) bs.length
    ∀ ls s2, (at_ e).savable s1 Acc.saveOut (va (at_ e) s1) bs.length ls →
      s1.putBytes ((at_ e).who s1) ls 0 0 (vas.zip bs) = .ok s2 →
      ∃ t w', exec (mk f) s = .next t ∧ e.Ends s t w' ∧ (at_ e).Leaves w' [.u f.d.toNat (BitVec.ofNat 64 bs.length)] ∧
        t.mem = s2.mem ∧ (s.connected → noChecksum ls → t.mem = memSetAll s.mem ((vas.map (keyOf ls 0)).zip bs))

/-- The bytes of a checked area. -/
def State.areaBytes (s : State) (ls : Lines) (va n : Nat) : List Byte := (vaRange va n).map fun a => memGet s.mem (keyOf ls 0 a)

/-! ### Steps of other agents -/

/-- The lanes of a warp that a mask names and that are held for a reason of `p` go back to RUN, and nothing else of it
changes. -/
def Retried (w w' : Warp) (m : LaneMask) (p : Hold → Prop) : Prop :=
  w' = { w with lanes := w'.lanes } ∧ w'.lanes.length = w.lanes.length ∧
    ∀ l x, w.lanes[l]? = some x →
      (∀ h, x.st = .hold h → p h → m.getLsbD l = true → w'.lanes[l]? = some { x with st := .run }) ∧
      ((∀ h, x.st = .hold h → ¬ (p h ∧ m.getLsbD l = true)) → w'.lanes[l]? = some x)

end Sys2Proof.Machine
end

