-- ==== Sys2Proof/Certificates/Slice0/Obligations.lean ====
section
/-! DEFINITION. The statements about the model, for the provers. Where a statement has several parts, each part is a definition of
its own under `Sys2Proof.Clause`, and the statement is their conjunction. -/
open Sys2Proof Sys2Proof.Machine

/-! ### Words, steps and the whole machine -/

/-- R44, R49 to R52, R66: every well-formed instruction has a word, which decodes to it with every operand at its value; every word
that decodes is the word of what it decodes to, so no two instructions share one and no bit is dropped. -/
def Obligations.DecodeAndEncodeAgree : Prop :=
  (∀ i, wf i = true → ∃ w, encode i = some w ∧ decode w = .ok i) ∧ ∀ w i, decode w = .ok i → wf i = true ∧ encode i = some w

/-- R44, R45, R66: the words of two of the spec's examples, byte 0 at the lowest address, decode to what they stand for; no word of
opcode group 0xF decodes, and neither do the words of opcodes 0x00C, 0x095 and 0x310, which no row names, with every other bit clear. -/
def Obligations.WordsOfTheSpecDecode : Prop :=
  (∃ f, decode (bytesWord [0x00, 0x09, 0x3D, 0x08, 0x0A, 0x06, 0, 0, 0x88, 0, 0, 0, 0, 0, 0, 0]) = .ok (.vadd f) ∧
    f.ga = ⟨false, 1⟩ ∧ f.gb = ⟨true, 2⟩ ∧ f.sw = true ∧ f.dly = 3 ∧ f.ch = 0 ∧ f.d = 4 ∧ f.a = .v 5 ∧ f.b = .u 3 ∧
    f.c = .v 0 ∧ f.e = 0 ∧ f.md = 1 ∧ f.imm = 0) ∧
  (∃ f, decode (bytesWord [0x03, 0x10, 0, 0x28, 0, 0, 0, 0, 0, 0, 0, 0, 0x30, 0, 0, 0]) = .ok (.call f) ∧
    f.ga = ⟨false, 2⟩ ∧ f.d = 20 ∧ f.imm = 0x30) ∧
  (∀ w : BitVec 128, 0x780 ≤ (w.extractLsb' 0 11).toNat → ∃ e, decode w = .error e) ∧
  (∀ op : BitVec 11, op = 0x00C ∨ op = 0x095 ∨ op = 0x310 → ∃ e, decode (op.zeroExtend 128) = .error e)

/-- R45, R77, R241, R243, R331: where a warp is selected whose turn it is on its issue slot, whose fetch no die in reset holds, and the
word at the counter of its vote decodes, the step runs that instruction for the lanes that hold the counter, in a state that differs
from the one before only by the selection itself and by what the fetch leaves of caches and tags (R355); then the issue is counted. A
pair's second word runs the same way. After every step a swapped unit whose change has come is marked (R258), and nothing else changes.
That an agenda in the state, and without one the model's default order, names who moves is the model's choice (log entry 3), and so is
a PC1 that issues as a step of its own and is taken back where a decode check faults it (log entry 30). -/
def Obligations.StepRunsDecodedInstruction : Prop :=
  (∀ (s : State) p rest, s.agenda = p :: rest → step s = latched (perform { s with agenda := rest } p)) ∧
  (∀ (s : State) p, s.agenda = [] → s.default = .pick p → step s = latched (perform s.nextTurn p)) ∧
  (∀ s t : State, latched (.next s) = .next t → ∃ gs, t = { s with groups := gs } ∧
    ((∀ x ∈ s.groups, x.2.phase ≠ .swapped) → t = s)) ∧
  (∀ (s : State) i, opSpec i = none → perform s (.event i) = exec i s) ∧
  (∀ (s : State) key w c c1 ls, aget s.warps key = some w → s.turn w = true → s.roundRobin key w = key →
    w.vote = some (c, c1) → s.fetchHeld w (BitVec.ofNat 64 c) = false →
    s.transAll (s.who w) Acc.fetch [(BitVec.ofNat 64 c).toNat] = .inr ls →
    let word := bytesWord (s.bytes (keyOf ls 0 (BitVec.ofNat 64 c).toNat) 16)
    (∀ i, decode word = .ok i →
      ∃ (s0 t : State) (x : Warp), s0 = { s with warps := s0.warps, cores := s0.cores } ∧
        t = { s0.fetched w (BitVec.ofNat 64 c) with warps := t.warps,
                                                    cur := some ⟨key, w.atCounter c, BitVec.ofNat 64 c, false⟩ } ∧
        SameBytes s t ∧ t.groups = s.groups ∧ aget t.warps key = some x ∧
        x = { w with starve := x.starve, first := x.first, pair := x.pair, owes := x.owes, replay := x.replay } ∧
        (∀ k y, k ≠ key → aget s.warps k = some y → aget t.warps k = some { y with owes := y.owes.filter (· != key) }) ∧
        ∀ u, exec i t = .next u → perform s (.issue key) = .next (u.issueDone t i)) ∧
    (∀ e, decode word = .error e →
      ∃ t x, perform s (.issue key) = .next t ∧ SameBytes s t ∧ aget t.warps key = some x ∧ x.vregs = w.vregs ∧
        x.uregs = w.uregs ∧ x.preds = w.preds ∧ ∀ l y, l < 32 → w.lanes[l]? = some y → (w.atCounter c).getLsbD l = true →
          ∃ h, x.lanes[l]? = some { y with st := .park 0x01 0 h })) ∧
  (∀ (s : State) key w p ls i, aget s.warps key = some w → w.pair = some p → s.fetchHeld w p.pc = false →
    s.transAll (s.who w) Acc.fetch [p.pc.toNat] = .inr ls → decode (bytesWord (s.bytes (keyOf ls 0 p.pc.toNat) 16)) = .ok i →
    unitOf i ≠ p.unit → w.atCounter p.pc.toNat &&& p.lanes ≠ 0 →
    let c : Issue := ⟨key, w.atCounter p.pc.toNat &&& p.lanes, p.pc, true⟩
    ∃ (s0 t : State) (x : Warp), s0 = { s with warps := s0.warps } ∧ t = { s0.fetched w p.pc with warps := t.warps, cur := some c } ∧
      SameBytes s t ∧ t.groups = s.groups ∧ aget t.warps key = some x ∧
      x = { w with starve := x.starve, first := x.first, pair := none, replay := x.replay } ∧ OtherWarps s t key ∧
      ∀ u, exec i t = .next u → perform s (.pair key) = .next
        (if u.pairRefused i c = true then s.modWarp key (fun y => { y with pair := none }) else u.issueDone t i))

/-- R46, R54, R65, R67, R435: a word whose encoding the issuing agent does not accept parks every issuing lane with ILLOP, a privileged
one in a user warp with PRIV, and one that names a vector register past the budget with ILLOP, in this order and whatever the guards;
nothing else happens. -/
def Obligations.DecodeChecksPark : Prop :=
  ∀ (s : State) i f c w code, fieldsOf i = some f → s.cur = some c → aget s.warps c.key = some w →
    (let seq := w.kind == .seq
     (wfFor seq i = false ∧ code = 0x01) ∨
     (wfFor seq i = true ∧ (∃ sp, opSpec i = some sp ∧ sp.forP = true) ∧ w.kind = .user ∧ code = 0x02) ∨
     (wfFor seq i = true ∧ ¬ ((∃ sp, opSpec i = some sp ∧ sp.forP = true) ∧ w.kind = .user) ∧
       w.vregs.length < vecTop seq i f ∧ code = 0x01)) →
    ∃ t w', exec i s = .next t ∧ SameBytes s t ∧ aget t.warps c.key = some w' ∧ OtherWarps s t c.key ∧
      w'.vregs = w.vregs ∧ w'.uregs = w.uregs ∧ w'.preds = w.preds ∧ w'.pending = w.pending ∧ w'.allFlags = w.allFlags ∧
      (w.kind = .user → c.lanes ≠ 0 → w'.pendingFault = true) ∧
      ∀ l x, l < 32 → w.lanes[l]? = some x → w'.lanes[l]? = some
        (if c.lanes.getLsbD l then { x with st := .park code 0 (if w.kind = .user then 0 else s.nextHandle) } else x)

/-- The memory list keeps its canonical form in every step: addresses strictly rising, nothing listed that an unlisted address reads
as, so that equal memories are equal data (log entry 1 says what an unlisted address reads as). -/
def Obligations.EveryStepKeepsMemoryForm : Prop := ∀ s t : State, s.memOk → Steps s t → t.memOk

/-- R435, R440: no instruction and no event stops the machine: from every state a step answers a next state, a fault of the KH7 being
one. That an event whose condition does not hold leaves the state as it is, and that an instruction word without an issuer is the only
stop of `exec`, which no step meets, are the model's choices (log entries 11 and 79). -/
def Obligations.EveryStepAnswers : Prop := ∀ s : State, ∃ t, Steps s t

/-- R12: what the registers with a Reset value hold at power-on, in every core, die, switch die and link: REFORMAGE (R252), SWAPTHR
(R256), MIGTHR (R357), PWRCTL (R457), ALARMCFG (R460), BFCFG (R309), LNKCTL (R378), the buckets (R276), the counters (R466), SCRBCTL
(R344) and the chains (R262). That memory lists nothing (log entry 1), that no warp and no launch stands there (log entry 9), and that
registers whose Reset is a dash read 0 before bring-up (log entry 7), are the model's choices. -/
def Obligations.ResetValues : Prop :=
  let s := State.reset
  s.memOk ∧ s.mem = [] ∧ s.warps = [] ∧ s.launches = [] ∧
  (∀ core, (s.core core).reformage = 256 ∧ (s.core core).swapthr = 20000) ∧
  (∀ die, (s.die die).scrbctl = 0 ∧ (s.die die).halted = false) ∧
  (∀ pkg, (s.pkg pkg).migthr = 4 ∧ (s.pkg pkg).pwrctl = 0x0000014A0FA00000 ∧ (s.pkg pkg).alarmcfg = 0xDA ∧
    (s.pkg pkg).bfcfg = 0x7F00000000000004 ∧ (s.pkg pkg).buckets = List.replicate 16 ⟨0, 0, 0⟩ ∧
    (s.pkg pkg).locked = false ∧ (s.pkg pkg).dbglk = false ∧ (s.pkg pkg).ctxtab = 0 ∧ (s.pkg pkg).cxlcfg = 0) ∧
  (∀ die, (s.die die).trapvec = 0 ∧ (s.die die).svcq = 0) ∧
  (∀ pkg p, (s.chain pkg p).readHead = 0 ∧ (s.chain pkg p).readDone = 0x0000000100000000) ∧
  (∀ core i, (s.counter core i).sel = 0 ∧ (s.counter core i).count = 0) ∧
  (∀ k, (s.link k).ctl = 0x0000004000A00001)

/-- R77: an instruction that acts once, for the warp, does nothing but move its lanes on where no issuing lane takes it. That such a word
of the memory class moves on while the bucket of its class is empty is the model's reading (log entry 31). -/
def Obligations.NothingWithoutTakingLane : Prop :=
  ∀ mk ∈ [Instr.sadd, .ssub, .smul, .smulh, .sdiv, .srem, .smin, .smax, .sand, .sor, .sxor, .sshl, .sshr, .ssra, .smov,
      .smovh, .scmp, .ssel, .sbfx, .spopc, .sclz, .vtagq, .exit, .yield, .ldu, .stu, .atomu, .acasu, .tdef, .tacq, .trdy, .trel, .tstat,
      .acopyIn, .acopyOut, .acopygIn, .acopygOut, .waitz, .apf, .aev, .shopen, .publ, .kvsum, .mcfg, .mldw, .mswap, .mmul, .mzero,
      .mrsum, .mcsum, .mload, .mdrain, .smxi, .smxu, .smxm, .smxf, .smxs, .smxl, .attn, .bfq, .bar, .barm, .barv, .wait, .launch,
      .migrate, .pgrant, .trapret, .trapretSkip, .trapretKill, .csrr, .csrw, .tlbinvAddr, .tlbinvAsid, .tlbinvAll, .ptw, .pgref,
      .vsave, .vrest, .accsv, .accrs, .tsv, .trs, .pcsv, .pcrs, .lnkq, .halt],
    MovesOn mk fun e _ => e.taking = 0

/-! ### Group 0x1: uniform integer instructions -/

/-- R91: addition, subtraction and multiplication of 64 bits wrap, or clamp the exact result with SAT; `smulh` gives the high
half of the 128-bit product. -/
def Sys2Proof.Clause.UniformArithmetic : Prop :=
  CompletesU .sadd (fun _ _ f a b _ => saturated f (a + b) (a.toNat + b.toNat) (a.toInt + b.toInt)) ∧
  CompletesU .ssub (fun _ _ f a b _ => saturated f (a - b) ((a.toNat : Int) - b.toNat) (a.toInt - b.toInt)) ∧
  CompletesU .smul (fun _ _ f a b _ => saturated f (a * b) (a.toNat * b.toNat) (a.toInt * b.toInt)) ∧
  CompletesU .smulh (fun _ _ f a b _ =>
    if mdB f 0 then (a.zeroExtend 128 * b.zeroExtend 128).extractLsb' 64 64
    else (a.signExtend 128 * b.signExtend 128).extractLsb' 64 64)

/-- R91: minimum and maximum under the reading of U, logic, shifts by an unsigned count, moves. -/
def Sys2Proof.Clause.UniformLogicShiftsMoves : Prop :=
  CompletesU .smin (fun _ _ f a b _ => if (if mdB f 0 then a.ule b else a.sle b) then a else b) ∧
  CompletesU .smax (fun _ _ f a b _ => if (if mdB f 0 then a.ule b else a.sle b) then b else a) ∧
  CompletesU .sand (fun _ _ _ a b _ => a &&& b) ∧
  CompletesU .sor (fun _ _ _ a b _ => a ||| b) ∧
  CompletesU .sxor (fun _ _ _ a b _ => a ^^^ b) ∧
  CompletesU .sshl (fun _ _ _ a b _ => a <<< b) ∧
  CompletesU .sshr (fun _ _ _ a b _ => a >>> b) ∧
  CompletesU .ssra (fun _ _ _ a b _ => a.sshiftRight' b) ∧
  CompletesU .smov (fun _ _ _ a _ _ => a) ∧
  CompletesU .smovh (fun e _ f a _ _ => a.extractLsb' 0 32 ++ (e.u f.d.toNat).extractLsb' 0 32)

/-- R91, R94: `ssel` by the leading lane's bit of its predicate; `sbfx` with an immediate position or length in its own byte of
IMM; population and leading-zero counts. -/
def Sys2Proof.Clause.UniformSelectAndBits : Prop :=
  CompletesU .ssel (fun e _ f a b _ => if ((e.q f.e.toNat).getD (e.leading.getD 0) 0).getLsbD 0 then a else b) ∧
  CompletesU .sbfx (fun _ _ f a b c =>
    let pos := if isImm f.b then immN f % 256 else b.toNat
    let len := if isImm f.c then immN f / 256 % 256 else c.toNat
    let up := 64 - min len (64 - pos)
    if len = 0 ∨ 64 ≤ pos then 0
    else if mdB f 0 then (a >>> pos) <<< up >>> up
    else ((a >>> pos) <<< up).sshiftRight up) ∧
  CompletesU .spopc (fun _ _ _ a _ _ => BitVec.ofNat 64 ((List.range 64).countP fun i => a.getLsbD i)) ∧
  CompletesU .sclz (fun _ _ _ a _ _ => BitVec.ofNat 64 ((List.range 65).countP fun n => n ≠ 0 ∧ a >>> (64 - n) = 0))

/-- R91, R94: Results of the uniform instructions but divisions and compares, and their frame. -/
def Obligations.UniformResults : Prop :=
  Clause.UniformArithmetic ∧ Clause.UniformLogicShiftsMoves ∧ Clause.UniformSelectAndBits

/-- R92: a division by zero gives all ones; quotients truncate toward zero, the remainder has the sign of the dividend. -/
def Obligations.UniformDivision : Prop :=
  CompletesUFly .sdiv (fun f a b => if b = 0 then 0xFFFFFFFFFFFFFFFF else if mdB f 0 then a / b else a.sdiv b) ∧
  CompletesUFly .srem (fun f a b => if b = 0 then 0xFFFFFFFFFFFFFFFF else if mdB f 0 then a % b else a.srem b)

/-- R93: the outcome of `scmp` stands in every bit of D in each taking lane; a D of `q0` discards it. -/
def Obligations.UniformCompare : Prop :=
  ∀ s f e s1, Issues s (.scmp f) f e s1 → e.taking ≠ 0 →
    ∃ w', exec (.scmp f) s = .next (e.after s1 w') ∧ e.Settled w' ∧ e.Advanced w' ∧ e.Raised w' 0 ∧
      e.WritesQ w' f.d.toNat (fun l => if e.taking.getLsbD l then 0xFFFF else 0)
        (fun _ =>
          let a := e.uni s1 f.a
          let b := e.uni s1 f.b
          let lt := if mdB f 0 then a.ult b else a.slt b
          let holds := match mdN f 2 3 with
            | 0 => a == b
            | 1 => a != b
            | 2 => lt
            | 3 => lt || a == b
            | 4 => !lt && a != b
            | _ => !lt
          if holds then 0xFFFF else 0)

/-- R56: while a bound completion counter is not zero, an instruction that writes its register is held at issue, and nothing
else changes. -/
def Obligations.BoundCounterHoldsWriters : Prop :=
  ∀ mk ∈ [Instr.sadd, .ssub, .smul, .smulh, .sdiv, .srem, .smin, .smax, .sand, .sor, .sxor, .sshl, .sshr, .ssra, .smov,
      .smovh, .ssel, .sbfx, .spopc, .sclz],
    ∀ s f e s1, Issues s (mk f) f e s1 → e.taking ≠ 0 → e.w.busy f.d.toNat = true →
      ∃ w', exec (mk f) s = .next (e.after s1 w') ∧ w' = { e.w0 with lanes := w'.lanes } ∧
        w'.lanes.length = e.w0.lanes.length ∧
        ∀ l x, e.w0.lanes[l]? = some x →
          w'.lanes[l]? = some (if e.lanes.getLsbD l && x.isRun then { x with st := .hold .counter } else x)

/-- R89: what a uniform source contributes: an immediate extended by sign, or by zeros under U; a register's value once no
early or outstanding result of it is left; a bound counter its count (R56). -/
def Sys2Proof.Clause.UniformSources : Prop :=
  ∀ (e : Env) (s1 : State) (n : BitVec 6),
    e.uni s1 .imm = (if mdB e.f 0 then e.f.imm.zeroExtend 64 else e.f.imm.signExtend 64) ∧
    (∀ c, aget e.w.bound n.toNat = some c → e.uni s1 (.u n) = BitVec.ofNat 64 c) ∧
    (aget e.w.bound n.toNat = none → (∀ r ∈ e.w.recent, r.old.name ≠ (1, n.toNat)) →
      (∀ g ∈ e.w.flights, ∀ p ∈ g.writes, p.1.name ≠ (1, n.toNat)) → e.uni s1 (.u n) = e.w.u n.toNat)

/-- R150: an address is A + B + the signed offset modulo 2^64, with BLK set 8 bytes times the registers and the lane number
further on; a register of 32-bit integers contributes its sub-element 0, extended by its signedness. -/
def Sys2Proof.Clause.AddressFormation : Prop :=
  ∀ (e : Env) (s1 : State) (blk l : Nat),
    (BitVec.ofNat 64 (e.va s1 blk l) : Word) =
      BitVec.ofNat 64 (e.addrPart s1 e.f.a l) + BitVec.ofNat 64 (e.addrPart s1 e.f.b l) + e.f.imm.signExtend 64
        + (if mdB e.f 8 then BitVec.ofNat 64 (l * blk) else 0) ∧
    (∀ n, e.addrPart s1 (.u n) l = (e.u n.toNat).toNat) ∧
    (∀ n, (e.v n.toNat).tag = 0x0B ∨ (e.v n.toNat).tag = 0x09 ∨ (e.v n.toNat).tag = 0x0A →
      e.addrPart s1 (.v n) l = ((e.v n.toNat).lanes.getD l 0).toNat) ∧
    (∀ n, (e.v n.toNat).tag = 0x07 →
      e.addrPart s1 (.v n) l = ((((e.v n.toNat).lanes.getD l 0).extractLsb' 0 32).zeroExtend 64).toNat) ∧
    (∀ n, (e.v n.toNat).tag = 0x08 →
      e.addrPart s1 (.v n) l = ((((e.v n.toNat).lanes.getD l 0).extractLsb' 0 32).signExtend 64).toNat)

/-- R89, R150: What uniform sources and address operands contribute. -/
def Obligations.OperandValues : Prop :=
  Clause.UniformSources ∧ Clause.AddressFormation

/-! ### Group 0x0: control flow -/

/-- R78: `nop` moves the issuing lanes on and changes nothing else. -/
def Sys2Proof.Clause.NopMovesOn : Prop := MovesOn .nop fun _ _ => True

/-- R86, R87: `yield` moves the issuing lanes on and changes no visible state; a `sleep` of count 0 acts as `nop`, any other
keeps every issuing lane from issuing, its counter behind the instruction; its guard has no effect. -/
def Sys2Proof.Clause.YieldAndSleep : Prop :=
  (∀ s f e s1, Issues s (.yield f) f e s1 →
    ∃ w' os, exec (.yield f) s = .next (e.after s1 { w' with owes := os }) ∧ e.Settled { w' with owes := e.w.owes } ∧
      e.Advanced w' ∧ e.SameRegs w' ∧ e.Raised w' 0) ∧
  MovesOn .sleep (fun e _ => e.sleepCount = 0) ∧
  (∀ s f e s1, Issues s (.sleep f) f e s1 → e.sleepCount ≠ 0 →
    ∃ w', exec (.sleep f) s = .next (e.after s1 w') ∧ e.Settled w' ∧ e.SameRegs w' ∧ e.Raised w' 0 ∧
      e.LanesGo w' fun _ x => { x with pc := x.pc + 16, st := .hold (.sleep (e.w.clk + e.sleepCount)) }) ∧
  (∀ e : Env, (e.f.a = .imm → e.sleepCount = e.f.imm.toNat) ∧
    ∀ n, e.f.a = .u n → e.sleepCount = min (e.u n.toNat).toNat (2 ^ 32 - 1))

/-- R78, R86, R87: nop and yield move the lanes on; sleep holds every issuing lane and a count of 0 is a nop. -/
def Obligations.PlainControl : Prop :=
  Clause.NopMovesOn ∧ Clause.YieldAndSleep

/-- R79: `bra` moves every taking lane to pc + 16 times the signed offset, the other issuing lanes to the next word. -/
def Obligations.BranchTargets : Prop :=
  ∀ s f e s1, Issues s (.bra f) f e s1 →
    ∃ w', exec (.bra f) s = .next (e.after s1 w') ∧ e.Settled w' ∧ e.SameRegs w' ∧ e.Raised w' 0 ∧
      e.LanesGo w' fun l x =>
        { x with pc := if e.taking.getLsbD l then e.pc + 16 * f.imm.signExtend 64 else x.pc + 16 }

/-- The taking lanes' register targets are multiples of 16 and canonical (R80). -/
def TargetsGood (e : Env) : Prop :=
  ∀ l < 32, e.taking.getLsbD l = true →
    (e.regTarget l).extractLsb' 0 4 = 0 ∧
      ((e.regTarget l).extractLsb' 55 9 = 0 ∨ (e.regTarget l).extractLsb' 55 9 = BitVec.allOnes 9)

/-- R80, R83: `brx` and `ret` move each taking lane to its own target, the other issuing lanes to the next word. A register
target is tagged ADDR, or for `brx` I64. -/
def Sys2Proof.Clause.RegisterBranchTargets : Prop :=
  ∀ mk ∈ [Instr.brx, .ret], ∀ s f e s1, Issues s (mk f) f e s1 → TargetsGood e →
    (∀ n, f.a = .v n → (e.v n.toNat).tag = 0x0B ∨ (mk f = .brx f ∧ (e.v n.toNat).tag = 0x0A)) →
    (∀ n l, f.a = .v n → e.regTarget l = (e.v n.toNat).lanes.getD l 0 + f.imm.signExtend 64) ∧
    (∀ n l, f.a = .u n → e.regTarget l = e.u n.toNat + f.imm.signExtend 64) ∧
    ∃ w', exec (mk f) s = .next (e.after s1 w') ∧ e.Settled w' ∧ e.SameRegs w' ∧ e.Raised w' 0 ∧
      e.LanesGo w' fun l x => { x with pc := if e.taking.getLsbD l then e.regTarget l else x.pc + 16 }

/-- R80: a taking lane whose target is no multiple of 16, or not canonical, parks at the branch with ALIGN or XLATE; the other
taking lanes branch. -/
def Sys2Proof.Clause.BadBranchTargetsPark : Prop :=
  ∀ mk ∈ [Instr.brx, .ret], ∀ s f e s1, Issues s (mk f) f e s1 →
    (∀ n, f.a = .v n → (e.v n.toNat).tag = 0x0B ∨ (mk f = .brx f ∧ (e.v n.toNat).tag = 0x0A)) →
    ∃ t w', exec (mk f) s = .next t ∧ aget t.warps e.key = some w' ∧ w'.vregs = e.w.vregs ∧ w'.uregs = e.w.uregs ∧
      w'.preds = e.w.preds ∧ t.mem = s.mem ∧
      ∀ l x, l < 32 → e.w.lanes[l]? = some x → e.lanes.getLsbD l = true → x.st = .run →
        ∃ y, w'.lanes[l]? = some y ∧
          (if e.taking.getLsbD l then
            if (e.regTarget l).extractLsb' 0 4 ≠ 0 then y.pc = x.pc ∧ ∃ h, y.st = .park 0x04 0 h
            else if (e.regTarget l).extractLsb' 55 9 ≠ 0 ∧ (e.regTarget l).extractLsb' 55 9 ≠ BitVec.allOnes 9 then
              y.pc = x.pc ∧ ∃ h, y.st = .park 0x05 0 h
            else y = { x with pc := e.regTarget l }
          else y = { x with pc := x.pc + 16 })

/-- R80, R83: brx and ret move each taking lane to its own target, or park it with ALIGN or XLATE. -/
def Obligations.RegisterBranches : Prop :=
  Clause.RegisterBranchTargets ∧ Clause.BadBranchTargetsPark

/-- R82: `call` and `callx` leave pc + 16 as the outstanding result in the link register of every taking lane, tagged ADDR in
all lanes of a warp, and branch; without a taking lane nothing is written. -/
def Sys2Proof.Clause.CallsWriteTheLink : Prop :=
  ∀ mk ∈ [Instr.call, .callx], ∀ s f e s1, Issues s (mk f) f e s1 →
    (mk f = .callx f → TargetsGood e ∧ ∀ n, f.a = .v n → (e.v n.toNat).tag = 0x0B ∨ (e.v n.toNat).tag = 0x0A) →
    (e.isSeq = true → e.taking ≠ 0 → e.w.busy f.d.toNat = false) →
    ∃ w', exec (mk f) s = .next (e.afterFly s1 w') ∧ e.Settled w' ∧
      w'.vregs = e.w.vregs ∧ w'.uregs = e.w.uregs ∧ w'.preds = e.w.preds ∧
      (e.taking = 0 → w'.pending = e.w.pending) ∧
      (e.taking ≠ 0 → e.Flies s1 w'
        [if e.isSeq then .u f.d.toNat (e.pc + 16)
         else .v f.d.toNat ((List.range 32).map fun l => if e.taking.getLsbD l then BitVec.allOnes 64 else 0)
           (List.replicate 32 (e.pc + 16)) 0x0B .general] 0) ∧
      e.LanesGo w' fun l x =>
        { x with pc := if e.taking.getLsbD l then
                         (if mk f = .callx f then e.regTarget l else e.pc + 16 * f.imm.signExtend 64)
                       else x.pc + 16 }

/-- R80, R82: a taking lane of `callx` whose target is no multiple of 16, or not canonical, parks at the call with ALIGN or XLATE
and gets no link; the other taking lanes get theirs and branch. The link is outstanding for those lanes, or not at all where every
taking lane faults. (A target that no page maps faults at the fetch there, R77.) -/
def Sys2Proof.Clause.BadCallTargetsPark : Prop :=
  ∀ s f e s1, Issues s (.callx f) f e s1 →
    (∀ n, f.a = .v n → (e.v n.toNat).tag = 0x0B ∨ (e.v n.toNat).tag = 0x0A) →
    (e.isSeq = true → e.taking ≠ 0 → e.w.busy f.d.toNat = false) →
    let good : Nat → Bool := fun l => e.taking.getLsbD l && (e.regTarget l).extractLsb' 0 4 == 0 &&
      ((e.regTarget l).extractLsb' 55 9 == 0 || (e.regTarget l).extractLsb' 55 9 == BitVec.allOnes 9)
    ∃ t w', exec (.callx f) s = .next t ∧ aget t.warps e.key = some w' ∧ w'.vregs = e.w.vregs ∧ w'.uregs = e.w.uregs ∧
      w'.preds = e.w.preds ∧ t.mem = s.mem ∧
      ((∀ l < 32, good l = false) → w'.pending = e.w.pending) ∧
      ((∃ l < 32, good l = true) → w'.pending = e.w.pending ++ [(s1.nextId, 0,
        [if e.isSeq then .u f.d.toNat (e.pc + 16)
         else .v f.d.toNat ((List.range 32).map fun l => if good l then BitVec.allOnes 64 else 0)
           (List.replicate 32 (e.pc + 16)) 0x0B .general])]) ∧
      ∀ l x, l < 32 → e.w.lanes[l]? = some x → e.lanes.getLsbD l = true → x.st = .run →
        ∃ y, w'.lanes[l]? = some y ∧
          (if e.taking.getLsbD l then
            if (e.regTarget l).extractLsb' 0 4 ≠ 0 then y.pc = x.pc ∧ ∃ h, y.st = .park 0x04 0 h
            else if good l = false then y.pc = x.pc ∧ ∃ h, y.st = .park 0x05 0 h
            else y = { x with pc := e.regTarget l }
          else y = { x with pc := x.pc + 16 })

/-- R80, R82: call and callx leave the link outstanding and branch; the taking lanes of callx with a bad target park there, without a
link. -/
def Obligations.CallsLinkAndBranch : Prop :=
  Clause.CallsWriteTheLink ∧ Clause.BadCallTargetsPark

/-- R84: with no result outstanding, `exit` ends every taking lane and moves the other issuing lanes on; then the warp ends when
no lane of it is left and its bound counters are zero, and the rendezvous of its workgroup and the open barriers are
looked at. Delivered PREEMPT (R431), the warp leaves its core instead, and its parked lanes with it (log entry 35 says what goes with
it). -/
def Sys2Proof.Clause.ExitEndsLanes : Prop :=
  ∀ s f e s1, Issues s (.exit f) f e s1 → e.taking ≠ 0 → e.w.flights = [] →
    (e.w.handler ≠ .preempt → ∃ w', exec (.exit f) s = .next ((e.after s1 w').settle e.key) ∧ e.SameRegs w' ∧
      (∀ l x, e.w.lanes[l]? = some x →
        w'.lanes[l]? = some (if e.waited.taking.getLsbD l then { x with st := .exited }
          else if e.lanes.getLsbD l && x.isRun then { x with pc := x.pc + 16 } else x)) ∧
      (e.w.kind = .user → (∀ l x, e.w.lanes[l]? = some x → x.st = .exited ∨ e.waited.taking.getLsbD l = true) →
        (∀ b ∈ e.w.bound, b.2 = 0) → aget ((e.after s1 w').settle e.key).warps e.key = none)) ∧
    (e.w.handler = .preempt → ∃ t, exec (.exit f) s = .next t ∧ aget t.warps e.key = none)

/-- R84, R47: an `exit` that meets outstanding results parks its warp as by the switch marker and changes nothing else. That the word
issues anew once they have returned is the model's choice (log entry 16). -/
def Sys2Proof.Clause.ExitWaitsForResults : Prop :=
  ∀ s f e s1, Issues s (.exit f) f e s1 → e.taking ≠ 0 → e.w.flights ≠ [] →
    exec (.exit f) s = .next (e.after s1 { e.w0 with swPark := true })

/-- R47, R84, R431: exit ends the taking lanes once the warp's results have returned (waiting: log entry 16; PREEMPT: log entry 35). -/
def Obligations.Exit : Prop :=
  Clause.ExitEndsLanes ∧ Clause.ExitWaitsForResults

/-- R85: in a workgroup launched with DONATE, `reform` faults in the whole issuing lane set, whatever the guards; elsewhere
without a taking lane it has no effect. -/
def Sys2Proof.Clause.ReformChecks : Prop :=
  ∀ s f e s1, Issues s (.reform f) f e s1 →
    ((∃ r, s1.recOf e.w = some r ∧ r.donate = true) → exec (.reform f) s = .next (e.faultAll s1 0x0D)) ∧
    ((∀ r, s1.recOf e.w = some r → r.donate = false) → e.taking = 0 →
      ∃ w', exec (.reform f) s = .next (e.after s1 w') ∧ e.Settled w' ∧ e.Advanced w' ∧ e.SameRegs w')

/-- R85, R253: outside DONATE, with no result outstanding and every counter zero, a `reform` on a core with room for a hoop of
each of its taking lanes files each of them: the lane leaves its warp, and a hoop of the core holds its thread, keyed by
pc + 16. -/
def Sys2Proof.Clause.ReformFilesThreads : Prop :=
  ∀ s f e s1, Issues s (.reform f) f e s1 → (∀ r, s1.recOf e.w = some r → r.donate = false) → e.taking ≠ 0 →
    e.w.flights = [] → (∀ b ∈ e.w.bound, b.2 = 0) →
    (s1.core e.w.core).hoops.length + (lanesOf e.waited.taking).length ≤ 32 →
    ∃ s2 w', exec (.reform f) s = .next ((e.after s2 w').settle e.key) ∧ s2.mem = s.mem ∧ e.SameRegs w' ∧
      (∀ l x, e.w.lanes[l]? = some x → e.waited.taking.getLsbD l = true → w'.lanes[l]? = some { x with st := .exited }) ∧
      ∀ l < 32, e.waited.taking.getLsbD l = true →
        ∃ h ∈ (s2.core e.w.core).hoops, h.pc = e.pc + 16 ∧ h.gid = e.w.gid ∧ h.wg = e.w.wg ∧ h.role = e.w.role ∧
          h.tags = e.w.vregs.map VReg.tag ∧ (e.w.lane l).tid ∈ h.threads.map FiledThread.tid

/-- R85, R47: a `reform` with a taking lane is held while a completion counter of its warp is not zero, and parks its warp as by the
switch marker while results are outstanding; nothing else changes, so no thread is filed (that the word then issues anew is log entry
16). -/
def Sys2Proof.Clause.ReformWaits : Prop :=
  ∀ s f e s1, Issues s (.reform f) f e s1 → (∀ r, s1.recOf e.w = some r → r.donate = false) → e.taking ≠ 0 →
    ((∃ b ∈ e.w.bound, b.2 ≠ 0) → ∃ w', exec (.reform f) s = .next (e.after s1 w') ∧ e.HeldBy w' .counter) ∧
    ((∀ b ∈ e.w.bound, b.2 = 0) → e.w.flights ≠ [] →
      exec (.reform f) s = .next (e.after s1 { e.w0 with swPark := true }))

/-- R85, R253: reform faults in a donating workgroup, is held while a counter is not zero, waits for results, and files threads into
hoops. For a migrated warp the core and the hoop are log entry 90, for a service warp log entry 91. -/
def Obligations.Reform : Prop :=
  Clause.ReformChecks ∧ Clause.ReformWaits ∧ Clause.ReformFilesThreads

/-- R88: `trap` raises TRAP and `brk` BRK in every taking lane, which parks at the instruction with IMM[15:0] recorded; the
other issuing lanes go on. In a user warp the fault waits for its delivery to the warp (R437). -/
def Sys2Proof.Clause.TrapAndBreakPark : Prop :=
  ∀ p ∈ [(Instr.trap, 0x10), (Instr.brk, 0x11)], ∀ s f e s1, Issues s (p.1 f) f e s1 → e.w.kind = .user →
    ∃ w', exec (p.1 f) s = .next (e.after s1 w') ∧ e.SameRegs w' ∧ e.Raised w' 0 ∧
      w'.pendingFault = (e.w.pendingFault || e.taking != 0) ∧
      ∀ l x, e.w.lanes[l]? = some x → e.lanes.getLsbD l = true → x.st = .run →
        w'.lanes[l]? = some (if e.taking.getLsbD l then { x with st := .park p.2 (f.imm.extractLsb' 0 16) 0 }
          else { x with pc := x.pc + 16 })

/-- R88, R319, R440: in the sequencer and in a service warp the record is posted to a service ring, ADDR holding IMM[15:0]. -/
def Sys2Proof.Clause.TrapPostsOutsideUserWarps : Prop :=
  ∀ p ∈ [(Instr.trap, 0x10), (Instr.brk, 0x11)], ∀ s f e s1, Issues s (p.1 f) f e s1 → e.w.kind ≠ .user → e.taking ≠ 0 →
    ∃ t w' r, exec (p.1 f) s = .next t ∧ aget t.warps e.key = some w' ∧ t.mem = s.mem ∧ e.SameRegs w' ∧
      (t.die e.w.ringDie).postq = (s.die e.w.ringDie).postq ++ [r] ∧ r.code = p.2 ∧ r.pc = e.pc ∧ r.lanes = e.taking ∧
      r.addr = (f.imm.extractLsb' 0 16).zeroExtend 64 ∧ r.handle = s.nextHandle ∧
      ∀ l x, l < 32 → e.w.lanes[l]? = some x → e.taking.getLsbD l = true →
        w'.lanes[l]? = some { x with st := .park p.2 (f.imm.extractLsb' 0 16) s.nextHandle }

/-- R88, R319, R440: trap and brk park every taking lane at the instruction, with the number; outside user warps they are
posted. -/
def Obligations.TrapsAndBreaks : Prop :=
  Clause.TrapAndBreakPark ∧ Clause.TrapPostsOutsideUserWarps

/-! ### Groups 0x2 and 0x3: vector integer and logic instructions -/

/-- R102: sums, products, differences, minimum, maximum of exact integers, wrapped or with SAT clamped once; `vmulh` gives bits
[2w - 1 : w]; the result format is ADDR for a sum with an ADDR source, I64 for a product of ADDR, unsigned for `vabsd`. -/
def Sys2Proof.Clause.VectorIntegerArithmetic : Prop :=
  let ab : Fields → List Src := fun f => [f.a, f.b]
  let n : Nat → List Nat → Nat → Int := fun t v k => toInt t (nth v k)
  let flags : Fields → Nat → List Nat → BitVec 5 := fun _ _ _ => 0
  let sum : Env → Nat → Nat := fun e t => if e.tagOf e.f.a = some 0x0B ∨ e.tagOf e.f.b = some 0x0B then 0x0B else t
  let prod : Env → Nat → Nat := fun _ t => if t = 0x0B then 0x0A else t
  let same : Env → Nat → Nat := fun _ t => t
  CompletesLanes .vadd ab Env.mixFmt Env.intOk sum (fun f t v => fitInt t (mdB f 0) (n t v 0 + n t v 1)) flags ∧
  CompletesLanes .vsub ab Env.mixFmt Env.intOk sum (fun f t v => fitInt t (mdB f 0) (n t v 0 - n t v 1)) flags ∧
  CompletesLanes .vmul ab Env.mixFmt Env.intOk prod (fun f t v => fitInt t (mdB f 0) (n t v 0 * n t v 1)) flags ∧
  CompletesLanes .vmulh ab Env.mixFmt Env.intOk prod
    (fun _ t v => wrapN (n t v 0 * n t v 1 / (2 ^ fmtWidth t : Nat)) (fmtWidth t)) flags ∧
  CompletesLanes .vmad (fun f => [f.a, f.b, f.c]) Env.mixFmt Env.intOk prod
    (fun f t v => fitInt t (mdB f 0) (n t v 0 * n t v 1 + n t v 2)) flags ∧
  CompletesLanes .vabsd ab Env.mixFmt Env.intOk (fun _ t => intFmt (fmtWidth t) false)
    (fun _ t v => (n t v 0 - n t v 1).natAbs) flags ∧
  CompletesLanes .vmin ab Env.mixFmt Env.intOk same (fun _ t v => if n t v 0 ≤ n t v 1 then nth v 0 else nth v 1) flags ∧
  CompletesLanes .vmax ab Env.mixFmt Env.intOk same (fun _ t v => if n t v 0 ≤ n t v 1 then nth v 1 else nth v 0) flags ∧
  CompletesLanes .vabs (fun f => [f.a]) Env.mixFmt Env.intOk same (fun f t v => fitInt t (mdB f 0) (n t v 0).natAbs) flags ∧
  CompletesLanes .vneg (fun f => [f.a]) Env.mixFmt Env.intOk same (fun f t v => fitInt t (mdB f 0) (-n t v 0)) flags

/-- R103, R104: `vmadw` doubles the width, taking the low or with HI the high half of the sub-elements; `vdot` adds up groups of
products into 32 bits, or 64 bits for 16-bit elements; C is added and the result fits once. -/
def Sys2Proof.Clause.VectorWidening : Prop :=
  (let td : Nat → Nat := fun w => 2 * w
   CompletesV .vmadw (fun e _ => e.wideOk 32 td) (fun e => e.wideR td) allSubs
     (fun e s1 l j =>
       let k := j + (if mdB e.f 4 then nSub (e.wideR td) else 0)
       fitInt (e.wideR td) (mdB e.f 0)
         (toInt e.wideA (e.el s1 e.wideA e.f.a l k) * toInt e.wideB (e.el s1 e.wideB e.f.b l k)
           + toInt (e.wideR td) (e.el s1 (e.wideR td) e.f.c l j)))
     noFlags) ∧
  (let td : Nat → Nat := fun w => if w = 16 then 64 else 32
   CompletesV .vdot (fun e _ => e.wideOk 16 td) (fun e => e.wideR td) allSubs
     (fun e s1 l j =>
       let g := nSub e.wideA / nSub (e.wideR td)
       fitInt (e.wideR td) (mdB e.f 0)
         (((List.range g).map fun i =>
             toInt e.wideA (e.el s1 e.wideA e.f.a l (j * g + i)) * toInt e.wideB (e.el s1 e.wideB e.f.b l (j * g + i))).sum
           + toInt (e.wideR td) (e.el s1 (e.wideR td) e.f.c l j)))
     noFlags)

/-- R102, R103, R104: Results, tags and frame of the vector integer instructions. -/
def Obligations.VectorIntegers : Prop :=
  Clause.VectorIntegerArithmetic ∧ Clause.VectorWidening

/-- R105, R106: the logic instructions act bit by bit on sources of one width; `vlop3` looks each bit up at 4a + 2b + c. -/
def Sys2Proof.Clause.VectorLogic : Prop :=
  let ab : Fields → List Src := fun f => [f.a, f.b]
  let flags : Fields → Nat → List Nat → BitVec 5 := fun _ _ _ => 0
  let same : Env → Nat → Nat := fun _ t => t
  CompletesLanes .vand ab Env.opFmt Env.bitsOk same (fun _ _ v => nth v 0 &&& nth v 1) flags ∧
  CompletesLanes .vor ab Env.opFmt Env.bitsOk same (fun _ _ v => nth v 0 ||| nth v 1) flags ∧
  CompletesLanes .vxor ab Env.opFmt Env.bitsOk same (fun _ _ v => nth v 0 ^^^ nth v 1) flags ∧
  CompletesLanes .vnot (fun f => [f.a]) Env.opFmt Env.bitsOk same
    (fun _ t v => (~~~BitVec.ofNat (fmtWidth t) (nth v 0)).toNat) flags ∧
  CompletesLanes .vlop3 (fun f => [f.a, f.b, f.c]) Env.opFmt Env.bitsOk same
    (fun f t v => ofBits (fmtWidth t) fun i =>
      f.imm.getLsbD (4 * ((nth v 0).testBit i).toNat + 2 * ((nth v 1).testBit i).toNat + ((nth v 2).testBit i).toNat)) flags

/-- R107: shifts and rotation of a w-bit value by an unsigned count; field extraction and insertion; counts in the unsigned
format of the width. -/
def Sys2Proof.Clause.VectorShiftsAndFields : Prop :=
  let ab : Fields → List Src := fun f => [f.a, f.b]
  let flags : Fields → Nat → List Nat → BitVec 5 := fun _ _ _ => 0
  let same : Env → Nat → Nat := fun _ t => t
  CompletesLanes .vshl ab Env.mixFmt Env.intOk same (fun _ t v => (BitVec.ofNat (fmtWidth t) (nth v 0) <<< nth v 1).toNat) flags ∧
  CompletesLanes .vshr ab Env.mixFmt Env.intOk same (fun _ t v => (BitVec.ofNat (fmtWidth t) (nth v 0) >>> nth v 1).toNat) flags ∧
  CompletesLanes .vsra ab Env.mixFmt Env.intOk same
    (fun _ t v => ((BitVec.ofNat (fmtWidth t) (nth v 0)).sshiftRight (nth v 1)).toNat) flags ∧
  CompletesLanes .vrotl ab Env.mixFmt Env.intOk same
    (fun _ t v => ((BitVec.ofNat (fmtWidth t) (nth v 0)).rotateLeft (nth v 1)).toNat) flags ∧
  CompletesV .vbfx
    (fun e _ =>
      let xs := [e.f.a, e.f.b, e.f.c]
      e.intOk (e.mixFmt xs) xs = true ∧
        e.valueFaults (e.mixFmt xs) (if e.f.a = .imm then xs else xs.filter (· ≠ .imm)) = none)
    (fun e => e.mixFmt [e.f.a, e.f.b, e.f.c]) allSubs
    (fun e s1 l j =>
      let t := e.mixFmt [e.f.a, e.f.b, e.f.c]
      let w := fmtWidth t
      let a := BitVec.ofNat w (e.el s1 t e.f.a l j)
      let pos := if e.f.b = .imm then immN e.f % 256 else e.el s1 t e.f.b l j
      let len := if e.f.c = .imm then immN e.f / 256 % 256 else e.el s1 t e.f.c l j
      let up := w - min len (w - pos)
      if len = 0 ∨ w ≤ pos then 0
      else if fmtSigned t then (((a >>> pos) <<< up).sshiftRight up).toNat else ((a >>> pos) <<< up >>> up).toNat)
    noFlags ∧
  CompletesLanes .vbfi ab Env.opFmt (fun e t xs => fmtIntAddr t && e.sameTags xs) same
    (fun f t v =>
      let w := fmtWidth t
      let pos := immN f % 256
      let len := immN f / 256 % 256
      let m : BitVec w := BitVec.ofNat w (2 ^ min len (w - pos) - 1)
      if len = 0 ∨ w ≤ pos then nth v 0
      else ((BitVec.ofNat w (nth v 0) &&& ~~~(m <<< pos)) ||| ((BitVec.ofNat w (nth v 1) &&& m) <<< pos)).toNat) flags ∧
  CompletesLanes .vpopc (fun f => [f.a]) Env.opFmt (fun _ t _ => fmtIntAddr t) (fun _ t => intFmt (fmtWidth t) false)
    (fun _ t v => (List.range (fmtWidth t)).countP fun i => (nth v 0).testBit i) flags ∧
  CompletesLanes .vclz (fun f => [f.a]) Env.opFmt (fun _ t _ => fmtIntAddr t) (fun _ t => intFmt (fmtWidth t) false)
    (fun _ t v => (List.range (fmtWidth t + 1)).countP fun n => n ≠ 0 ∧ nth v 0 / 2 ^ (fmtWidth t - n) = 0) flags

/-- R105, R106, R107: Results, tags and frame of the vector logic, shift, field and count instructions. -/
def Obligations.VectorLogicAndShifts : Prop :=
  Clause.VectorLogic ∧ Clause.VectorShiftsAndFields

/-- R108 to R110: `vcmp` into a predicate, `vsel` by a predicate's bits, `vmov` and `vmovi`. -/
def Obligations.VectorCompareSelectMove : Prop :=
  (let t : Env → Nat := fun e => e.mixFmt [e.f.a, e.f.b]
   CompletesCmp .vcmp (fun e _ => e.intOk (t e) [e.f.a, e.f.b] = true ∧ e.valueFaults (t e) [e.f.a, e.f.b] = none)
     (fun e => nSub (t e))
     (fun e s1 l j =>
       let a := toInt (t e) (e.el s1 (t e) e.f.a l j)
       let b := toInt (t e) (e.el s1 (t e) e.f.b l j)
       match mdN e.f 16 4 with
       | 0 => a = b
       | 1 => a ≠ b
       | 2 => a < b
       | 3 => a ≤ b
       | 4 => a > b
       | _ => a ≥ b)
     noFlags) ∧
  (let t : Env → Nat := fun e => e.opFmt [e.f.a, e.f.b]
   CompletesV .vsel
     (fun e _ => fmtCodeOk (t e) = true ∧ e.sameTags [e.f.a, e.f.b] = true ∧ e.valueFaults (t e) [e.f.a, e.f.b] = none)
     t allSubs
     (fun e s1 l j => if ((e.q e.f.e.toNat).getD l 0).getLsbD j then e.el s1 (t e) e.f.a l j else e.el s1 (t e) e.f.b l j)
     noFlags) ∧
  CompletesLanes .vmov (fun f => [f.a]) Env.opFmt (fun _ t _ => fmtCodeOk t) (fun _ t => t) (fun _ _ v => nth v 0)
    (fun _ _ _ => 0) ∧
  CompletesV .vmovi (fun e _ => e.valueFaults (mdN e.f 5 5) [e.f.a] = none) (fun e => mdN e.f 5 5) allSubs
    (fun e s1 l j => e.el s1 (mdN e.f 5 5) e.f.a l j) noFlags

/-! ### Groups 0x4 and 0x5: vector float instructions and conversions -/

/-- R111 to R113: float arithmetic on sources of one tag out of F16, BF16, F32 and F64: each active sub-element is rounded once
and raises its own flags. -/
def Sys2Proof.Clause.VectorFloatArithmetic : Prop :=
  let ab : Fields → List Src := fun f => [f.a, f.b]
  let abc : Fields → List Src := fun f => [f.a, f.b, f.c]
  let takes : Env → Nat → List Src → Bool := fun e t xs => fmtFloat16up t && e.sameTags xs
  let td : Env → Nat → Nat := fun _ t => t
  let v : Nat → List Nat → Nat → FVal := fun t xs k => ffDecode (ffOf t) (nth xs k)
  let op (mk : Fields → Instr) (xs : Fields → List Src) (g : Fields → Nat → List Nat → Nat × BitVec 5) : Prop :=
    CompletesLanes mk xs Env.opFmt takes td (fun f t x => (g f t x).1) (fun f t x => (g f t x).2)
  op .vfadd ab (fun f t x => fAdd (ffOf t) (mdN f 1 3) (mdB f 0) (v t x 0) (v t x 1)) ∧
  op .vfsub ab (fun f t x => fAdd (ffOf t) (mdN f 1 3) (mdB f 0) (v t x 0) (fneg (v t x 1))) ∧
  op .vfmul ab (fun f t x => fMul (ffOf t) (mdN f 1 3) (mdB f 0) (v t x 0) (v t x 1)) ∧
  op .vfma abc (fun f t x => fFma (ffOf t) (mdN f 1 3) (mdB f 0) (v t x 0) (v t x 1) (v t x 2)) ∧
  op .vfmin ab (fun _ t x => fMinMax (ffOf t) false (nth x 0) (nth x 1)) ∧
  op .vfmax ab (fun _ t x => fMinMax (ffOf t) true (nth x 0) (nth x 1)) ∧
  op .vfclamp abc (fun _ t x =>
    let y := fMinMax (ffOf t) true (nth x 0) (nth x 1)
    let z := fMinMax (ffOf t) false y.1 (nth x 2)
    (z.1, y.2 ||| z.2)) ∧
  op .vfrnd (fun f => [f.a]) (fun f t x => fIntegral (ffOf t) (mdN f 1 3) (mdB f 0) (v t x 0))

/-- R112, R116, R125: the sign instructions touch the sign bit alone and raise no flag; `vfscale` multiplies by a power of two,
`vbsc` by a block scale, `vfdot2` adds two products to C, each with one rounding. -/
def Sys2Proof.Clause.VectorFloatSignScaleDot : Prop :=
  let l6 : Env → Nat → List Src → Bool := fun _ t _ => fmtFloat t || t == 0x0E
  let same : Env → Nat → Nat := fun _ t => t
  let top : Nat → Nat := fun t => 2 ^ (fmtWidth t - 1)
  let fa : Env → Nat := fun e => e.opFmt [e.f.a]
  let cTag (e : Env) (x : Src) (t : Nat) : Prop := ∀ u, e.tagOf x = some u → u = t
  CompletesLanes .vfabs (fun f => [f.a]) Env.opFmt l6 same (fun _ t x => nth x 0 % top t) (fun _ _ _ => 0) ∧
  CompletesLanes .vfneg (fun f => [f.a]) Env.opFmt l6 same (fun _ t x => nth x 0 ^^^ top t) (fun _ _ _ => 0) ∧
  (let r (e : Env) (s1 : State) (l j : Nat) : Nat × BitVec 5 :=
     let ti := intFmt (fmtWidth (fa e)) true
     fScale (ffOf (fa e)) (mdN e.f 1 3) (mdB e.f 0) (ffDecode (ffOf (fa e)) (e.el s1 (fa e) e.f.a l j))
       (toInt ti (e.el s1 ti e.f.b l j))
   CompletesV .vfscale
     (fun e _ => fmtFloat (fa e) = true ∧ cTag e e.f.b (intFmt (fmtWidth (fa e)) true) ∧
       e.valueFaults (intFmt (fmtWidth (fa e)) true) [e.f.b] = none)
     fa allSubs (fun e s1 l j => (r e s1 l j).1) (fun e s1 l j => (r e s1 l j).2)) ∧
  (let r (e : Env) (s1 : State) (l j : Nat) : Nat × BitVec 5 :=
     fScaleSc8 (ffOf (fa e)) (mdN e.f 1 3) (mdB e.f 0) (ffDecode (ffOf (fa e)) (e.el s1 (fa e) e.f.a l j))
       (toInt 0x0F (e.el s1 0x0F e.f.b l j))
   CompletesV .vbsc
     (fun e _ => fmtFloat (fa e) = true ∧ cTag e e.f.b 0x0F ∧ e.valueFaults 0x0F [e.f.b] = none)
     fa allSubs (fun e s1 l j => (r e s1 l j).1) (fun e s1 l j => (r e s1 l j).2)) ∧
  (let t : Env → Nat := fun e => e.opFmt [e.f.a, e.f.b, e.f.c]
   let r (e : Env) (s1 : State) (l j : Nat) : Nat × BitVec 5 :=
     let k := 2 * j + if mdB e.f 4 then 4 else 0
     let x (y : Src) (k : Nat) : FVal := ffDecode (ffOf (t e)) (e.el s1 (t e) y l k)
     fDot2 (mdN e.f 1 3) (mdB e.f 0) (x e.f.a k) (x e.f.b k) (x e.f.a (k + 1)) (x e.f.b (k + 1))
       (ffDecode ffF32 (e.el s1 0x12 e.f.c l j))
   CompletesV .vfdot2
     (fun e _ => (t e = 0x0C ∨ t e = 0x0D ∨ ((t e = 0x10 ∨ t e = 0x11) ∧ mdB e.f 4 = false)) ∧ cTag e e.f.a (t e) ∧
       cTag e e.f.b (t e) ∧ cTag e e.f.c 0x12 ∧ e.valueFaults (t e) [e.f.a, e.f.b] = none ∧
       e.valueFaults 0x12 [e.f.c] = none)
     (fun _ => 0x12) allSubs (fun e s1 l j => (r e s1 l j).1) (fun e s1 l j => (r e s1 l j).2))

/-- R111 to R113, R112, R116, R125: Results, float flags and frame of the vector float instructions. -/
def Obligations.VectorFloats : Prop :=
  Clause.VectorFloatArithmetic ∧ Clause.VectorFloatSignScaleDot

/-- R114, R115: the outcomes of `vfcmp`: EQ and NE are quiet, the ordered ones false on a NaN and loud; zeros of either sign are
equal; `vfclass` sets the bit of D where IMM has the bit of the value's class. -/
def Obligations.VectorFloatCompareClass : Prop :=
  let t : Env → List Src → Nat := fun e xs => e.opFmt xs
  let ok : Nat → Bool := fun t => fmtFloat t || t == 0x0E
  (let v (e : Env) (s1 : State) (x : Src) (l j : Nat) : FVal :=
     fmtValue (t e [e.f.a, e.f.b]) (e.el s1 (t e [e.f.a, e.f.b]) x l j)
   CompletesCmp .vfcmp
     (fun e _ => ok (t e [e.f.a, e.f.b]) = true ∧ e.sameTags [e.f.a, e.f.b] = true ∧
       e.valueFaults (t e [e.f.a, e.f.b]) [e.f.a, e.f.b] = none)
     (fun e => nSub (t e [e.f.a, e.f.b]))
     (fun e s1 l j =>
       let a := v e s1 e.f.a l j
       let b := v e s1 e.f.b l j
       let nan := isNan a || isNan b
       let eq := !nan && !fLess false a b && !fLess false b a
       match mdN e.f 16 4 with
       | 0 => eq
       | 1 => !eq
       | 2 => !nan && fLess false a b
       | 3 => !nan && !fLess false b a
       | 4 => !nan && fLess false b a
       | 5 => !nan && !fLess false a b
       | 6 => nan
       | _ => !nan)
     (fun e s1 l j =>
       let a := v e s1 e.f.a l j
       let b := v e s1 e.f.b l j
       if (if 2 ≤ mdN e.f 16 4 ∧ mdN e.f 16 4 ≤ 5 then (isNan a || isNan b) = true else a = .nan true ∨ b = .nan true)
       then 1 else 0)) ∧
  (CompletesCmp .vfclass
     (fun e _ => ok (t e [e.f.a]) = true ∧ e.valueFaults (t e [e.f.a]) [e.f.a] = none)
     (fun e => nSub (t e [e.f.a]))
     (fun e s1 l j => e.f.imm.getLsbD (classBit (t e [e.f.a]) (e.el s1 (t e [e.f.a]) e.f.a l j)))
     noFlags)

/-- R118, R119: `vcvt` converts part IMM[3:0] of the source into the format FMT. Where the result has no more sub-elements than
the source, it takes a part of the source; else the source fills a part of the result, and the rest keeps its bits. -/
def Sys2Proof.Clause.ConversionParts : Prop :=
  let ts : Env → Nat := fun e => (e.tagOf e.f.a).getD (mdN e.f 5 5)
  let td : Env → Nat := fun e => mdN e.f 5 5
  let ns : Env → Nat := fun e => nSub (ts e)
  let nd : Env → Nat := fun e => nSub (td e)
  let part : Env → Nat := fun e => immN e.f % 16
  let narrow : Env → Bool := fun e => decide (nd e ≤ ns e)
  let r (e : Env) (s1 : State) (l j : Nat) : Nat × BitVec 5 :=
    convert (ts e) (td e) (mdN e.f 1 3) (mdB e.f 0)
      (e.el s1 (ts e) e.f.a l (if narrow e then part e * nd e + j else j - part e * ns e))
  CompletesV .vcvt
    (fun e _ => fmtConv (ts e) = true ∧ fmtConv (td e) = true ∧
      part e * min (ns e) (nd e) < max (ns e) (nd e))
    td
    (fun e j => if narrow e then decide (part e * nd e + j < ns e)
      else decide (part e * ns e ≤ j ∧ j < part e * ns e + ns e))
    (fun e s1 l j => (r e s1 l j).1) (fun e s1 l j => (r e s1 l j).2)

/-- R120, R121: `vpack` converts A into the low and B into the high half of D; `vunpack` converts the low half of A into D and
the high half into E. -/
def Sys2Proof.Clause.PackAndUnpack : Prop :=
  (let ts : Env → Nat := fun e => e.opFmt [e.f.a, e.f.b]
   let r (e : Env) (s1 : State) (l j : Nat) : Nat × BitVec 5 :=
     convert (ts e) (mdN e.f 5 5) (mdN e.f 1 3) (mdB e.f 0)
       (if j < nSub (ts e) then e.el s1 (ts e) e.f.a l j else e.el s1 (ts e) e.f.b l (j - nSub (ts e)))
   CompletesV .vpack
     (fun e _ => fmtConv (ts e) = true ∧ fmtConv (mdN e.f 5 5) = true ∧ ts e ≠ 0x0E ∧ mdN e.f 5 5 ≠ 0x0E ∧
       e.sameTags [e.f.a, e.f.b] = true ∧ nSub (mdN e.f 5 5) = 2 * nSub (ts e))
     (fun e => mdN e.f 5 5) allSubs (fun e s1 l j => (r e s1 l j).1) (fun e s1 l j => (r e s1 l j).2)) ∧
  (∀ s f e s1, Issues s (.vunpack f) f e s1 →
    let ts := e.opFmt [f.a]
    let td := mdN f 5 5
    let r (off l j : Nat) : Nat × BitVec 5 := convert ts td (mdN f 1 3) (mdB f 0) (e.el s1 ts f.a l (off + j))
    fmtConv ts = true → fmtConv td = true → nSub ts = 2 * nSub td →
    ∃ w' fl sh rd rd' re re', exec (.vunpack f) s = .next (e.after s1 w') ∧ e.Settled w' ∧ e.Advanced w' ∧ e.Raised w' fl ∧
      UnionFlags (nSub td) e.active (fun l j => (r 0 l j).2 ||| (r (nSub td) l j).2) fl ∧
      w'.uregs = e.w.uregs ∧ w'.preds = e.w.preds ∧ w'.bound = e.w.bound ∧
      e.w.vregs[f.d.toNat]? = some rd ∧ e.w.vregs[f.e.toNat]? = some re ∧
      w'.vregs = (e.w.vregs.set f.d.toNat rd').set f.e.toNat re' ∧
      e.VRegIs f.d.toNat td sh e.active (fun l j => (r 0 l j).1) rd rd' ∧
      e.VRegIs f.e.toNat td sh e.active (fun l j => (r (nSub td) l j).1) re re')

/-- R122 to R124: `vtag` copies the bits of each lane whose guard bit 0 is set, tags D with FMT and gives it A's shape where `vmov`
would (without such a lane it changes nothing: log entry 83); `vtagq` gives tag and shape code; `vgen` copies the active
sub-elements and makes D's shape general (with no active sub-element it writes nothing: log entry 33). -/
def Sys2Proof.Clause.TagInstructions : Prop :=
  (∀ s f e s1 n, Issues s (.vtag f) f e s1 → f.a = .v n → fmtCodeOk (e.v n.toNat).tag.toNat = true →
    ∃ w' r r', exec (.vtag f) s = .next (e.after s1 w') ∧ e.Settled w' ∧ e.Advanced w' ∧ e.Raised w' 0 ∧
      w'.uregs = e.w.uregs ∧ w'.preds = e.w.preds ∧ w'.bound = e.w.bound ∧
      e.w.vregs[f.d.toNat]? = some r ∧ w'.vregs = e.w.vregs.set f.d.toNat r' ∧
      (e.taking = 0 → r' = r) ∧
      (e.taking ≠ 0 → ¬ e.Collides (0, f.d.toNat) → r'.tag = BitVec.ofNat 5 (mdN f 5 5) ∧
        r'.shape = e.moveShape (mdN f 5 5) f.a ∧
        ∀ l old, l < 32 → r.lanes[l]? = some old →
          r'.lanes[l]? = some (if e.taking.getLsbD l then (e.v n.toNat).lanes.getD l 0 else old))) ∧
  (∀ s f e s1 n, Issues s (.vtagq f) f e s1 → f.a = .v n → e.taking ≠ 0 → e.w.busy f.d.toNat = false →
    ∃ w', exec (.vtagq f) s = .next (e.after s1 w') ∧ e.Settled w' ∧ e.Advanced w' ∧ e.Raised w' 0 ∧
      e.WritesU w' f.d.toNat
        ((match (e.v n.toNat).shape with | .general => 0#59 | .uniform => 1#59 | .affine _ => 2#59) ++ (e.v n.toNat).tag)) ∧
  (∀ s f e s1, Issues s (.vgen f) f e s1 → fmtCodeOk (e.opFmt [f.a]) = true →
    ∃ w', exec (.vgen f) s = .next (e.after s1 w') ∧ e.Settled w' ∧ e.Advanced w' ∧ e.Raised w' 0 ∧
      e.WritesV w' f.d.toNat (e.opFmt [f.a]) .general e.active fun l j => e.el s1 (e.opFmt [f.a]) f.a l j)

/-- R118 to R124: Results and frame of conversions, packing, tag instructions and generators. What vtag and vgen leave where nothing
is active is the model's choice (log entries 83 and 33). -/
def Obligations.Conversions : Prop :=
  Clause.ConversionParts ∧ Clause.PackAndUnpack ∧ Clause.TagInstructions

/-! ### Groups 0x6 and 0x7: transcendental and cross-lane instructions -/

/-- R128 to R137, R30: a transcendental instruction leaves its result outstanding, with its flags, which stand in FSTAT when it
returns; sources of one tag out of F16, BF16, F32 and F64. -/
def Obligations.TranscendentalResults : Prop :=
  ∀ p ∈ [(Instr.vexp2, TFun.exp2, false), (.vexp, .exp, false), (.vlog2, .log2, false), (.vln, .ln, false),
      (.vsin, .sin, false), (.vcos, .cos, false), (.vatan2, .atan2, true), (.vtanh, .tanh, false), (.vsigm, .sigm, false),
      (.vsilu, .silu, false), (.vgelu, .gelu, false), (.vsqrt, .sqrt, false), (.vrsqrt, .rsqrt, false),
      (.vrcp, .rcp, false), (.vdiv, .div, true)],
    ∀ s f e s1, Issues s (p.1 f) f e s1 →
      let xs := if p.2.2 then [f.a, f.b] else [f.a]
      let t := e.opFmt [f.a]
      fmtFloat16up t = true → e.sameTags xs = true → e.valueFaults t xs = none →
      let x (y : Src) (l j : Nat) : FVal := ffDecode (ffOf t) (e.el s1 t y l j)
      let iter := if mdN f 10 6 = 0 then 24 else mdN f 10 6
      let r (l j : Nat) : Nat × BitVec 5 :=
        tEval p.2.1 (ffOf t) (mdN f 1 3) (mdB f 0) iter (x f.a l j) (x (if p.2.2 then f.b else f.a) l j)
      ∃ w' mask val sh fl ws, exec (p.1 f) s = .next (e.afterFly s1 w') ∧ e.Settled w' ∧ e.Advanced w' ∧ e.SameRegs w' ∧
        e.Flies s1 w' ws fl ∧ (¬ e.someActive (nSub t) → ws = []) ∧
        (e.someActive (nSub t) → ws = [.v f.d.toNat mask val (BitVec.ofNat 5 t) sh]) ∧
        UnionFlags (nSub t) e.active (fun l j => (r l j).2) fl ∧
        ∀ old : VReg, SubWritten t e.active (fun l j => (r l j).1) old (old.patch mask val (BitVec.ofNat 5 t) sh)

/-- R42, R139 to R141: `vred` and `vscan` leave D and E outstanding whatever the guard: E is all ones in the issuing lanes when some
sub-element took part, else zero. For every OPR and format `vred` delivers the root of the tree over 32 * n leaves, and `vscan` its
leaf's prefix, inclusive or with EXCL exclusive, each delivered value fitted once, to every sub-element of every issuing lane; the
flags are those of all nodes, of the prefixes' own combinations and of the delivered values. An integer `vred` thereby delivers the
exact sum, minimum, maximum, or the bitwise combination of the active sub-elements. (An E4M3 node that overflows: log entry 117.) -/
def Sys2Proof.Clause.Reductions : Prop :=
  ∀ mk ∈ [Instr.vred, .vscan], ∀ s f e s1, Issues s (mk f) f e s1 →
    let t := e.opFmt [f.a]
    oprFmt (modOpr f) t = true → e.valueFaults t [f.a] = none →
    ∃ w' mask val sh qm qv fl, exec (mk f) s = .next (e.afterFly s1 w') ∧ e.Settled w' ∧ e.Advanced w' ∧ e.SameRegs w' ∧
      e.Flies s1 w' [.v f.d.toNat mask val (BitVec.ofNat 5 t) sh, .q f.e.toNat qm qv] fl ∧
      (∀ l < 32, qm.getD l 0 = if e.lanes.getLsbD l then 0xFFFF else 0) ∧
      ((∃ l < 32, ∃ j < nSub t, e.active l j = true) → ∀ l < 32, qv.getD l 0 = 0xFFFF) ∧
      ((∀ l < 32, ∀ j < nSub t, e.active l j = false) → ∀ l < 32, qv.getD l 0 = 0) ∧
      (let op := modOpr f
       let g := oprStep op (mdN f 1 3) t
       let m := 5 + (nSub t).log2
       let v (l j : Nat) : Int × BitVec 5 :=
         if mk f = .vred f then (treeNode g (e.leaf s1 op t) m 0, 0)
         else
           (treePrefix g (e.leaf s1 op t) (l * nSub t + j + if mdB f 4 then 0 else 1) (m + 1) (m + 1)).getD (oprIdentity op t, 0)
       let out (l j : Nat) : Nat × BitVec 5 := deliver op t (mdB f 0) (v l j).1
       (∀ old : VReg, SubWritten t (fun l _ => e.lanes.getLsbD l) (fun l j => (out l j).1) old
          (old.patch mask val (BitVec.ofNat 5 t) sh)) ∧
       (∀ i, fl.getLsbD i = true ↔
         (∃ b < m, ∃ j < 2 ^ (m - 1 - b),
           (g (treeNode g (e.leaf s1 op t) b (2 * j)) (treeNode g (e.leaf s1 op t) b (2 * j + 1))).2.getLsbD i = true) ∨
         ∃ l < 32, e.lanes.getLsbD l = true ∧ ∃ j < nSub t, ((v l j).2 ||| (out l j).2).getLsbD i = true)) ∧
      (mk f = .vred f → modOpr f < 8 → ∀ old : VReg,
        let actives := (List.range 32).flatMap fun l =>
          ((List.range (nSub t)).filter (e.active l)).map fun j => e.el s1 t f.a l j
        let ints := actives.map (toInt t)
        SubWritten t (fun l _ => e.lanes.getLsbD l)
          (fun _ _ => match modOpr f with
            | 0 => fitInt t (mdB f 0) ints.sum
            | 2 => wrapN (ints.foldl min (oprIdentity 2 t)) (fmtWidth t)
            | 3 => wrapN (ints.foldl max (oprIdentity 3 t)) (fmtWidth t)
            | 4 => actives.foldl (· &&& ·) (2 ^ fmtWidth t - 1)
            | 5 => actives.foldl (· ||| ·) 0
            | _ => actives.foldl (· ^^^ ·) 0)
          old (old.patch mask val (BitVec.ofNat 5 t) sh))

/-- R143 to R146: where each cross-lane move reads its source: another lane by the control word of `vshfl`, a position of the
whole warp for `vbcast` and `vrotx`, a sub-element of the lane itself for `vperm`. -/
def Sys2Proof.Clause.CrossLaneMoves : Prop :=
  let t : Env → Nat := fun e => e.opFmt [e.f.a]
  let n : Env → Nat := fun e => nSub (t e)
  let a (e : Env) (s1 : State) (l j : Nat) : Nat := e.el s1 (t e) e.f.a l j
  let pos (e : Env) (s1 : State) (l j : Nat) : Nat :=
    match e.f.b with
    | .u k => (e.u k.toNat).toNat % 2 ^ 32
    | .sp c => special s1 e.w c.toNat l j % 2 ^ 32
    | _ => e.f.imm.toNat
  let ok (e : Env) : Prop := fmtCodeOk (t e) = true ∧ e.valueFaults (t e) ([e.f.b].filter (· ≠ .imm)) = none
  CompletesV .vshfl (fun e _ => ok e ∧ ∀ u, e.tagOf e.f.b = some u → fmtIntAddr u = true) t allSubs
    (fun e s1 l j =>
      let x := e.shflWord s1 l j
      let k := x % 32
      let src := match mdN e.f 0 2 with
        | 0 => k
        | 1 => if k ≤ l then l - k else l
        | 2 => if l + k < 32 then l + k else l
        | _ => l ^^^ k
      a e s1 src ((j + x / 256 % 16) % n e)) noFlags ∧
  CompletesV .vbcast (fun e _ => ok e) t allSubs
    (fun e s1 l j => let p := pos e s1 l j % (32 * n e); a e s1 (p / n e) (p % n e)) noFlags ∧
  CompletesV .vrotx (fun e _ => ok e) t allSubs
    (fun e s1 l j => let p := (l * n e + j + pos e s1 l j) % (32 * n e); a e s1 (p / n e) (p % n e)) noFlags ∧
  CompletesV .vperm
    (fun e _ => fmtCodeOk (t e) = true ∧ e.tagOf e.f.b = some (if n e ≤ 8 then 0x03 else 0x01)) t allSubs
    (fun e s1 l j =>
      let b := match e.f.b with
        | .v m => subEl (if n e ≤ 8 then 0x03 else 0x01) ((e.v m.toNat).lanes.getD l 0) j
        | _ => 0
      if b < n e then a e s1 l b else 0) noFlags

/-- R139 to R141, R143 to R146: Reductions, scans, shuffles, broadcasts, permutations and rotations across lanes. -/
def Obligations.LaneMoves : Prop :=
  Clause.Reductions ∧ Clause.CrossLaneMoves

/-- R147, R46: `vvote` over the taking lanes: any, all, or all equal, into every bit of D of each taking lane; with the ballot the
uniform register E holds the taking lanes whose bit is set. It has no effect where no guard bit is set. -/
def Sys2Proof.Clause.VoteOutcomes : Prop :=
  MovesOn .vvote (fun e _ => ¬ e.someActive 16) ∧
  ∀ s f e s1 n, Issues s (.vvote f) f e s1 → f.a = .v n → e.someActive 16 →
    (mdB f 2 = true → e.w.busy f.e.toNat = false) →
    let bit (l : Nat) : Prop := ((e.q n.toNat).getD l 0).getLsbD 0 = true
    ∃ w' r m, exec (.vvote f) s = .next (e.after s1 w') ∧ e.Settled w' ∧ e.Advanced w' ∧ e.Raised w' 0 ∧
      (r = true ↔ match mdN f 0 2 with
        | 0 => ∃ l < 32, e.taking.getLsbD l = true ∧ bit l
        | 1 => ∀ l < 32, e.taking.getLsbD l = true → bit l
        | _ => (∀ l < 32, e.taking.getLsbD l = true → bit l) ∨ ∀ l < 32, e.taking.getLsbD l = true → ¬ bit l) ∧
      (∀ l < 32, m.getLsbD l = true ↔ (e.taking.getLsbD l = true ∧ bit l)) ∧
      e.WritesQ { w' with uregs := e.w.uregs, bound := e.w.bound } f.d.toNat
        (fun l => if e.taking.getLsbD l then 0xFFFF else 0) (fun _ => if r then 0xFFFF else 0) ∧
      (mdB f 2 = false → w'.uregs = e.w.uregs) ∧
      (mdB f 2 = true → ¬ e.Collides (1, f.e.toNat) → w'.uregs = e.w.uregs.set f.e.toNat ((m : BitVec 32).zeroExtend 64))

/-- R148: `vmatch` gives each taking lane the mask of taking lanes with its own 64 bits, and the lowest of them in bits [63:32];
E is set where all taking lanes agree. Without a taking lane nothing is written (log entry 83). -/
def Sys2Proof.Clause.MatchOutcomes : Prop :=
  (∀ s f e s1 n, Issues s (.vmatch f) f e s1 → f.a = .v n → fmtCodeOk (e.v n.toNat).tag.toNat = true → e.taking = 0 →
    ∃ w', exec (.vmatch f) s = .next (e.after s1 w') ∧ e.Quiet w') ∧
  ∀ s f e s1 n, Issues s (.vmatch f) f e s1 → f.a = .v n → fmtCodeOk (e.v n.toNat).tag.toNat = true → e.taking ≠ 0 →
    ∃ w' r r' q, exec (.vmatch f) s = .next (e.after s1 w') ∧ e.Settled w' ∧ e.Advanced w' ∧ e.Raised w' 0 ∧
      w'.uregs = e.w.uregs ∧ w'.bound = e.w.bound ∧
      e.w.vregs[f.d.toNat]? = some r ∧ w'.vregs = e.w.vregs.set f.d.toNat r' ∧
      (¬ e.Collides (0, f.d.toNat) → r'.tag = 0x07 ∧ r'.shape = .general ∧
       (∀ l old, l < 32 → r.lanes[l]? = some old → e.taking.getLsbD l = true →
        ∃ x : Word, r'.lanes[l]? = some x ∧
          (∀ k < 32, x.getLsbD k = true ↔ (e.taking.getLsbD k = true ∧ e.lane64 n.toNat k = e.lane64 n.toNat l)) ∧
          (x >>> 32).toNat < 32 ∧ x.getLsbD (x >>> 32).toNat = true ∧ ∀ k < (x >>> 32).toNat, x.getLsbD k = false) ∧
       ∀ l old, l < 32 → r.lanes[l]? = some old → e.taking.getLsbD l = false → r'.lanes[l]? = some old) ∧
      e.WritesQ { w' with vregs := e.w.vregs } f.e.toNat (fun l => if e.taking.getLsbD l then 0xFFFF else 0) q ∧
      ∀ l < 32, e.taking.getLsbD l = true →
        ((∀ k < 32, e.taking.getLsbD k = true → e.lane64 n.toNat k = e.lane64 n.toNat l) → q l = 0xFFFF) ∧
        ((∃ k < 32, e.taking.getLsbD k = true ∧ e.lane64 n.toNat k ≠ e.lane64 n.toNat l) → q l = 0)

/-- R147, R148: vvote and vmatch: the outcomes over the taking lanes. -/
def Obligations.VotesAndMatches : Prop :=
  Clause.VoteOutcomes ∧ Clause.MatchOutcomes

/-- R149: the predicate instructions act on the bits whose guard bits are set; `ppopc` counts the set bits of A under the guard
over the issuing lanes, whatever the guards, into a uniform register. -/
def Obligations.PredicateInstructions : Prop :=
  (let op (mk : Fields → Instr) (g : PBits → PBits → PBits) : Prop :=
     ∀ s f e s1, Issues s (mk f) f e s1 →
       ∃ w', exec (mk f) s = .next (e.after s1 w') ∧ e.Settled w' ∧ e.Advanced w' ∧ e.Raised w' 0 ∧
         e.WritesQ w' f.d.toNat e.guard fun l => g (e.pred f.a l) (e.pred f.b l)
   op .pand (fun a b => a &&& b) ∧ op .por (fun a b => a ||| b) ∧ op .pxor (fun a b => a ^^^ b) ∧
     op .pnot (fun a _ => ~~~a) ∧ op .pmov (fun a _ => a)) ∧
  (∀ s f e s1, Issues s (.ppopc f) f e s1 → e.w.busy f.d.toNat = false →
    ∃ w', exec (.ppopc f) s = .next (e.after s1 w') ∧ e.Settled w' ∧ e.Advanced w' ∧ e.Raised w' 0 ∧
      e.WritesU w' f.d.toNat (BitVec.ofNat 64 ((List.range 32).map fun l =>
        if e.lanes.getLsbD l then (List.range 16).countP fun j => (e.pred f.a l &&& e.guard l).getLsbD j else 0).sum))

/-! ### Groups 0x8 and 0x9: memory and atomics

What a statement says of memory and of values read from it holds in a machine whose write-backs succeed (`connected`): a line that
another access evicts, and whose write-back fails, is lost (R371, R387). -/

/-- R153, R158, R160: where every lane's access passes its checks, `ld` and `ldb` leave one and four registers from D on
outstanding, whose active sub-elements are the little-endian bytes at the lane's address; a guard that is zero throughout leaves
none; memory and every other warp stay as they are. -/
def Sys2Proof.Clause.VectorLoads : Prop :=
  ∀ p ∈ [(Instr.ld, 1), (.ldb, 4)], ∀ s f e s1, Issues s (p.1 f) f e s1 → e.baseOk → e.bucketOpen s1 (nSub (mdN f 0 5)) →
    let t := mdN f 0 5
    let swz := mdN f 5 3
    let acc := { Acc.load with types := fmtTypes t }
    let xs := e.laneAccs s1 t p.2
    (∀ x ∈ xs, ∃ ls, s1.grants (e.who s1) acc (elSize t) x ls) →
    ∃ t' w' id ws, ∃ mask val : Nat → List Word, exec (p.1 f) s = .next t' ∧ aget t'.warps e.key = some w' ∧
      OtherWarps s t' e.key ∧ (s.connected → SameBytes s t') ∧ t'.cur = none ∧ e.Settled w' ∧ e.Advanced w' ∧ e.SameRegs w' ∧
      w'.pending = e.w.pending ++ [(id, 0, ws)] ∧ (¬ e.someActive (nSub t) → ws = []) ∧
      (e.someActive (nSub t) → ws = (List.range p.2).map fun k =>
        RegWrite.v (f.d.toNat + k) (mask k) (val k) (BitVec.ofNat 5 t) .general) ∧
      ∀ k < p.2, ∃ x : Nat → Word,
        (∀ old : VReg, SubWritten t e.active (fun l j => subEl t (x l) j) old
          (old.patch (mask k) (val k) (BitVec.ofNat 5 t) .general)) ∧
        ∀ y ∈ xs, ∀ ls, s1.grants (e.who s1) acc (elSize t) y ls → inMemory ls (y.offs.map (vaAdd y.va)) → s.connected →
          ∀ i < 8, 8 * k + i ∈ y.offs →
            (x y.lane).extractLsb' (8 * i) 8 = memGet s.mem (keyOf ls swz (vaAdd y.va (8 * k + i)))

/-- R154, R158: a lane whose access fails a check parks at the instruction with that check's code, ALIGN before the others; the
other lanes go on; memory stays as it is. -/
def Sys2Proof.Clause.LoadFaultsPark : Prop :=
  ∀ p ∈ [(Instr.ld, 1), (.ldb, 4)], ∀ s f e s1, Issues s (p.1 f) f e s1 → e.baseOk → e.bucketOpen s1 (nSub (mdN f 0 5)) →
    let t := mdN f 0 5
    let acc := { Acc.load with types := fmtTypes t }
    let xs := e.laneAccs s1 t p.2
    (∀ x ∈ xs, ∀ ls, s1.transAll (e.who s1) acc (x.offs.map (vaAdd x.va)) = .inr ls → s1.anyReset (e.who s1) ls = false) →
    ∃ t' w', exec (p.1 f) s = .next t' ∧ aget t'.warps e.key = some w' ∧ (s.connected → SameBytes s t') ∧ e.SameRegs w' ∧
      ∀ x ∈ xs, ∀ y, e.w.lanes[x.lane]? = some y → y.st = .run →
        (x.va % elSize t ≠ 0 → ∃ h, w'.lanes[x.lane]? = some { y with st := .park 0x04 0 h }) ∧
        (x.va % elSize t = 0 → ∀ c a, s1.transAll (e.who s1) acc (x.offs.map (vaAdd x.va)) = .inl (c, a) →
          ∃ h, w'.lanes[x.lane]? = some { y with st := .park c 0 h }) ∧
        (x.va % elSize t = 0 → ∀ ls, s1.transAll (e.who s1) acc (x.offs.map (vaAdd x.va)) = .inr ls →
          w'.lanes[x.lane]? = some { y with pc := y.pc + 16 })

/-- R162: `ldnf` parks a lane on ALIGN alone: every other fault makes the lane's loaded value zero and clears E in the lane,
which a lane that loads sets. -/
def Sys2Proof.Clause.NonFaultingLoad : Prop :=
  ∀ s f e s1, Issues s (.ldnf f) f e s1 → e.baseOk → e.bucketOpen s1 (nSub (mdN f 0 5)) →
    let t := mdN f 0 5
    let acc := { Acc.load with types := fmtTypes t }
    let xs := e.laneAccs s1 t 1
    (∀ x ∈ xs, x.va % elSize t = 0) →
    (∀ x ∈ xs, ∀ ls, s1.transAll (e.who s1) acc (x.offs.map (vaAdd x.va)) = .inr ls → s1.anyReset (e.who s1) ls = false) →
    ∃ t' w' id ws mask val qm qv, exec (.ldnf f) s = .next t' ∧ aget t'.warps e.key = some w' ∧ OtherWarps s t' e.key ∧
      (s.connected → SameBytes s t') ∧ e.Settled w' ∧ e.Advanced w' ∧ e.SameRegs w' ∧
      w'.pending = e.w.pending ++ [(id, 0, ws ++ [RegWrite.q f.e.toNat qm qv].filter fun rw => !rw.nothing)] ∧
      (¬ e.someActive (nSub t) → ws = []) ∧
      (e.someActive (nSub t) → ws = [.v f.d.toNat mask val (BitVec.ofNat 5 t) .general]) ∧
      ∀ x ∈ xs,
        (∀ c a, s1.transAll (e.who s1) acc (x.offs.map (vaAdd x.va)) = .inl (c, a) →
          qm.getD x.lane 0 = 0xFFFF ∧ qv.getD x.lane 0 = 0 ∧ val.getD x.lane 0 = 0) ∧
        (∀ ls, s1.transAll (e.who s1) acc (x.offs.map (vaAdd x.va)) = .inr ls → (e.guard x.lane).getLsbD 0 = true →
          qm.getD x.lane 0 = 0xFFFF ∧ qv.getD x.lane 0 = 0xFFFF)

/-- R153, R154, R158, R160, R162: Vector loads read each lane's bytes; a lane that fails a check parks; ldnf reads zero there.
-/
def Obligations.LoadsOfLanes : Prop :=
  Clause.VectorLoads ∧ Clause.LoadFaultsPark ∧ Clause.NonFaultingLoad

/-- R151, R159, R160, R363: where every lane's access of a GLOBAL, CAP, HOST or SPAD target passes its checks and every first write
finds a way, `st` and `stb` complete; no register changes, memory takes the lanes' bytes at their addresses, in ascending lane order,
and every other byte reads as before. -/
def Sys2Proof.Clause.VectorStores : Prop :=
  ∀ p ∈ [(Instr.st, 1), (.stb, 4)], ∀ s f e s1, Issues s (p.1 f) f e s1 → e.baseOk → e.bucketOpen s1 (nSub e.storeFmt) →
    (p.1 f = .stb f → e.quadTags = true) →
    let t := e.storeFmt
    let acc := { Acc.store with types := fmtTypes t }
    t ≠ 0 → e.valueFault t f.c = none →
    ∀ xs : List (LaneAcc × Lines), xs.map Prod.fst = e.laneAccs s1 t p.2 →
      (∀ x ∈ xs, s1.grants (e.who s1) acc (elSize t) x.1 x.2) →
      ∀ s2, (e.claimLanes s1 xs s1).map (e.putLanes s1 t xs) = .ok s2 →
        (∀ x ∈ xs, inMemory x.2 (x.1.offs.map (vaAdd x.1.va))) →
          ∃ w', exec (p.1 f) s = .next (e.after s2 w') ∧ OtherWarps s s2 e.key ∧ e.Settled w' ∧ e.Advanced w' ∧
            e.SameRegs w' ∧ e.Raised w' 0 ∧
            (s.connected → (∀ x ∈ xs, noChecksum x.2) →
              s2.mem = memSetAll s.mem (xs.flatMap fun x => x.1.offs.map fun i =>
                (keyOf x.2 (mdN f 5 3) (vaAdd x.1.va i),
                 ((e.dataWord s1 t x.1.lane (i / 8)).extractLsb' (8 * (i % 8)) 8 : Byte))) ∧
              SameBytesBut s s2 (xs.flatMap fun x => x.1.offs.map fun i => keyOf x.2 (mdN f 5 3) (vaAdd x.1.va i)))

/-- R159, R151: a vector store into scratchpads changes nothing of the machine but the bytes of the lanes, written in ascending lane
order, and needs no other condition. -/
def Sys2Proof.Clause.ScratchpadStores : Prop :=
  ∀ p ∈ [(Instr.st, 1), (.stb, 4)], ∀ s f e s1, Issues s (p.1 f) f e s1 → e.baseOk → e.bucketOpen s1 (nSub e.storeFmt) →
    (p.1 f = .stb f → e.quadTags = true) →
    let t := e.storeFmt
    let acc := { Acc.store with types := fmtTypes t }
    let swz := mdN f 5 3
    t ≠ 0 → e.valueFault t f.c = none →
    ∀ xs : List (LaneAcc × Lines), xs.map Prod.fst = e.laneAccs s1 t p.2 →
      (∀ x ∈ xs, s1.grants (e.who s1) acc (elSize t) x.1 x.2) →
      (∀ x ∈ xs, ∀ i ∈ x.1.offs, ∃ k, placeOf x.2 (vaAdd x.1.va i) = .mem k ∧ isSpadKey k = true ∧
        isSpadKey (keyOf x.2 swz (vaAdd x.1.va i)) = true ∧
        s1.reaches (e.who s1).die (keyOf x.2 swz (vaAdd x.1.va i)) = true) → (∀ x ∈ xs, noChecksum x.2) →
      (∀ x ∈ xs, ∀ l ∈ x.2, ∀ y, l.2.2 = some y → y.type ≠ tGLOBAL) →
      ∃ w', exec (p.1 f) s = .next (e.after (s1.write (xs.flatMap fun x => x.1.offs.map fun i =>
          (keyOf x.2 swz (vaAdd x.1.va i),
           ((e.dataWord s1 t x.1.lane (i / 8)).extractLsb' (8 * (i % 8)) 8 : Byte)))) w') ∧
        e.Settled w' ∧ e.Advanced w' ∧ e.SameRegs w' ∧ e.Raised w' 0

/-- R151, R159, R160: Vector stores write the active sub-elements' bytes at their addresses, of every kind of memory, and no other
byte. -/
def Obligations.StoresOfLanes : Prop :=
  Clause.VectorStores ∧ Clause.ScratchpadStores

/-- R161, R55: `ldu` loads once, through the leading lane, an element of 8 to 64 bits and leaves it outstanding for register D,
extended by the signedness of the format (an SC8 byte by zeros: log entry 97); a load of a register page takes the register's
bytes (R323). -/
def Sys2Proof.Clause.UniformLoad : Prop :=
  ∀ s f e s1 l, Issues s (.ldu f) f e s1 → e.leading = some l → e.w.busy f.d.toNat = false → e.bucketOpen s1 →
    let t := mdN f 0 5
    let n := fmtWidth t / 8
    let va := e.va s1 0 l
    ∀ ls, s1.grantsOne (e.who s1) { Acc.load with types := fmtTypes t } va n ls →
      ∃ t' w' id x, exec (.ldu f) s = .next t' ∧ aget t'.warps e.key = some w' ∧ OtherWarps s t' e.key ∧
        (s.connected → SameBytes s t') ∧
        t'.cur = none ∧ e.Settled w' ∧ e.Advanced w' ∧ w'.uregs = e.w.uregs ∧ w'.vregs = e.w.vregs ∧ w'.preds = e.w.preds ∧
        w'.bound = adel e.w.bound f.d.toNat ∧
        w'.pending = e.w.pending ++ [(id, 0, [.u f.d.toNat
          (if fmtSigned t && t != 0x0F then (BitVec.ofNat (fmtWidth t) x).signExtend 64 else BitVec.ofNat 64 x)])] ∧
        (inMemory ls (vaRange va n) → x = s1.numberAt ls (mdN f 5 3) va n) ∧
        (∀ p g o, placeOf ls va = .mmio p g o → n = 8 → x = s1.readReg p g o % 2 ^ 64)

/-- R161, R323: `stu` stores once, through the leading lane, the low bits of its operand; the bytes at the address take it, no other
byte of memory and no register changes; a register page that a route reaches takes the write. -/
def Sys2Proof.Clause.UniformStore : Prop :=
  ∀ s f e s1 l, Issues s (.stu f) f e s1 → e.leading = some l → e.bucketOpen s1 →
    let t := mdN f 0 5
    let n := fmtWidth t / 8
    let va := e.va s1 0 l
    e.valueFault t f.c = none →
    ∀ ls, s1.grantsOne (e.who s1) { Acc.store with types := fmtTypes t } va n ls →
      (inMemory ls (vaRange va n) →
        ∀ s2, s1.storeNum (e.who s1) ls (mdN f 5 3) 0 va n (e.el s1 t f.c l 0) = .ok s2 →
          ∃ w', exec (.stu f) s = .next (e.after s2 w') ∧ OtherWarps s s2 e.key ∧ e.Settled w' ∧ e.Advanced w' ∧ e.SameRegs w' ∧
            e.Raised w' 0 ∧
            (s.connected → noChecksum ls → s1.storeBad (e.who s1) (keyOf ls (mdN f 5 3) va) = none →
              WroteNumber s s2 ls (mdN f 5 3) va n (e.el s1 t f.c l 0))) ∧
      (∀ p g o, n = 8 → placeOf ls va = .mmio p g o → s1.reachesPage (e.who s1).die g = true →
        exec (.stu f) s = .next (e.finish (s1.mmioWrite p g o 8 (e.el s1 t f.c l 0 % 2 ^ 64)) id))

/-- R55, R161, R323: ldu reads and stu writes once, through the leading lane. How an SC8 byte extends is log entry 97. -/
def Obligations.UniformLoadsAndStores : Prop :=
  Clause.UniformLoad ∧ Clause.UniformStore

/-- R163: `pf`, `cflu` and `cinv` complete on any address, where no dirty line waits for a die in reset (R370); no byte of memory and
no register changes. -/
def Sys2Proof.Clause.CacheInstructions : Prop :=
  ∀ mk ∈ [Instr.pf, .cflu, .cinv], ∀ s f e s1, Issues s (mk f) f e s1 → e.baseOk → e.bucketOpen s1 →
    (∀ d l, s1.dirtyIn d l = true → s1.backHeld l = false) →
    ∃ t' w', exec (mk f) s = .next t' ∧ aget t'.warps e.key = some w' ∧ OtherWarps s t' e.key ∧
      (s.connected → SameBytes s t') ∧ t'.cur = none ∧ e.Settled w' ∧ e.Advanced w' ∧ e.SameRegs w'

/-- R168: `fence` completes, where the token bucket does not hold it; in the model's one coherent memory (log entry 2) there is
nothing to order. -/
def Sys2Proof.Clause.FenceCompletes : Prop :=
  ∀ s f e s1, Issues s (.fence f) f e s1 → e.bucketOpen s1 →
    ∃ w', exec (.fence f) s = .next (e.afterFly s1 w') ∧ e.Settled w' ∧ e.Advanced w' ∧ e.SameRegs w' ∧
      w'.allFlags = e.w.allFlags

/-- R276, R46: while the token bucket of the launch's class is enabled and below zero, every memory-class instruction, and every
instruction of the async/tile class in a warp, whose guard is not zero and whose operands pass its tag checks is held, and nothing
else changes. (That the tag checks and a bound counter come before the bucket, and that a zero guard passes it, is log entry 31.) -/
def Sys2Proof.Clause.EmptyBucketHolds : Prop :=
  let holds (mk : Fields → Instr) (pre : Env → Prop) : Prop := ∀ s f e s1, Issues s (mk f) f e s1 → pre e →
    (∃ b, (s1.pkg (pkgOfCore e.w.core)).buckets[s1.bucketOf e.w]? = some b ∧ b.rate ≠ 0 ∧ b.level < 0) →
    ∃ w', exec (mk f) s = .next (e.after s1 w') ∧ e.HeldBy w' .bucket
  let free (e : Env) : Prop := e.taking ≠ 0 ∧ e.w.busy e.f.d.toNat = false
  let store (e : Env) : Prop := e.baseOk ∧ e.storeFmt ≠ 0 ∧ e.valueFault e.storeFmt e.f.c = none ∧ e.someActive (nSub e.storeFmt)
  let data (e : Env) : Prop := e.taking ≠ 0 ∧ e.valueFault (mdN e.f 0 5) e.f.c = none
  let vec (e : Env) (cas : Bool) : Prop := e.baseOk ∧ data e ∧ (∀ u, e.tagOf e.f.c = some u → atomTag (mdN e.f 0 5) u = true) ∧
    (cas = true → atomTag (mdN e.f 0 5) (e.v e.f.e.toNat).tag.toNat = true)
  (∀ mk ∈ [Instr.ld, .ldb, .ldnf], holds mk fun e => e.baseOk ∧ e.someActive (nSub (mdN e.f 0 5))) ∧
  holds .st store ∧ holds .stb (fun e => store e ∧ e.quadTags = true) ∧
  holds .ldu free ∧ holds .stu data ∧
  (∀ mk ∈ [Instr.pf, .cflu, .cinv], holds mk fun e => e.baseOk ∧ e.taking ≠ 0) ∧
  holds .atom (fun e => vec e false) ∧ holds .red (fun e => vec e false) ∧ holds .acas (fun e => vec e true) ∧
  (∀ mk ∈ [Instr.atomu, .acasu], holds mk fun e => free e ∧ data e) ∧
  (∀ mk ∈ [Instr.fence, .acopyIn, .acopyOut, .acopygIn, .acopygOut, .apf, .aev, .shopen, .publ, .vsave, .vrest, .accsv, .accrs, .tsv,
      .trs, .pcsv, .pcrs], holds mk fun e => e.taking ≠ 0) ∧
  (∀ mk ∈ [Instr.tdef, .tacq, .trdy, .trel, .tstat, .waitz], holds mk fun e => e.taking ≠ 0 ∧ e.isSeq = false) ∧
  holds .kvsum free

/-- R46, R163, R168, R276: pf, cflu, cinv and fence change no byte and no register; an empty token bucket holds every memory-class and
async/tile instruction (what comes before the bucket: log entry 31). -/
def Obligations.CacheAndFence : Prop :=
  Clause.CacheInstructions ∧ Clause.FenceCompletes ∧ Clause.EmptyBucketHolds

/-- R63, R165: the element that an atomic operation leaves. -/
def Sys2Proof.Clause.AtomicOperations : Prop :=
  ∀ t m c, m < 2 ^ fmtWidth t → c < 2 ^ fmtWidth t →
    let lt : Prop := toInt (if t = 0x0B then 0x0A else t) m < toInt (if t = 0x0B then 0x0A else t) c
    let b (x : Nat) : BitVec (fmtWidth t) := BitVec.ofNat (fmtWidth t) x
    atomOp 0 t m c = (b m + b c).toNat ∧ atomOp 1 t m c = (b m - b c).toNat ∧
    (lt → atomOp 2 t m c = m ∧ atomOp 3 t m c = c) ∧ (¬ lt → atomOp 2 t m c = c ∧ atomOp 3 t m c = m) ∧
    atomOp 4 t m c = (b m &&& b c).toNat ∧ atomOp 5 t m c = (b m ||| b c).toNat ∧ atomOp 6 t m c = (b m ^^^ b c).toNat ∧
    atomOp 7 t m c = c ∧
    (let ff := ffOf t
     let v (x : Nat) : FVal := ffDecode ff x
     fmtFloat t = true → atomOp 8 t m c = (fAdd ff 0 false (v m) (v c)).1 ∧
      atomOp 9 t m c = (fMinMax ff false m c).1 ∧ atomOp 10 t m c = (fMinMax ff true m c).1) ∧
    ∀ swap, atomNew none t m c swap = if m = c then swap else m

/-- R165, R166: `atom`, `acas` and `red`: the taking lanes act in ascending order, each on the element that the lanes below it have
left, which becomes the operation's result, and nothing else of memory changes; `atom` and `acas` leave what each lane found
outstanding for sub-element 0 of D. Without a taking lane they write nothing (the tag of D: log entry 83). -/
def Sys2Proof.Clause.VectorAtomics : Prop :=
  ∀ p ∈ [(Instr.atom, true, true), (.acas, false, true), (.red, true, false)],
    ∀ s f e s1, Issues s (p.1 f) f e s1 → e.baseOk → e.bucketOpen s1 →
    let t := mdN f 0 5
    let n := fmtWidth t / 8
    let swz := mdN f 5 3
    let op := if p.2.1 then some (mdN f 14 4) else none
    let new (l m : Nat) : Nat := atomNew op t m (e.el s1 t f.c l 0) (e.el s1 t (.v f.e) l 0)
    (∀ u, e.tagOf f.c = some u → atomTag t u = true) → (p.2.1 = false → atomTag t (e.v f.e.toNat).tag.toNat = true) →
    e.valueFault t f.c = none →
    ∀ xs : List (LaneAcc × Lines), xs.map Prod.fst = e.atomAccs s1 n →
      (∀ x ∈ xs, s1.grantsOne (e.who s1) Acc.atomic x.1.va n x.2) →
      ∀ s0 got, e.claimLanes s1 xs s1 = .ok s0 → e.atomLanes s1 op t xs ([], s0) = .ok got →
        let r := inTurn (xs.map fun x => (x.1.lane, keysAt x.2 swz x.1.va n, new x.1.lane)) s.mem
        let plain : Prop := s.connected ∧ ∀ x ∈ xs, noChecksum x.2
        ∃ t' w', exec (p.1 f) s = .next t' ∧ aget t'.warps e.key = some w' ∧ OtherWarps s t' e.key ∧
          e.Settled w' ∧ e.Advanced w' ∧ e.SameRegs w' ∧
          (plain → t'.mem = r.2 ∧ SameBytesBut s t' (xs.flatMap fun x => keysAt x.2 swz x.1.va n)) ∧
          (p.2.2 = false → w'.pending = e.w.pending) ∧
          (p.2.2 = true → ∃ id ws, w'.pending = e.w.pending ++ [(id, 0, ws)] ∧ (e.taking = 0 → ws = []) ∧
            (e.taking ≠ 0 → ∃ mask val, ws = [RegWrite.v f.d.toNat mask val (BitVec.ofNat 5 t) .general] ∧
              (plain → ∀ old : VReg, SubWritten t (fun l j => e.taking.getLsbD l && j == 0)
                (fun l _ => ((r.1.find? fun y => y.1 == l).map Prod.snd).getD 0) old
                (old.patch mask val (BitVec.ofNat 5 t) .general))))

/-- R167: `atomu` and `acasu` act once, through the leading lane, and leave what the element held outstanding for register D. -/
def Sys2Proof.Clause.UniformAtomics : Prop :=
  ∀ p ∈ [(Instr.atomu, true), (.acasu, false)], ∀ s f e s1 l, Issues s (p.1 f) f e s1 → e.leading = some l →
    e.w.busy f.d.toNat = false → e.bucketOpen s1 →
    let t := mdN f 0 5
    let n := fmtWidth t / 8
    let swz := mdN f 5 3
    let va := e.va s1 0 l
    let op := if p.2 then some (mdN f 14 4) else none
    let new (m : Nat) : Nat := atomNew op t m (e.el s1 t f.c l 0) ((e.u f.e.toNat).toNat % 2 ^ fmtWidth t)
    e.valueFault t f.c = none →
    ∀ ls, s1.grantsOne (e.who s1) Acc.atomic va n ls →
      ∀ r, s1.atomStep (e.who s1) ls swz va n new = .ok r →
        ∃ t' w' id, exec (p.1 f) s = .next t' ∧ aget t'.warps e.key = some w' ∧ OtherWarps s t' e.key ∧
          e.Settled w' ∧ e.Advanced w' ∧ w'.vregs = e.w.vregs ∧ w'.uregs = e.w.uregs ∧ w'.preds = e.w.preds ∧
          w'.pending = e.w.pending ++ [(id, 0, [.u f.d.toNat (uniExt t (s1.numberAt ls swz va n))])] ∧
          (s.connected → noChecksum ls → s1.storeBad (e.who s1) (keyOf ls swz va) = none →
            WroteNumber s t' ls swz va n (new (s1.numberAt ls swz va n)))

/-- R63, R165, R166, R167: Atomics: the element that each operation leaves, and what the vector and the uniform forms read and
write. -/
def Obligations.Atomics : Prop :=
  Clause.AtomicOperations ∧ Clause.VectorAtomics ∧ Clause.UniformAtomics

/-! ### Group 0xA: tiles, copies, engines and shadows -/

/-- R171, R172, R177, R237, R284: what `tdef`, `tacq`, `trdy` and `trel` change of a tile's entry is outstanding from their issue on:
`tdef` defines an EMPTY or undefined tile by its fields; the others move a tile to FILLING, READY and EMPTY, but `trdy` completes at
once and changes nothing while a copy into it is outstanding; while the entry grants less than they ask they are held, and what they
ask stands with the warp (the model's record: log entry 99). `tstat` reads a tile; `waitz` passes a counter at zero and is held at any
other. -/
def Obligations.TileInstructions : Prop :=
  let open_ (e : Env) (s1 : State) : Prop := e.isSeq = true ∨ e.bucketOpen s1
  let n (e : Env) : Nat := e.f.d.toNat
  let named (e : Env) (s1 : State) : Prop := open_ e s1 ∧ e.tileFault s1 (n e) true = none
  CompletesTile .tdef
    (fun e s1 =>
      let a := e.addrPart s1 e.f.a (e.leading.getD 0)
      open_ e s1 ∧ e.tileFault s1 (n e) false = none ∧ e.tableGrants s1 [(n e, 0)] ∧ a % 256 = 0 ∧
        s1.tileFits e.w (e.f.md.extractLsb' 8 2).toNat a ((e.f.md.extractLsb' 10 8).toNat + 1)
          (32 * ((e.f.imm.extractLsb' 0 8).toNat + 1)) (32 * ((e.f.imm.extractLsb' 8 8).toNat + 1)) = true)
    (fun e s1 => .define
      { defd := true, state := 0, psn := false, scl := e.f.imm.getLsbD 22,
        sct := if e.f.imm.getLsbD 22 then e.f.imm.extractLsb' 16 6 else 0, swz := e.f.md.extractLsb' 5 3,
        fmt := e.f.md.extractLsb' 0 5, core := e.f.md.extractLsb' 8 2, rowb := e.f.imm.extractLsb' 8 8,
        pitch := e.f.imm.extractLsb' 0 8, rows := e.f.md.extractLsb' 10 8,
        base := BitVec.ofNat 12 (e.addrPart s1 e.f.a (e.leading.getD 0) / 256),
        nanRow := 0, infRow := 0, nanCol := 0, infCol := 0 }) ∧
  CompletesTile .tacq (fun e s1 => named e s1 ∧ e.tableGrants s1 [(n e, 0)]) (fun _ _ => .enter 1) ∧
  CompletesTile .trdy (fun e s1 => named e s1 ∧ e.tableGrants s1 [(n e, 1)] ∧ s1.copyInto e.w.gid (n e) = false)
    (fun _ _ => .enter 2) ∧
  (∀ s f e s1, Issues s (.trdy f) f e s1 → e.taking ≠ 0 → named e s1 → e.tableGrants s1 [(n e, 1)] →
    s1.copyInto e.w.gid (n e) = true → ∃ w', exec (.trdy f) s = .next (e.after s1 w') ∧ e.Quiet w') ∧
  CompletesTile .trel (fun e s1 => named e s1 ∧ e.tableGrants s1 [(n e, 3)]) (fun _ _ => .enter 0) ∧
  (∀ p ∈ [(Instr.tacq, 0), (.trdy, 1), (.trel, 3)], ∀ s f e s1, Issues s (p.1 f) f e s1 → e.taking ≠ 0 → named e s1 →
    ¬ e.tableGrants s1 [(n e, p.2)] → ∃ w', exec (p.1 f) s = .next (e.after s1 w') ∧
      e.HeldBy { w' with asks := e.w0.asks } .tile ∧ w'.asks = e.w0.asks ++ [(n e, p.2, e.pc)]) ∧
  (∀ (s : State) key idx w x a g, aget s.warps key = some w → w.flights[idx]? = some x → x.tile = some a →
    (∃ l ∈ w.lanes, l.st ≠ .exited) → w.kind ≠ .service → aget s.groups w.gid = some g → a.1 < g.tiles.length →
    s.awaited w x.id = false → g.phase ≠ .stopped →
    (s.resultReturn key idx).tile w.gid a.1 = match a.2 with
      | .define t => t
      | .enter st =>
        let t := s.tile w.gid a.1
        if st = 0 then { t with state := 0, psn := false, nanRow := 0, infRow := 0, nanCol := 0, infCol := 0 }
        else { t with state := st }) ∧
  (∀ s f e s1, Issues s (.tstat f) f e s1 → e.taking ≠ 0 → open_ e s1 → e.tileFault s1 f.e.toNat false = none →
    e.w.busy f.d.toNat = false →
    ∃ w', ∃ x : Word, exec (.tstat f) s = .next (e.afterFly s1 w') ∧ e.Leaves w' [.u f.d.toNat x] ∧
      let t := s1.tile e.w.gid f.e.toNat
      (t.defd = false → x = t.state.zeroExtend 64) ∧
      (t.defd = true → x.extractLsb' 0 2 = t.state ∧ x.getLsbD 2 = true ∧
        (x.getLsbD 3 = true ↔ t.nanRow ≠ 0 ∨ t.nanCol ≠ 0) ∧ (x.getLsbD 4 = true ↔ t.infRow ≠ 0 ∨ t.infCol ≠ 0) ∧
        x.getLsbD 5 = t.psn ∧ x.extractLsb' 6 2 = t.core ∧ x.extractLsb' 8 5 = t.fmt ∧ x.extractLsb' 13 8 = t.rows ∧
        x >>> 21 = 0)) ∧
  MovesOn .waitz (fun e s1 => open_ e s1 ∧ ∀ n, e.f.a = .u n → e.w.busy n.toNat = false) ∧
  (∀ s f e s1 n, Issues s (.waitz f) f e s1 → e.taking ≠ 0 → open_ e s1 → f.a = .u n → e.w.busy n.toNat = true →
    ∃ w', exec (.waitz f) s = .next (e.after s1 w') ∧ e.HeldBy w' .waitz)

/-- R173 to R176: an asynchronous copy between a tile and memory, whose row addresses are a pitch apart or come from a table that
is read at issue, is outstanding from its issue on; its tile fills or drains, and its counter rises by one. -/
def Obligations.AsyncCopies : Prop :=
  ∀ p ∈ [(Instr.acopyIn, false, false), (.acopyOut, true, false), (.acopygIn, false, true), (.acopygOut, true, true)],
    ∀ s f e s1 g l, Issues s (p.1 f) f e s1 → e.leading = some l → e.bucketOpen s1 → aget s1.groups e.w.gid = some g →
      let n := f.d.toNat
      let t := s1.tile e.w.gid n
      let va := e.vaA s1
      let b : Word := BitVec.ofNat 64 (e.addrPart s1 f.b l)
      e.tileFault s1 n true = none → e.tableGrants s1 [(n, if p.2.1 then 3 else 0)] → (p.2.1 = true → t.psn = false) →
      ∀ (rows : List Nat) (lt : Lines),
        (p.2.2 = false → va % 32 = 0 ∧ b.toNat % 32 = 0 ∧
          rows = (List.range t.nRows).map fun i => (BitVec.ofNat 64 va + BitVec.ofNat 64 i * b).toNat) →
        (p.2.2 = true → va % 8 = 0 ∧
          s1.transAll (e.who s1) { Acc.load with cores := some g.cores_ } (vaRange va (8 * t.nRows)) = .inr lt ∧
          s1.anyReset (e.who s1) lt = false ∧
          rows = (List.range t.nRows).map fun i => (BitVec.ofNat 64 (s1.numberAt lt 0 (vaAdd va (8 * i)) 8) + b).toNat) →
        (∀ r ∈ rows, r % 32 = 0) →
        let s2 := if p.2.2 then (s1.getBytes (e.who s1) lt 0 (vaRange va (8 * t.nRows))).2 else s1
        ∀ ls, s2.transAll (e.who s2) (if p.2.1 then Acc.copyOut g.cores_ else Acc.copyIn g.cores_)
            ((g.sectors t rows).map Sector.va) = .inr ls →
          (mdB f 1 = true → ∀ k, aget e.w.bound f.e.toNat = some k → k < 65535) →
          let count := (aget e.w.bound f.e.toNat).getD 0 + 1
          ∃ t' w' id c, exec (p.1 f) s = .next t' ∧ e.Ends s t' w' ∧ (s.connected → SameBytes s t') ∧ e.Settled w' ∧
            e.Advanced w' ∧ w'.vregs = e.w.vregs ∧ w'.preds = e.w.preds ∧ e.Raised w' 0 ∧
            w'.uregs = (if mdB f 1 then e.w.uregs.set f.e.toNat (BitVec.ofNat 64 count) else e.w.uregs) ∧
            w'.bound = (if mdB f 1 then aset e.w.bound f.e.toNat count else e.w.bound) ∧
            aget t'.copies id = some c ∧ c.gid = e.w.gid ∧ c.warp = e.key ∧ c.isOut = p.2.1 ∧ c.tile = n ∧
            c.ctr = (if mdB f 1 then some f.e.toNat else none) ∧ c.sectors = g.sectors t rows ∧
            t'.tile e.w.gid n = { t with state := if p.2.1 then 3 else 1 }

/-- R179: `apf` and `aev` with aligned operands, whose first and last pages and whose barrier object pass their checks, start an
engine and complete. `apf` copies to the address in A, `aev` from it (the direction of `aev` is the model's choice: log entry 89). -/
def Sys2Proof.Clause.EnginesStart : Prop :=
  ∀ p ∈ [(Instr.apf, true), (.aev, false)], ∀ s f e s1 l, Issues s (p.1 f) f e s1 → e.leading = some l → e.bucketOpen s1 →
    let dst := e.addrPart s1 (if p.2 then f.a else f.b) l
    let src := e.addrPart s1 (if p.2 then f.b else f.a) l
    let len := e.addrPart s1 f.c l
    let bo := (e.u f.e.toNat).toNat
    let who := { e.who s1 with apf := p.2 }
    let ends (a : Nat) : List Nat := if len = 0 then [] else [a, vaAdd a (len - 65536)]
    dst % 65536 = 0 → src % 65536 = 0 → len % 65536 = 0 → len ≤ 2 ^ 36 → bo % 8 = 0 →
    (∃ ls, s1.transAll who (Acc.engineDst p.2) (ends dst) = .inr ls) →
    (∃ ls, s1.transAll who (Acc.engineSrc p.2 false) (ends src) = .inr ls) →
    ∀ lb, s1.transAll who Acc.barrier [bo] = .inr lb →
      ∃ w', exec (p.1 f) s = .next (e.after { s1 with
          engines := aset s1.engines s1.nextId
            { isApf := p.2, dst := dst, src := src, len := len, bo := keyOf lb 0 bo, boVa := bo, who := who, parts := [] },
          nextId := s1.nextId + 1 } w') ∧ e.Quiet w'

/-- R181, R183, R184, R338, R341: with no translation in use, `shopen` of a page sets SOPEN of its leaf and empties the page's
sector mask; `publ` leaves the pages of its range to be published one by one, and each that is open turns its version selector and
clears SOPEN and CKV; `kvsum` sets CKV of its page and leaves its sum outstanding; each sector is read once, as it then stands; at the
end the CRC of what has been read goes into the leaf, whose CKV stays as it has become, and into the result. That an outstanding result
shows the register's own value until then is the model's choice (log entry 21). -/
def Sys2Proof.Clause.ShadowsAndChecksums : Prop :=
  (∀ s f e s1 l, Issues s (.shopen f) f e s1 → e.leading = some l → e.bucketOpen s1 → s1.inFlight = [] →
    let va := e.addrPart s1 f.a l
    let len := e.addrPart s1 f.b l
    s1.checkShadows (e.who s1) va len = none →
    (∃ t w', exec (.shopen f) s = .next t ∧ e.Ends s t w' ∧ e.Leaves w' []) ∧
    (s.connected → len = 65536 → ∀ key level lo hi, s1.walk (e.who s1).die (e.who s1).ptbase va = .leaf key level lo hi →
      hi.getLsbD 59 = false → ∃ t, exec (.shopen f) s = .next t ∧
        SameBytesBut s t ((List.range 8).map fun i => key + 8 + i) ∧ t.le (key + 8) 8 = (hi ||| 1#64 <<< 59).toNat ∧
        (t.dirEnt (wbits lo 26 38)).opened = true ∧ (t.dirEnt (wbits lo 26 38)).mask = 0)) ∧
  (∀ s f e s1 l, Issues s (.publ f) f e s1 → e.leading = some l → e.bucketOpen s1 →
    let va := e.addrPart s1 f.a l
    let len := e.addrPart s1 f.b l
    s1.checkShadows (e.who s1) va len = none →
    ∃ w', exec (.publ f) s = .next (e.afterFly { s1 with
        publs := if len = 0 then s1.publs
          else aset s1.publs s1.nextId { warp := e.key, who := e.who s1, pages := pagesOfRange va len } } w') ∧ e.Leaves w' []) ∧
  (∀ (s : State) id p x xs key level lo hi, aget s.publs id = some p → p.pages = x :: xs → s.inFlight = [] → s.connected →
    s.mayTry (Trier.publish id).key = true → s.walk p.who.die p.who.ptbase x = .leaf key level lo hi → hi.getLsbD 59 = true →
    ∀ t, s.publishPage p.who x = .ok t →
      ∃ u, perform s (.move (.publish id)) = .next u ∧ u.mem = t.mem ∧
        u.le (key + 8) 8 = (hi &&& ~~~(1#64 <<< 59) &&& ~~~(1#64 <<< 61)).toNat ∧
        (u.dirEnt (wbits lo 26 38)).opened = false ∧ (u.dirEnt (wbits lo 26 38)).vsel = !(s.dirEnt (wbits lo 26 38)).vsel ∧
        aget u.publs id = if xs = [] then none else some { p with pages := xs }) ∧
  (∀ s f e s1 l, Issues s (.kvsum f) f e s1 → e.leading = some l → e.bucketOpen s1 → s1.inFlight = [] →
    e.w.busy f.d.toNat = false → s.connected →
    let va := e.addrPart s1 f.a l
    let who := e.who s1
    va % 65536 = 0 → ∀ pl x key level lo hi ls, s1.trans who { rd := true, types := 1 } va = .at pl (some x) → x.cke = true →
      s1.walk who.die who.ptbase va = .leaf key level lo hi →
      s1.transAll who { rd := true, line := true, types := 1 } (pageLineVas va) = .inr ls → s1.anyReset who ls = false →
      ∃ t w' id, exec (.kvsum f) s = .next t ∧ e.Ends s t w' ∧ e.Settled w' ∧ e.Advanced w' ∧ w'.vregs = e.w.vregs ∧
        w'.uregs = e.w.uregs ∧ w'.preds = e.w.preds ∧ w'.allFlags = e.w.allFlags ∧
        w'.pending = e.w.pending ++ [(id, 0, [.u f.d.toNat (e.w.u f.d.toNat)])] ∧
        aget t.ksums id = some { warp := e.key, reg := f.d.toNat, who := who, entry := key, live := (s1.mkLeaf level lo hi).live,
                                 parts := [] } ∧
        SameBytesBut s t ((List.range 8).map fun i => key + 8 + i) ∧ t.le (key + 8) 8 = (hi ||| 1#64 <<< 61).toNat) ∧
  (∀ (s : State) id k i, aget s.ksums id = some k → i < 2048 → s.ksumHeld k = false →
    ∃ t k', perform s (.move (.ksum id i)) = .next t ∧ (s.connected → SameBytes s t) ∧ aget t.ksums id = some k' ∧
      k' = { k with parts := k'.parts } ∧ (∀ j, j ≠ i → aget k'.parts j = aget k.parts j) ∧
      aget k'.parts i = some ((aget k.parts i).getD (s.bytes (k.live * 65536 + 32 * i) 32))) ∧
  (∀ (s : State) id k w, aget s.ksums id = some k → s.ksumHeld k = false → s.connected → aget s.warps k.warp = some w →
    (isHomeless (k.entry + 8) = true ∨ isHostKey (k.entry + 8) = true) → k.entry % 16 = 0 →
    let crc := crc32c ((List.range 2048).flatMap fun i => (aget k.parts i).getD (s.bytes (k.live * 65536 + 32 * i) 32))
    ∃ t w', perform s (.move (.ksum id 2048)) = .next t ∧ aget t.ksums id = none ∧ aget t.warps k.warp = some w' ∧
      SameBytesBut s t ((List.range 4).map fun i => k.entry + 8 + i) ∧ t.le (k.entry + 8) 4 = crc ∧
      w' = { w with flights := w'.flights } ∧
      ∀ g ∈ w.flights, g.id = id → ∀ x p, (RegWrite.u k.reg x, p) ∈ g.writes →
        ∃ g' ∈ w'.flights, g'.id = id ∧ (RegWrite.u k.reg (BitVec.ofNat 64 crc), p) ∈ g'.writes)

/-- R179, R181, R183, R184, R338, R341: apf and aev start an engine; shopen, publ and kvsum act on a page. -/
def Obligations.EnginesAndShadows : Prop :=
  Clause.EnginesStart ∧ Clause.ShadowsAndChecksums

/-! ### Group 0xB: matrix, softmax and attention -/

/-- R190, R192: `mcfg` sets the configuration and invalidates the planes, changing no element and no row; `mldw` loads the other
plane of each core of the configured width, or both planes where a core takes more than 128 columns; `mswap` turns their active
pointers. The second clause says which product operands a loaded plane holds. -/
def Obligations.MatrixConfiguration : Prop :=
  (∀ s f e s1, Issues s (.mcfg f) f e s1 →
    let g := s1.unit e
    let c : MatCfg := f.md.extractLsb' 0 18
    e.matReady s1 { rows := (0, 128), cols := [(0, 1024)], rowSt := true, rd := 7, wr := 7 } [] none → g.mops = [] →
    c.width ≤ (match s1.recOf e.w with | some r => r.coop | none => 1) →
    ∃ t g', exec (.mcfg f) s = .next t ∧ e.Engaged s t (.mcfg f) [] none [] g' ∧ g'.cfg = c ∧
      (∀ m ∈ g'.cores, m.plane0.valid = false ∧ m.plane1.valid = false) ∧ (∀ r k, g'.el r k = g.el r k) ∧
      g'.rows = g.rows ∧ g'.tiles = g.tiles) ∧
  (∀ (s1 : State) (g : Group) n cols k half c0 cn i j, i < k → j < cn → cn ≤ 128 →
    let t := g.tiles.getD n Tile.void
    roleOk t.tag g.cfg.wfmt = true → isI8 g.cfg.wfmt = g.cfg.isInt → (g.cfg.wfmt = 0x0E ↔ g.cfg.isL6 = true) →
    fmtWidth t.tag ≤ 16 →
    let p := s1.loadPlane g n cols k half c0 cn
    p.valid = true ∧ p.half = half ∧ p.k = k ∧ p.n = cn ∧
      p.weight g.cfg i j = matEl g.cfg false t.tag (s1.tileEl g t i (c0 + j))) ∧
  (∀ s f e s1, Issues s (.mldw f) f e s1 →
    let g := s1.unit e
    let n := f.e.toNat
    let t := g.tiles.getD n Tile.void
    let k := (f.imm.extractLsb' 0 7).toNat + 1
    let cols := (f.imm.extractLsb' 7 10).toNat + 1
    let writes := if 128 < cols then 3 else orBits ((List.range g.width).map fun c => (g.mc c).otherBit)
    e.matReady s1 (planeFoot 4 writes) (g.withScale n) none → roleOk t.tag g.cfg.wfmt = true → g.scaleFault n 1 cols = none →
    cols ≤ 256 * g.width → k ≤ t.nRows → cols ≤ t.perRow →
    (∀ m ∈ g.mops, isMmul m.instr = true → cols ≤ 128 ∧ (m.fed = true ∨ m.foot.rd &&& writes = 0)) →
    ∃ t' g', exec (.mldw f) s = .next t' ∧ e.Engaged s t' (.mldw f) (g.withScale n) none [] g' ∧ g'.rows = g.rows ∧
      (∀ r c, g'.el r c = g.el r c) ∧
      ∀ c < g.cores.length,
        (g.width ≤ c → g'.mc c = g.mc c) ∧
        (c < g.width → cols ≤ 128 → (g'.mc c).activeP = (g.mc c).activeP ∧
          (g'.mc c).otherP = s1.loadPlane g n cols k 0 (256 * c) (coreCols cols c)) ∧
        (c < g.width → 128 < cols →
          (g'.mc c).otherP = s1.loadPlane g n cols k 1 (256 * c) (min 128 (coreCols cols c)) ∧
          (g'.mc c).activeP = s1.loadPlane g n cols k 2 (256 * c + 128) (coreCols cols c - 128))) ∧
  (∀ s f e s1, Issues s (.mswap f) f e s1 →
    let g := s1.unit e
    e.matReady s1 (planeFoot 4 4) [] none →
    (∀ m ∈ g.mops, (isMmul m.instr = true → m.fed = true) ∧ isMldw m.instr = false) →
    ∃ t g', exec (.mswap f) s = .next t ∧ e.Engaged s t (.mswap f) [] none [] g' ∧ g'.rows = g.rows ∧ g'.tiles = g.tiles ∧
      ∀ c < g.cores.length, g'.mc c = { g.mc c with active := if c < g.width then !(g.mc c).active else (g.mc c).active })

/-- R193, R194, R196: `mmul` adds to each element of its region, or with ZERO gives it, the sum of the products of a row of the
tile and a column of the active plane; a sector of the tile that its fetch finds anew gives the region as the bytes found then do
(R285); integer passes are exact; `mzero` clears a region; `mload` fills it from a tile. No other element changes. -/
def Sys2Proof.Clause.MatrixProducts : Prop :=
  (∀ s f e s1, Issues s (.mmul f) f e s1 →
    let g := s1.unit e
    let n := f.e.toNat
    let t := g.tiles.getD n Tile.void
    let row := rowN f
    let col := (f.imm.extractLsb' 7 8).toNat
    let cores := List.range g.width
    let foot : Foot := { rows := (row, row + t.nRows), rowSt := false, wr := 0,
                         rd := 4 ||| orBits (cores.map fun k => (g.mc k).readBits),
                         cols := cores.map fun k => (256 * k + col, 256 * k + col + (g.mc k).planeCols) }
    e.matReady s1 foot (g.withScale n) none → e.grantFree s1 → roleOk t.tag g.cfg.afmt = true →
    g.scaleFault n t.nRows 1 = none → row + t.nRows ≤ 128 →
    (∀ k < g.width, (g.mc k).activeP.valid = true ∧ (g.mc k).activeP.half ≠ 2 ∧ col + (g.mc k).planeCols ≤ 256 ∧
      (g.mc k).activeP.k ≤ t.perRow) →
    let kmax := cores.foldl (fun a k => max a (g.mc k).activeP.k) 0
    ∃ t' g', exec (.mmul f) s = .next t' ∧ e.Engaged s t' (.mmul f) (g.withScale n) none [] g' ∧ g'.rows = g.rows ∧
      ∀ k < g.cores.length, ∀ r, ∀ c < 256, g'.el r (256 * k + c) =
        if k < g.width ∧ row ≤ r ∧ r < row + t.nRows ∧ col ≤ c ∧ c < col + (g.mc k).planeCols then
          mmulEl g.cfg (mdB f 0) (s1.actRow g t (r - row) kmax) (s1.scaleByte g n (r - row) 0)
            ((g.mc k).planeFor (c - col)).1 ((g.mc k).planeFor (c - col)).2 (g.el r (256 * k + c))
        else g.el r (256 * k + c)) ∧
  (∀ (s : State) gid i g m f n w, aget s.groups gid = some g → g.mops[i]? = some m → m.granted = true → g.phase = .running →
    m.instr = .mmul f → m.fed = false → m.src ≠ [] → isSpadKey (32 * n) = true → m.was = (w.cores, w.rows) → w.cfg = g.cfg →
    w.tiles = g.tiles → w.wgs = g.wgs → (∀ k < g.width, bitsN (immN f) 7 8 + (w.mc k).planeCols ≤ 256) →
    let row := rowN f
    let col := bitsN (immN f) 7 8
    let t := g.tiles.getD f.e.toNat Tile.void
    let s1 := { s with mem := memSetAll m.seen ((List.range 32).map fun j => (32 * n + j, memGet s.mem (32 * n + j))) }
    ∃ u g', perform s (.move (.matSector gid i n)) = .next u ∧ u.mem = s.mem ∧ u.warps = s.warps ∧ aget u.groups gid = some g' ∧
      g'.rows = g.rows ∧ g'.tiles = g.tiles ∧
      ∀ k < g.cores.length, ∀ r, ∀ c < 256, g'.el r (256 * k + c) =
        if k < g.width ∧ row ≤ r ∧ r < row + t.nRows ∧ col ≤ c ∧ c < col + (w.mc k).planeCols then
          mmulEl g.cfg (mdB f 0) (s1.actRow w t (r - row) w.kMax) (s1.scaleByte w f.e.toNat (r - row) 0)
            ((w.mc k).planeFor (c - col)).1 ((w.mc k).planeFor (c - col)).2 (w.el r (256 * k + c))
        else g.el r (256 * k + c)) ∧
  (∀ (as bs : List Int) (k : Int), as.length = bs.length →
    passSum false k (as.map .i) (bs.map .i) = .i (List.zipWith (· * ·) as bs).sum) ∧
  (∀ s f e s1, Issues s (.mzero f) f e s1 →
    let g := s1.unit e
    e.matReady s1 (regionFoot f false) [] none → colN f + ncN f ≤ 256 * g.width →
    ∃ t g', exec (.mzero f) s = .next t ∧ e.Engaged s t (.mzero f) [] none [] g' ∧ g'.rows = g.rows ∧ g'.tiles = g.tiles ∧
      RegionIs g g' (rowN f) (nrN f) (colN f) (ncN f) fun _ _ => { v := 0, sp := false }) ∧
  (∀ s f e s1, Issues s (.mload f) f e s1 →
    let g := s1.unit e
    let t := g.tiles.getD f.e.toNat Tile.void
    e.matReady s1 (regionFoot f false) [f.e.toNat] none → mloadTag g.cfg t.tag = true → t.scl = false → nrN f ≤ t.nRows →
    ncN f ≤ t.perRow → colN f + ncN f ≤ 256 * g.width →
    ∃ t' g', exec (.mload f) s = .next t' ∧ e.Engaged s t' (.mload f) [f.e.toNat] none [] g' ∧ g'.rows = g.rows ∧
      RegionIs g g' (rowN f) (nrN f) (colN f) (ncN f) fun i j => mloadEl g.cfg t.tag (s1.tileEl g t i j))

/-- R195, R197, R291: `mrsum` and `mcsum` leave the sums of a tile's integer rows and columns, added to the old ones with ACC;
`mdrain` writes a region into its destination tile at its completion, stage by stage: on the integer path with the corrections, the
scaled and rounded product, the bias and the activation, clamped once to the element's format; on the float path with scale, bias and
activation, rounded once, a NaN where SP is set. -/
def Sys2Proof.Clause.MatrixSumsAndDrain : Prop :=
  (∀ s f e s1, Issues s (.mrsum f) f e s1 →
    let g := s1.unit e
    let t := g.tiles.getD f.e.toNat Tile.void
    let row := (f.imm.extractLsb' 0 7).toNat
    let k := (f.imm.extractLsb' 7 7).toNat + 1
    e.matReady s1 (sumFoot [(row, row + t.nRows)] []) [f.e.toNat] none → g.cfg.isInt = true → isI8 t.tag = true → t.scl = false →
    row + t.nRows ≤ 128 →
    k ≤ t.perRow →
    ∃ t' g', exec (.mrsum f) s = .next t' ∧ e.Engaged s t' (.mrsum f) [f.e.toNat] none [] g' ∧ g'.cores = g.cores ∧
      ∀ r < g.rows.length, g'.row r =
        if row ≤ r ∧ r < row + t.nRows then
          { g.row r with rowsum := (if mdB f 0 then (g.row r).rowsum else 0) +
              BitVec.ofInt 64 ((List.range k).map fun j => (matEl g.cfg true t.tag (s1.tileEl g t (r - row) j)).int).sum }
        else g.row r) ∧
  (∀ s f e s1, Issues s (.mcsum f) f e s1 →
    let g := s1.unit e
    let t := g.tiles.getD f.e.toNat Tile.void
    let k := (f.imm.extractLsb' 0 7).toNat + 1
    let cols := (f.imm.extractLsb' 7 10).toNat + 1
    let col := (f.imm.extractLsb' 17 8).toNat
    e.matReady s1 (sumFoot [] (sumCols g.width cols col)) [f.e.toNat] none → g.cfg.isInt = true → isI8 t.tag = true → t.scl = false →
    cols ≤ 256 * g.width →
    k ≤ t.nRows → cols ≤ t.perRow → (∀ c < g.width, col + coreCols cols c ≤ 256) →
    ∃ t' g', exec (.mcsum f) s = .next t' ∧ e.Engaged s t' (.mcsum f) [f.e.toNat] none [] g' ∧ g'.rows = g.rows ∧
      (∀ r c, g'.el r c = g.el r c) ∧
      ∀ c < g.cores.length, ∀ x < 256, aget (g'.mc c).colsum x =
        if c < g.width ∧ col ≤ x ∧ x < col + coreCols cols c then
          some ((if mdB f 0 then (aget (g.mc c).colsum x).getD 0 else 0) + BitVec.ofInt 64 ((List.range k).map fun i =>
            (matEl g.cfg false t.tag (s1.tileEl g t i (256 * c + (x - col)))).int).sum)
        else aget (g.mc c).colsum x) ∧
  (∀ s f e s1, Issues s (.mdrain f) f e s1 →
    let g := s1.unit e
    let d := f.d.toNat
    let td := g.tiles.getD d Tile.void
    let te := g.tiles.getD f.e.toNat Tile.void
    let srcs := if mdB f 2 then [f.e.toNat] else []
    let za := e.addrPart s1 f.a 0
    let z (i : Nat) : Int := sextN (bitsN za (16 * i) 16) 16
    e.matReady s1 (drainFoot f) srcs (some d) →
    (if g.cfg.isInt then 3 ≤ td.tag ∧ td.tag ≤ 8 else drainFloatTag td.tag = true ∧ mdB f 1 = false) →
    (mdB f 2 = true → te.scl = false ∧ te.tag = (if g.cfg.isInt then 8 else 0x12) ∧ (if g.cfg.isInt then 3 else 2) ≤ te.nRows ∧ ncN f ≤ te.perRow) →
    nrN f ≤ td.nRows → ncN f ≤ td.perRow → colN f + ncN f ≤ 256 * g.width →
    ∃ t' g' out, exec (.mdrain f) s = .next t' ∧ e.Engaged s t' (.mdrain f) srcs (some d) out g' ∧ g'.rows = g.rows ∧
      g'.cores = g.cores ∧ Fills g g' (some d) ∧
      let act := mdN f 3 3
      let frac := mdN f 6 4
      let fn : TFun := if act = 2 then .tanh else if act = 3 then .sigm else if act = 4 then .silu else .gelu
      let act64 (v : FVal) : FVal :=
        let u := ffDecode ffF64 (roundV ffF64 false v)
        ffDecode ffF64 (tEval fn ffF64 0 false 24 u u).1
      (g.cfg.isInt = true → out = (List.range (nrN f)).flatMap fun i => (List.range (ncN f)).flatMap fun j =>
        let a := (g.el (rowN f + i) (colN f + j)).v.toInt
        let cs := ((aget (g.mc ((colN f + j) / 256)).colsum ((colN f + j) % 256)).getD 0).toInt
        let v1 := if mdB f 1 then
            a - z 1 * (g.row (rowN f + i)).rowsum.toInt - z 0 * cs + z 0 * z 1 * sextN (e.addrPart s1 f.b 0) 64
          else a
        let v2 := if mdB f 2 then
            shrRound (v1 * sextN (s1.tileEl g te 0 j) 32) (31 + s1.tileEl g te 2 j % 32) + sextN (s1.tileEl g te 1 j) 32
          else v1
        let v3 := if act = 0 then v2 else if act = 1 then max v2 0
          else match act64 (.fin (decide (v2 < 0)) v2.natAbs (-(frac : Int))) with
            | .fin neg m x => let y := (toIntegral 0 neg m (x + frac)).1; if neg then -(y : Int) else y
            | _ => 0
        g.elBytes td i j (fitInt td.tag true (v3 + z 2))) ∧
      (g.cfg.isInt = false → out = (List.range (nrN f)).flatMap fun i => (List.range (ncN f)).flatMap fun j =>
        let a := g.el (rowN f + i) (colN f + j)
        let x0 : FVal := if g.cfg.isL6 then .fin (decide (a.v.toInt < 0)) a.v.toInt.natAbs (-48) else fAF a.v
        let x1 := if mdB f 2 then addV (mulV x0 (ffDecode ffF32 (s1.tileEl g te 0 j))) (ffDecode ffF32 (s1.tileEl g te 1 j)) else x0
        let x2 := if act = 0 then x1
          else if act = 1 then (if isNan x1 = true ∨ fLess false (.fin false 0 0) x1 = true then x1 else .fin false 0 0)
          else act64 x1
        g.elBytes td i j (if a.sp then ffNan (ffOf td.tag) else roundV (ffOf td.tag) (mdB f 0) x2)))

/-- R193, R194, R195, R196, R197, R285, R291: mmul, mrsum, mcsum, mload and mdrain. -/
def Obligations.MatrixArithmetic : Prop :=
  Clause.MatrixProducts ∧ Clause.MatrixSumsAndDrain

/-- R199 to R203: the softmax instructions on row states and output elements: `smxi` starts rows, `smxu` takes in a block of
scores, `smxm` merges two regions, `smxf` divides by the denominators; `smxs` and `smxl` are taken in with the translations of their
records, to move rows to and from memory until they complete. -/
def Obligations.SoftmaxRows : Prop :=
  (∀ s f e s1, Issues s (.smxi f) f e s1 →
    let g := s1.unit e
    e.matReady s1 { rows := (rowN f, rowN f + nrN f), cols := [], rowSt := true, rd := 0, wr := 0 } [] none →
    ∃ t g', exec (.smxi f) s = .next t ∧ e.Engaged s t (.smxi f) [] none [] g' ∧ g'.cores = g.cores ∧ g'.tiles = g.tiles ∧
      ∀ r < g.rows.length, g'.row r = if rowN f ≤ r ∧ r < rowN f + nrN f then
          { m := 0xFF800000, l := 0, nan := false, empty := false, rowsum := (g.row r).rowsum }
        else g.row r) ∧
  (∀ s f e s1, Issues s (.smxu f) f e s1 →
    let g := s1.unit e
    let d := f.d.toNat
    let msk := f.md.getLsbD 18
    let srcs := if msk then [f.e.toNat] else []
    let td := g.tiles.getD d Tile.void
    let te := g.tiles.getD f.e.toNat Tile.void
    let foot : Foot := { rows := (rowN f, rowN f + nrN f), rowSt := true, rd := 0, wr := 0,
                         cols := [(colN f, colN f + ncN f), (ocolN f, ocolN f + oncN f)] }
    e.matReady s1 foot srcs (some d) → e.grantFree s1 → g.cfg.mode = 0 → drainFloatTag td.tag = true →
    (msk = true → te.scl = false ∧ te.tag = 3 ∧ nrN f ≤ te.nRows ∧ ncN f ≤ te.perRow) → nrN f ≤ td.nRows → ncN f ≤ td.perRow →
    colN f + ncN f ≤ 256 * g.width → ocolN f + oncN f ≤ 256 * g.width →
    let r (i : Nat) : SmxRow := smxRow (g.row (rowN f + i))
      ((List.range (ncN f)).map fun j => (g.el (rowN f + i) (colN f + j), msk && s1.tileEl g te i j != 0)) td.tag (f.md.getLsbD 19)
    ∃ t' g' out, exec (.smxu f) s = .next t' ∧ e.Engaged s t' (.smxu f) srcs (some d) out g' ∧ Fills g g' (some d) ∧
      out = ((List.range (nrN f)).flatMap fun i => (mapFrom 0 (fun j x => g.elBytes td i j x) (r i).pd).flatten) ∧
      RegionIs g g' (rowN f) (nrN f) (ocolN f) (oncN f) (fun i j => (r i).scaleEl (g.el (rowN f + i) (ocolN f + j))) ∧
      ∀ k < g.rows.length, g'.row k = if rowN f ≤ k ∧ k < rowN f + nrN f then (r (k - rowN f)).st else g.row k) ∧
  (∀ s f e s1, Issues s (.smxm f) f e s1 →
    let g := s1.unit e
    let sr := (f.md.extractLsb' 0 7).toNat
    let sc := (f.md.extractLsb' 7 10).toNat
    let foot : Foot := { rows := (min sr (rowN f), max sr (rowN f) + nrN f), rowSt := true, rd := 0, wr := 0,
                         cols := [(colN f, colN f + ncN f), (sc, sc + ncN f)] }
    e.matReady s1 foot [] none → g.cfg.mode = 0 → colN f + ncN f ≤ 256 * g.width → sc + ncN f ≤ 256 * g.width →
    let r (i : Nat) := mergeRow (g.row (rowN f + i)) (g.row (sr + i))
    ∃ t' g', exec (.smxm f) s = .next t' ∧ e.Engaged s t' (.smxm f) [] none [] g' ∧ g'.tiles = g.tiles ∧
      (∀ k < g.rows.length, g'.row k = if rowN f ≤ k ∧ k < rowN f + nrN f then (r (k - rowN f)).1 else g.row k) ∧
      RegionIs g g' (rowN f) (nrN f) (colN f) (ncN f) fun i j =>
        let x := g.el (rowN f + i) (colN f + j)
        let y := g.el (sr + i) (sc + j)
        { sp := x.sp || y.sp,
          v := match (r i).2 with
            | some (a, b) => roundAF (addV (mulV (f32 a) (fAF x.v)) (mulV (f32 b) (fAF y.v)))
            | none => 0 }) ∧
  (∀ s f e s1, Issues s (.smxf f) f e s1 →
    let g := s1.unit e
    let d := f.d.toNat
    let td := g.tiles.getD d Tile.void
    e.matReady s1 (regionFoot f true) [] (some d) → g.cfg.mode = 0 → drainFloatTag td.tag = true → nrN f ≤ td.nRows →
    ncN f ≤ td.perRow → colN f + ncN f ≤ 256 * g.width →
    ∃ t' g' out, exec (.smxf f) s = .next t' ∧ e.Engaged s t' (.smxf f) [] (some d) out g' ∧ Fills g g' (some d) ∧
      g'.cores = g.cores ∧
      out = ((List.range (nrN f)).flatMap fun i => (List.range (ncN f)).flatMap fun j =>
        g.elBytes td i j (finishEl td.tag (mdB f 0) (g.row (rowN f + i)) (g.el (rowN f + i) (colN f + j)))) ∧
      ∀ k < g.rows.length, g'.row k = if rowN f ≤ k ∧ k < rowN f + nrN f then
          { g.row k with empty := isZeroAF (g.row k).l }
        else g.row k) ∧
  (∀ s f e s1, Issues s (.smxs f) f e s1 →
    let g := s1.unit e
    let vas := recordVas (e.addrPart s1 f.a 0) (nrN f) (ncN f) (mdB f 0)
    let bs := (List.range (nrN f)).flatMap fun i => g.recordBytes (rowN f + i) (colN f) (ncN f) (mdB f 0)
    e.matReady s1 (regionFoot f true) [] none → e.bucketOpen s1 → colN f + ncN f ≤ 256 * g.width →
    e.addrPart s1 f.a 0 % 32 = 0 →
    ∀ ls, s1.transAll (e.who s1) Acc.store vas = .inr ls →
      ∃ t w' g' m, exec (.smxs f) s = .next t ∧ e.Ends s t w' ∧ e.Leaves w' [] ∧ t.mem = s.mem ∧
        aget t.groups e.w.gid = some g' ∧ g'.cores = g.cores ∧ g'.rows = g.rows ∧ g'.tiles = g.tiles ∧
        m ∈ g'.mops ∧ m.instr = .smxs f ∧ m.access = some (e.who s1, ls) ∧ m.left = vas.zip bs ∧ m.regs = [e.addrPart s1 f.a 0]) ∧
  (∀ s f e s1, Issues s (.smxl f) f e s1 →
    let g := s1.unit e
    let sto := mdB f 0
    let va := e.addrPart s1 f.a 0
    let vas := recordVas va (nrN f) (ncN f) sto
    e.matReady s1 (regionFoot f true) [] none → e.bucketOpen s1 → colN f + ncN f ≤ 256 * g.width → va % 32 = 0 →
    ∀ ls, s1.transAll (e.who s1) Acc.load vas = .inr ls →
      ∃ t w' g' m, exec (.smxl f) s = .next t ∧ e.Ends s t w' ∧ e.Leaves w' [] ∧ t.mem = s.mem ∧
        aget t.groups e.w.gid = some g' ∧ g'.cores = g.cores ∧ g'.rows = g.rows ∧ g'.tiles = g.tiles ∧
        m ∈ g'.mops ∧ m.instr = .smxl f ∧ m.access = some (e.who s1, ls) ∧ m.regs = [va])

/-- R303, R304, R315: what a walk may read next: of the first page that it has not read whole, its entry, then the row-state word,
then the scales, then the rows of the tokens whose bit the word has set; and the entries and words of the four pages after that. An
entry of 0 needs nothing more. Each read is of the bytes as they then stand; a word that leaves a token deferred in mode STALL is read
again. -/
def Sys2Proof.Clause.AttentionReads : Prop :=
  (∀ (d : Kvd) nr m b need, (b, need) ∈ d.next nr m →
    ∃ k < 5, (d.pages.dropWhile fun b => (d.needs nr b (pageRead m b)).isEmpty)[k]? = some b ∧
      need ∈ d.needs nr b (pageRead m b) ∧ (k = 0 ∨ need = .entry ∨ need = .word)) ∧
  (∀ (d : Kvd) nr b r,
    (r.entry = none → d.needs nr b r = [.entry]) ∧ (r.entry = some 0 → d.needs nr b r = []) ∧
    (∀ p, r.entry = some p → p ≠ 0 → r.word = none → d.needs nr b r = [.word]) ∧
    (∀ p x, r.entry = some p → p ≠ 0 → r.word = some x → r.scales = none → d.needs nr b r = [.scales]) ∧
    (∀ n, kvFmt d.kfmt = true → kvFmt d.vfmt = true → d.dk ≤ 256 → d.dv ≤ 256 → Need.row n ∈ d.needs nr b r →
      aget r.rows n = none ∧ ∃ x, r.word = some x ∧ bitsN x (n / 32) 1 = 1 ∧ ∃ i < nr, d.masked (16 * b + n / 32) i = false)) ∧
  (∀ (s : State) w (d : Kvd) nr b r ls, s.checkOne w Acc.load 8 (vaAdd d.btab (8 * b)) 8 = .inr ls → s.anyReset w ls = false →
    let x := s.numberAt ls 0 (vaAdd d.btab (8 * b)) 8
    x % 65536 = 0 → ∃ u, s.fetchNeed w d nr b r .entry = .got { r with entry := some x } u ∧ (s.connected → SameBytes s u)) ∧
  (∀ (s : State) w (d : Kvd) nr b r ls, d.rsa ≠ 0 →
    let va := vaAdd d.rsa (2 * (b * d.nlayers + d.layer))
    s.checkOne w Acc.load 2 va 2 = .inr ls → s.anyReset w ls = false →
    let x := s.numberAt ls 0 va 2
    let deferred : Prop := ∃ k ∈ d.live nr b, bitsN x k 1 = 0
    (d.stall = true ∧ deferred → ∃ u, s.fetchNeed w d nr b r .word = .wait u) ∧
    (¬ (d.stall = true ∧ deferred) → ∃ u, s.fetchNeed w d nr b r .word = .got { r with word := some x } u)) ∧
  (∀ (s : State) w (d : Kvd) nr b r n ls,
    let v := decide (n / 16 % 2 = 1)
    let va := vaAdd (vaAdd (r.entry.getD 0) (d.rowOff v (n / 32))) (32 * (n % 16))
    let len := min 32 (d.rowLen v - 32 * (n % 16))
    s.checkOne w Acc.load 1 va len = .inr ls → s.anyReset w ls = false →
    ∃ u, s.fetchNeed w d nr b r (.row n) =
      .got { r with rows := aset r.rows n ((vaRange va len).map fun a => memGet s.mem (keyOf ls 0 a)) } u) ∧
  (∀ (s : State) gid idx g m f w n b need r u, aget s.groups gid = some g → g.mops[idx]? = some m → m.granted = true →
    g.phase = .running → m.instr = .attn f → s.seqWho g = some w →
    ((parseKvd m.desc).next (nrN f) m.walk)[n]? = some (b, need) →
    s.fetchNeed w (parseKvd m.desc) (nrN f) b (pageRead m.walk b) need = .got r u →
    ∃ t g', perform s (.move (.walk gid idx n)) = .next t ∧ t.mem = u.mem ∧ t.warps = s.warps ∧ aget t.groups gid = some g' ∧
      g' = { g with mops := g'.mops } ∧ g'.mops[idx]? = some { m with walk := aset m.walk b r })

/-- R193, R200, R205, R206: what an `attn` computes once its walk has read its last page. Scores are formed in passes of 128 along DK;
a page takes its 16 scores into each row as `smxu` does, and adds the product of the delivered probabilities and its value rows to the
rescaled elements of the region; the pages follow one another in order. With FIN the rows are finished as by `smxf`. No other element
and no other row changes, and the planes of the cores that a walk of some tokens used lose VALID. -/
def Sys2Proof.Clause.AttentionComputes : Prop :=
  (∀ n q k ka kb, ka.length = n → score n q k ka kb =
    { v := (List.range n).foldl (fun acc p => addByForm 0 acc
        (passSum true (ka.getD p 0 + kb) ((q.drop (128 * p)).take 128) ((k.drop (128 * p)).take 128))) 0,
      sp := q.any MEl.special || k.any MEl.special }) ∧
  (∀ (g : Group) f d q ka (p : KvPage), q.length = nrN f → ka.length = nrN f →
    let key (k : Nat) := p.rows.find? fun x => x.1 == k
    let sc (i k : Nat) : AccEl × Bool := match key k with
      | some x => (score d.blocks (q.getD i []) x.2.1 (ka.getD i []) p.kScale, d.masked (16 * p.block + k) i)
      | none => (AccEl.zero, true)
    let r (i : Nat) : SmxRow := smxRow (g.row (rowN f + i)) ((List.range 16).map (sc i)) d.vfmt (mdB f 2)
    let v (j : Nat) : List MEl := (List.range 16).map fun k => match key k with
      | some x => x.2.2.getD j (.f zeroF)
      | none => .f zeroF
    let g' := g.attnPage f d q ka p
    (∀ k < g.rows.length, g'.row k = if rowN f ≤ k ∧ k < rowN f + nrN f then (r (k - rowN f)).st else g.row k) ∧
    RegionIs g g' (rowN f) (nrN f) (colN f) (ncN f) fun i j =>
      let x := (r i).scaleEl (g.el (rowN f + i) (colN f + j))
      { v := addByForm 0 x.v (passSum true p.vScale ((r i).pd.map fun y => .f (ffDecode (ffOf d.vfmt) y)) (v j)),
        sp := x.sp || (v j).any MEl.special }) ∧
  (∀ (s : State) gid idx g m f w, aget s.groups gid = some g → g.mops[idx]? = some m → m.granted = true → g.phase = .running →
    m.instr = .attn f → m.fed = false → s.seqWho g = some w →
    let d := parseKvd m.desc
    (∀ b ∈ d.pages, d.needs (nrN f) b (pageRead m.walk b) = []) →
    let te := g.tiles.getD f.e.toNat Tile.void
    let s0 := { s with mem := m.seen }
    let q := (List.range (nrN f)).map fun i => (List.range d.dk).map fun j => MEl.f (fmtValue te.tag (s0.tileEl g te i j))
    let ka := (List.range (nrN f)).map fun i => (List.range d.blocks).map fun p => s0.scaleByte g f.e.toNat i p
    let g1 := (d.pages.filterMap fun b => d.page (nrN f) b (pageRead m.walk b)).foldl (fun h p => h.attnPage f d q ka p) g
    ∃ t g' m', exec (.matrixComplete gid idx) s = .next t ∧ t.mem = s.mem ∧ t.warps = s.warps ∧ aget t.groups gid = some g' ∧
      g'.mops[idx]? = some m' ∧ m'.fed = true ∧ m'.src = [] ∧ (∀ i c, g'.el i c = g1.el i c) ∧
      (∀ k < g.rows.length, g'.row k =
        if mdB f 1 = true ∧ rowN f ≤ k ∧ k < rowN f + nrN f then { g1.row k with empty := isZeroAF (g1.row k).l } else g1.row k) ∧
      (let td := g'.tiles.getD f.d.toNat Tile.void
       m'.out = if mdB f 1 then (List.range (nrN f)).flatMap fun i => (List.range (ncN f)).flatMap fun j =>
           g'.elBytes td i j (finishEl td.tag (mdB f 3) (g1.row (rowN f + i)) (g1.el (rowN f + i) (colN f + j)))
         else []) ∧
      (d.nt ≠ 0 → ∀ k < 4, colN f < 256 * k + 256 → 256 * k < colN f + ncN f →
        (g'.mc k).plane0.valid = false ∧ (g'.mc k).plane1.valid = false))

/-- R204, R207, R208: an `attn` whose descriptor passes its checks is taken in with the 64 bytes of the descriptor as they stand
at its issue, changing no element; the confidence tests leave a predicate outstanding for the taking lanes; `bfq` queues a
request while the package's queue holds fewer than 1,024. -/
def Sys2Proof.Clause.AttentionIssues : Prop :=
  (∀ s f e s1, Issues s (.attn f) f e s1 →
    let g := s1.unit e
    let srcs := g.withScale f.e.toNat
    let dst := if mdB f 1 then some f.d.toNat else none
    let va := e.addrPart s1 f.a 0
    let ctr := match f.b with | .u n => if mdB f 0 then some n.toNat else none | _ => none
    e.matReady s1 { rows := (rowN f, rowN f + nrN f), cols := [(colN f, colN f + ncN f)], rowSt := true, rd := 4, wr := 3 } srcs dst →
    e.bucketOpen s1 → e.grantFree s1 →
    ∀ ls, s1.grantsOne (e.who s1) Acc.load va 64 ls →
      let desc := (vaRange va 64).map fun a => memGet s1.mem (keyOf ls 0 a)
      g.attnFault f (parseKvd desc) = none → (∀ c k, ctr = some c → aget e.w.bound c = some k → k < 65535) →
      let count (c : Nat) : Nat := (aget e.w.bound c).getD 0 + 1
      ∃ t w' g' m, exec (.attn f) s = .next t ∧ e.Ends s t w' ∧ (s.connected → SameBytes s t) ∧ e.Settled w' ∧ e.Advanced w' ∧
        w'.vregs = e.w.vregs ∧ w'.preds = e.w.preds ∧
        w'.uregs = (match ctr with | some c => e.w.uregs.set c (BitVec.ofNat 64 (count c)) | none => e.w.uregs) ∧
        w'.bound = (match ctr with | some c => aset e.w.bound c (count c) | none => e.w.bound) ∧
        aget t.groups e.w.gid = some g' ∧ g'.cores = g.cores ∧ g'.rows = g.rows ∧ Fills g g' dst ∧
        m ∈ g'.mops ∧ m.instr = .attn f ∧ m.src = srcs ∧ m.dst = dst ∧ m.ctr = ctr ∧ m.desc = desc) ∧
  (∀ p ∈ [(Instr.conftTop, false), (.conftMrg, true)], ∀ s f e s1, Issues s (p.1 f) f e s1 →
    e.tagOf f.a = some 0x12 → e.tagOf f.b = some 0x12 → (∀ u, e.tagOf f.c = some u → u = 0x12) →
    e.valueFaults 0x12 [f.a, f.b, f.c] = none →
    let v (x : Src) (l j : Nat) : FVal := ffDecode ffF32 (e.el s1 0x12 x l j)
    ∃ w' qm qv, exec (p.1 f) s = .next (e.afterFly s1 w') ∧ e.Settled w' ∧ e.Advanced w' ∧ e.SameRegs w' ∧
      e.Flies s1 w' [.q f.d.toNat qm qv] 0 ∧
      ∀ l < 32, qm.getD l 0 = (if e.taking.getLsbD l then 0xFFFF else 0) ∧
        (e.taking.getLsbD l = true → qv.getD l 0 =
          if conftExit p.2 (v f.a l 0) (v f.a l 1) (v f.b l 0) (v f.b l 1) (v f.c l 0) then 0xFFFF else 0)) ∧
  (∀ s f e s1 l pl x, Issues s (.bfq f) f e s1 → e.leading = some l →
    let page := e.addrPart s1 f.a l
    let b := e.addrPart s1 f.b l
    let pkg := pkgOfCore e.w.core
    page % 65536 = 0 → s1.trans (e.who s1) { types := 1 } page = .at pl x → (s1.pkg pkg).bfQueue.length < 1024 →
    ∃ t w', exec (.bfq f) s = .next t ∧ e.Ends s t w' ∧ SameBytes s t ∧ e.Leaves w' [] ∧
      (t.pkg pkg).bfQueue = (s1.pkg pkg).bfQueue ++ [BfReq.mk (BitVec.ofNat 64 page) (BitVec.ofNat 32 b)
        (BitVec.ofNat 32 (b / 2 ^ 32)) (BitVec.ofNat 16 (e.addrPart s1 f.c l)) e.w.ctx.asid])

/-- R300 to R316: attn, conft and bfq complete, with the exit test and the backfill queue; a walk reads its pages in order, ahead of
itself by four, and ends in the row state and the accumulators that its pages' exps and products give. -/
def Obligations.AttentionAndExit : Prop :=
  Clause.AttentionIssues ∧ Clause.AttentionReads ∧ Clause.AttentionComputes

/-! ### Groups 0xD and 0xE: synchronization and system -/

/-- R210, R211: at `bar` and `barm` the taking lanes hold and the others go on, and the phase opens where none is open; a phase
of every participant completes when each unexited warp of its running units has arrived, a counted one at its count; completing
flips the parity and moves the held lanes past the instruction. -/
def Sys2Proof.Clause.BarrierNetworks : Prop :=
  (∀ p ∈ [((Instr.bar : Fields → Instr), fun _ : Fields => (none : Option Nat)),
      (.barm, fun f => some ((f.imm.extractLsb' 16 8).toNat + 1))], ∀ s f e s1, Issues s (p.1 f) f e s1 → e.taking ≠ 0 →
    let scope := mdN f 0 3
    let id := (f.imm.extractLsb' 0 4).toNat
    let n := (BarKey.mk scope id (s1.barDom scope e.w)).code
    s1.barAllowed e.w scope = true →
    ∃ w', exec (p.1 f) s = .next ({ e.after s1 w' with
        phases := if (aget s1.phases n).isSome then s1.phases
                  else aset s1.phases n { count := p.2 f, away := [] } }.barTry n) ∧
      e.Settled w' ∧ e.SameRegs w' ∧ e.Raised w' 0 ∧
      e.LanesGo w' fun l x =>
        if e.taking.getLsbD l then { x with st := .hold (.bar scope id) } else { x with pc := x.pc + 16 }) ∧
  (∀ (s : State) (k : BarKey) (p : BarPhase), (∀ c ∈ s.cores, c.2.hoops = []) → k.scope ≠ 3 →
    (∀ x ∈ s.groups, k.hasGroup x.1 x.2 = true → x.2.phase = .running) →
    (p.count = none →
      (s.barDone k p = true ↔ ∀ x ∈ s.groups, k.hasGroup x.1 x.2 = true → ∀ w ∈ s.barWarps k x.1, w.arrived k = true)) ∧
    (∀ n, p.count = some n →
      (s.barDone k p = true ↔ n ≤ ((s.groups.filter fun x => k.hasGroup x.1 x.2).map fun x =>
        (s.barWarps k x.1).countP fun w => w.arrived k).sum))) ∧
  (∀ (s : State) n p, aget s.phases n = some p →
    (s.barDone (barKeyOf n) p = false → s.barTry n = s) ∧
    (s.barDone (barKeyOf n) p = true →
      let k := barKeyOf n
      let t := s.barTry n
      aget t.phases n = none ∧ aget t.parities n = some (((aget s.parities n).getD 0 + 1) % 2) ∧ t.mem = s.mem ∧
      ∀ key w g, aget s.warps key = some w → w.kind ≠ .service → k.hasWarp w = true → aget s.groups w.gid = some g →
        k.hasGroup w.gid g = true →
        ∃ w', aget t.warps key = some w' ∧ w' = { w with lanes := w'.lanes } ∧
          ∀ l x, l < 32 → w.lanes[l]? = some x → w'.lanes[l]? = some
            (if x.st = .hold (.bar k.scope k.id) then { x with st := .run, pc := x.pc + 16 } else x)))

/-- R212 to R214: the decrement of a barrier object; `barv` leaves the decremented object in memory and the PHASE that it met
outstanding for D; `wait` holds its lanes while PHASE equals B and moves on once it differs. -/
def Sys2Proof.Clause.BarrierObjects : Prop :=
  (∀ ct ini ph : Nat, ct < 2 ^ 32 → ini < 2 ^ 16 → ph < 2 ^ 16 →
    let obj (a b c : Nat) : Nat := a + b * 2 ^ 32 + c * 2 ^ 48
    barPhase (obj ct ini ph) = ph ∧
    barObjStep (obj ct ini ph) =
      if ct = 0 then obj 0 ini ph else if ct = 1 then obj ini ini ((ph + 1) % 2 ^ 16) else obj (ct - 1) ini ph) ∧
  (∀ s f e s1 l, Issues s (.barv f) f e s1 → e.leading = some l → e.w.busy f.d.toNat = false →
    (e.isSeq = true → e.bucketOpen s1) →
    let va := e.vaA s1
    ∀ ls, s1.grantsOne (e.who s1) Acc.atomic va 8 ls → inMemory ls (vaRange va 8) →
      let old := s1.numberAt ls 0 va 8
      ∀ r, s1.atomStep (e.who s1) ls 0 va 8 barObjStep = .ok r →
        ∃ t w', exec (.barv f) s = .next t ∧ e.Ends s t w' ∧
          (s.connected → noChecksum ls → s1.storeBad (e.who s1) (keyOf ls 0 va) = none →
            WroteNumber s t ls 0 va 8 (barObjStep old)) ∧
          e.Leaves w' [.u f.d.toNat (BitVec.ofNat 64 (barPhase old))] ∧ w'.bound = adel e.w.bound f.d.toNat) ∧
  (∀ s f e s1 l, Issues s (.wait f) f e s1 → e.leading = some l → (e.isSeq = true → e.bucketOpen s1) →
    let va := e.vaA s1
    ∀ ls, s1.grantsOne (e.who s1) Acc.waiting va 8 ls → inMemory ls (vaRange va 8) →
      let phase := barPhase (s1.numberAt ls 0 va 8)
      let old := e.addrPart s1 f.b l % 2 ^ 16
      (phase = old → ∃ w', exec (.wait f) s = .next (e.after s1 w') ∧ e.HeldBy w' (.wait (keyOf ls 0 va) phase)) ∧
      (phase ≠ old → ∃ t w', exec (.wait f) s = .next t ∧ e.Ends s t w' ∧ (s.connected → SameBytes s t) ∧ e.Quiet w'))

/-- R210, R211, R212 to R214: bar, barm, barv and wait. -/
def Obligations.Barriers : Prop :=
  Clause.BarrierNetworks ∧ Clause.BarrierObjects

/-- R216, R263: `launch` appends its record to the chain that B names and leaves the record's number outstanding for D; the
append zeroes the record's link, links it behind a waiting tail, and counts NEXT on; a full chain takes nothing (R264). -/
def Sys2Proof.Clause.LaunchAppends : Prop :=
  (∀ s f e s1 l, Issues s (.launch f) f e s1 → e.leading = some l → e.w.busy f.d.toNat = false →
    let va := e.vaA s1
    va % 256 = 0 → ∀ k x, s1.trans (e.who s1) { types := 5 } va = .at (.mem k) x →
      ∀ n s2, s1.append (pkgOfCore e.w.core) (e.uniSrc s1 f.b % 16) k
          (if e.w.kind = .service then none else some e.w.ctx.asid) none = .ok (some (n, s2)) →
        ∃ t w', exec (.launch f) s = .next t ∧ e.Ends s t w' ∧ t.mem = s2.mem ∧ t.pkgs = s2.pkgs ∧
          e.Leaves w' [.u f.d.toNat (n.setWidth 64)] ∧ w'.bound = adel e.w.bound f.d.toNat) ∧
  (∀ (s : State) pkg p addr user slot n t, s.append pkg p addr user slot = .ok (some (n, t)) → p < (s.pkg pkg).chains.length →
    let c := s.chain pkg p
    let d := t.chain pkg p
    n = c.next ∧ d.next = c.next + 1 ∧ d.tail = BitVec.ofNat 64 addr ∧ d.done = c.done ∧ d.stop = c.stop ∧
    d.head = (if c.head = 0 then BitVec.ofNat 64 addr else c.head) ∧
    (c.head = 0 → s.takesBytes addr 8 → t.le addr 8 = 0) ∧
    (c.head ≠ 0 → s.takesBytes c.tail.toNat 8 → t.le c.tail.toNat 8 = addr % 2 ^ 64)) ∧
  (∀ (s : State) pkg p addr user slot, 2 ^ 31 - 1 ≤ ((s.chain pkg p).next - 1 - (s.chain pkg p).done).toNat →
    s.append pkg p addr user slot = .ok none)

/-- R217, R259, R347: a converged warp whose results and counters have come stays where its target needs no move, and else lands,
keeping its registers: at home on its own slot, on the core that an SPAD address names, or on the first core of the die of a GLOBAL
address's set, in round-robin order after the last core used, that has a free landing slot; with none free it waits held. Of two free
slots of a core the lower is taken (log entry 74). -/
def Sys2Proof.Clause.Migration : Prop :=
  ∀ s f e s1 l, Issues s (.migrate f) f e s1 → e.leading = some l → e.w.kind ≠ .service →
    (e.w.which fun x => !x.isExit) = e.lanes → (∀ x ∈ e.w.lanes, x.st = .run ∨ x.st = .exited) →
    e.w.countersZero = true → e.w.flights = [] →
    let there := s1.migTarget (e.waited.who s1) (e.waited.addrPart s1 f.a l)
    let home := e.key / 64
    (there = .stay ∨ (∃ g, there = .go g ∧ g.target = dieOf e.w.core) →
      ∃ w', exec (.migrate f) s = .next (e.after s1 w') ∧ e.waited.Quiet w') ∧
    (∀ g, there = .go g → g.target ≠ dieOf e.w.core →
      ∀ core slot, (g.target = dieOf home ∧ core = home ∧ slot = e.key % 64) ∨
          (g.target ≠ dieOf home ∧ g = .core core ∧ s1.landingSlot core = some slot) →
        ∃ t w', exec (.migrate f) s = .next t ∧ aget t.warps e.key = some w' ∧ SameBytes s t ∧ w'.core = core ∧
          w'.slot = slot ∧ w'.goal = none ∧ w'.away = (if core = home then none else some (dieOf core)) ∧ e.SameRegs w' ∧
          e.LanesGo w' fun _ x => { x with pc := x.pc + 16 }) ∧
    (∀ d, there = .go (.die d) → d ≠ dieOf e.w.core → d ≠ dieOf home →
      let after (j : Nat) : Nat := 32 * d + ((s1.die d).landRR + 1 + j) % 32
      ∀ k < 32, (∀ j < k, s1.landingSlot (after j) = none) → ∀ slot, s1.landingSlot (after k) = some slot →
        ∃ t w', exec (.migrate f) s = .next t ∧ aget t.warps e.key = some w' ∧ SameBytes s t ∧ w'.core = after k ∧
          w'.slot = slot ∧ w'.goal = none ∧ w'.away = some (dieOf (after k)) ∧ (t.die d).landRR = after k % 32 ∧ e.SameRegs w' ∧
          e.LanesGo w' fun _ x => { x with pc := x.pc + 16 }) ∧
    (∀ g, there = .go g → g.target ≠ dieOf e.w.core → g.target ≠ dieOf home →
      (∀ core, (g = .core core ∨ g = .die (dieOf core)) → s1.landingSlot core = none) →
      ∃ w', exec (.migrate f) s = .next (e.after s1 w') ∧ w'.goal = some g ∧ e.SameRegs w' ∧
        e.LanesGo w' fun _ x => { x with st := .hold .migrate })

/-- R216, R217, R259, R263, R347: launch appends a record to a chain; migrate moves a warp towards an address (which of two free
slots it takes is log entry 74). -/
def Obligations.LaunchAndMigration : Prop :=
  Clause.LaunchAppends ∧ Clause.Migration

/-- R218: `regdon` records the leading lane's gift, or none where no lane leads, and holds its lanes for the rendezvous; a rendezvous
that succeeds gives every warp its new budget and moves it on; gifts keep the sum of the budgets, each of which stays in 16 to 256. -/
def Sys2Proof.Clause.RegisterDonation : Prop :=
  (∀ s f e s1, Issues s (.regdon f) f e s1 → e.taking = 0 → (∀ r, s1.recOf e.w = some r → r.donate = false) ∨ e.w.away ≠ none →
    ∃ w', exec (.regdon f) s = .next (e.after s1 w') ∧ e.Quiet w') ∧
  (∀ s f e s1 r, Issues s (.regdon f) f e s1 → s1.recOf e.w = some r → r.donate = true → e.w.away = none →
    ∃ s2 w', exec (.regdon f) s = .next ((e.after s2 w').tryDonate e.w.gid e.w.wg) ∧ e.Settled w' ∧ e.SameRegs w' ∧
      e.Raised w' 0 ∧ (e.LanesGo w' fun _ x => { x with st := .hold .regdon }) ∧ s2.mem = s1.mem ∧ s2.warps = s1.warps ∧
      ∀ g x, aget s1.groups e.w.gid = some g → g.wgs[e.w.wg]? = some x →
        let others := x.gifts.filter fun y => y.1 != e.w.wid
        ∃ g', aget s2.groups e.w.gid = some g' ∧
          (∀ l, e.leading = some l →
            g'.wgs[e.w.wg]? = some { x with gifts := others ++ [(e.w.wid, e.addrPart s1 f.a l, mdN f 0 5)] }) ∧
          (e.leading = none → g'.wgs[e.w.wg]? = some { x with gifts := if e.w.atRegdon then x.gifts else others })) ∧
  (∀ (ws : AMap Warp) gifts bs, newBudgets ws gifts = some bs → (ws.map fun e => e.2.wid).Nodup →
    bs.map Prod.fst = ws.map Prod.fst ∧ (bs.map Prod.snd).sum = (ws.map fun e => e.2.vregs.length).sum ∧
    ∀ b ∈ bs, 16 ≤ b.2 ∧ b.2 ≤ 256) ∧
  (∀ (s : State) gid wg (g : Group) (x : Wg) bs, aget s.groups gid = some g → g.wgs[wg]? = some x → Keyed s.warps →
    let ws := s.warps.filter fun e => e.2.kind == .user && e.2.gid == gid && e.2.wg == wg && !e.2.allExited
    ws ≠ [] → (∀ e ∈ ws, e.2.donating = true) → newBudgets ws x.gifts = some bs →
    let t := s.tryDonate gid wg
    t.mem = s.mem ∧ ∀ k n, (k, n) ∈ bs → ∃ w w', aget s.warps k = some w ∧ aget t.warps k = some w' ∧
      w'.vregs = w.vregs.take n ++ List.replicate (n - w.vregs.length) VReg.void ∧
      ∀ l y, l < 32 → w.lanes[l]? = some y →
        w'.lanes[l]? = some (if y.st = .hold .regdon then { y with st := .run, pc := y.pc + 16 } else y))

/-- R219, R278, R458: `pgrant 0` gives the held grants up; another asks for grants, which an idle power manager gives at once
where the window has 512 units for each, and else queues. That it issues at once, its completion outstanding until the grants are
given, is the model's reading (log entry 73). -/
def Sys2Proof.Clause.PowerGrants : Prop :=
  CompletesAs .pgrant (fun e s1 => e.f.imm.extractLsb' 0 16 = 0 ∧ (s1.unit e).grantReq = none)
    (fun e s1 => s1.setGroup e.w.gid { s1.unit e with grants := 0 }) ∧
  ∀ s f e s1 g, Issues s (.pgrant f) f e s1 → e.taking ≠ 0 → aget s1.groups e.w.gid = some g → g.grantReq = none →
    g.seq = some e.key →
    let die := dieOf e.w.core
    let n := (f.imm.extractLsb' 0 16).toNat
    let d := s1.die die
    n ≠ 0 → d.pmQueue = [] →
    (d.pmCharged + 512 * n ≤ 400 * d.pmE → e.w.swPark = false → (∀ x ∈ e.w.flights, x.id ≠ s1.nextId) →
      ∃ t w', exec (.pgrant f) s = .next t ∧ e.Ends s t w' ∧ SameBytes s t ∧ e.Quiet w' ∧
        aget t.groups e.w.gid = some { g with grants := min (g.grants + n) 65535 } ∧
        (t.die die).pmCharged = d.pmCharged + 512 * n ∧ (t.die die).pmQueue = []) ∧
    (400 * d.pmE < d.pmCharged + 512 * n →
      ∃ t w', exec (.pgrant f) s = .next t ∧ e.Ends s t w' ∧ SameBytes s t ∧ e.Leaves w' [] ∧
        aget t.groups e.w.gid = some { g with grantReq := some s1.nextId } ∧
        (t.die die).pmCharged = d.pmCharged ∧ (t.die die).pmQueue.map GrantReq.n = [n])

/-- R218, R219, R278, R458: regdon holds the lanes until the workgroup has met; pgrant asks for and returns power grants (its outstanding
completion is log entry 73). -/
def Obligations.DonationAndGrants : Prop :=
  Clause.RegisterDonation ∧ Clause.PowerGrants

/-- R225: `trapret` on the posting of another warp resumes the named lanes parked on it, at the instruction or behind it, or
ends them, and leaves the set it acted on outstanding for D; on a handle that names nothing it does nothing and delivers 0. -/
def Obligations.TrapReturns : Prop :=
  ∀ p ∈ [(Instr.trapret, 0), (.trapretSkip, 1), (.trapretKill, 2)], ∀ s f e s1, Issues s (p.1 f) f e s1 → e.taking ≠ 0 →
    e.w.busy f.d.toNat = false →
    let h := e.uniSrc s1 f.a
    (aget s1.postings h = none → ∃ w', exec (p.1 f) s = .next (e.afterFly s1 w') ∧ e.Leaves w' [.u f.d.toNat 0]) ∧
    (∀ x key w, Keyed s.warps → aget s1.postings h = some x → x.target = .warp key → key ≠ e.key → aget s1.warps key = some w →
      w.kind = .service ∨ s1.unitAnswers w.gid = true →
      let m := w.parkedOn h &&& BitVec.ofNat 32 (e.uniSrc s1 f.b)
      m ≠ 0 →
      ∃ t w', exec (p.1 f) s = .next t ∧ aget t.warps e.key = some w' ∧ e.Leaves w' [.u f.d.toNat (m.setWidth 64)] ∧
        SameBytes s t ∧
        (p.2 ≠ 2 ∨ (∃ l y, w.lanes[l]? = some y ∧ y.st = .run ∧ m.getLsbD l = false) →
          ∃ u, aget t.warps key = some u ∧ u = { w with lanes := u.lanes } ∧
            ∀ l y, l < 32 → w.lanes[l]? = some y → y.isHold = false → u.lanes[l]? = some
              (if m.getLsbD l then
                (if p.2 = 2 then { y with st := .exited }
                 else { y with st := .run, pc := if p.2 = 1 then y.pc + 16 else y.pc })
               else y)) ∧
        (p.2 = 2 → w.kind = .user → w.flights = [] → w.countersZero = true →
          (∀ l y, w.lanes[l]? = some y → y.st = .exited ∨ m.getLsbD l = true) → aget t.warps key = none))

/-- R221 to R224, R252, R256, R325, R357, R436, R442: `csrr` leaves a CSR's value outstanding for D, and clears FSTAT where it reads it;
`csrw` of a context CSR keeps its writable bits, and one of CSRs 1, 2, 8, 9 and 0x0A replaces it; `lnkq` delivers an item of a link;
`halt` stops its die. -/
def Sys2Proof.Clause.CsrAccess : Prop :=
  (∀ s f e s1, Issues s (.csrr f) f e s1 → e.taking ≠ 0 → e.csrFault s1 true = none → e.w.busy f.d.toNat = false →
    (csrNum f ≠ 0 → ∃ w', exec (.csrr f) s = .next (e.afterFly s1 w') ∧
      e.Leaves w' [.u f.d.toNat (s1.csr e.w (csrNum f) (e.csrIdx s1))]) ∧
    (csrNum f = 0 → (∀ r ∈ e.w.recent, ∀ x, r.old ≠ .flags x) →
      ∃ w', exec (.csrr f) s = .next (e.afterFly s1 w') ∧
        { e with w := { e.w with fstat := 0 } }.Leaves w' [.u f.d.toNat (e.w.fstat.setWidth 64)])) ∧
  (∀ s f e s1, Issues s (.csrw f) f e s1 → e.taking ≠ 0 → e.csrFault s1 false = none → e.w.flights = [] →
    let n := csrNum f
    let v : Word := BitVec.ofNat 64 (e.waited.uniSrc s1 f.a)
    let c := e.w.ctx
    (3 ≤ n ∧ n ≤ 7 → ∃ w', exec (.csrw f) s = .next (e.after s1 w') ∧
      { e with w := { e.waited.w with ctx := {
          asid := if n = 3 then v.setWidth 16 else c.asid,
          ptbase := if n = 4 then v &&& 0x00FFFFFFFFFF8000 else c.ptbase,
          ctxbase := if n = 5 then v &&& 0x00FFFFFFFFFFFFC0 else c.ctxbase,
          utrapvec := if n = 6 then v &&& 0xFFFFFFFFFFFFFFF0 else c.utrapvec,
          errqbase := if n = 7 then v &&& 0x00FFFFFFFFFFF00F else c.errqbase } } }.Quiet w') ∧
    (n ∈ [1, 2, 8, 9, 0x0A] → ∃ s2 w', exec (.csrw f) s = .next (e.after s2 w') ∧ e.waited.Quiet w' ∧ s2.mem = s1.mem ∧
      s2.warps = s1.warps ∧
      let k := e.w.core
      (s2.core k).reformage = (if n = 1 then v.setWidth 16 else (s1.core k).reformage) ∧
      (s2.core k).swapthr = (if n = 2 then v.setWidth 32 else (s1.core k).swapthr) ∧
      (s2.die (dieOf k)).trapvec = (if n = 8 then v &&& 0xFFFFFFFFFFFFFFF0 else (s1.die (dieOf k)).trapvec) ∧
      (s2.die (dieOf k)).svcq = (if n = 9 then v &&& 0x00FFFFFFFFFE0000 else (s1.die (dieOf k)).svcq) ∧
      (s2.pkg (pkgOfCore k)).migthr = (if n = 0x0A then v.setWidth 16 else (s1.pkg (pkgOfCore k)).migthr))) ∧
  (∀ s f e s1, Issues s (.lnkq f) f e s1 → e.taking ≠ 0 → e.w.busy f.d.toNat = false →
    let l := s1.link (16 * pkgOfCore e.w.core + (f.imm.extractLsb' 0 4).toNat)
    let k := (f.imm.extractLsb' 4 3).toNat
    ∃ w', ∃ x : Word, exec (.lnkq f) s = .next (e.afterFly s1 w') ∧ e.Leaves w' [.u f.d.toNat x] ∧
      (k = 0 → l.att < 4 → l.runRate < 16 → l.width < 16 → x.getLsbD 63 = l.down ∧ x.getLsbD 62 = l.training ∧
        x.extractLsb' 16 2 = BitVec.ofNat 2 l.att ∧
        x.extractLsb' 0 16 = if l.down then 0 else BitVec.ofNat 16 (l.runRate * 2 ^ 12 + l.width * 2 ^ 8 + l.gmap.toNat)) ∧ (k = 1 → x = l.crc) ∧ (k = 2 → x = l.replayCount) ∧
      (3 ≤ k → x = l.retired.extractLsb' (64 * (k - 3)) 64)) ∧
  (∀ s f e s1, Issues s (.halt f) f e s1 → e.taking ≠ 0 →
    ∃ t w', exec (.halt f) s = .next t ∧ e.Ends s t w' ∧ (s.connected → SameBytes s t) ∧ e.Quiet w' ∧
      (t.die (dieOf e.w.core)).halted = true)

/-- R221, R262, R267, R309, R378, R457, R460, R466: `csrw` of CSRs 0x0B to 0x14. LCHEAD sets, clears or moves its chain's head, LCTAIL
appends to the chain, LNKCTL takes its fields and may start a retraining, BFCFG starts the backfill engine again, ALARMCFG raises its
levels once LOCK is set, PWRCTL and the counters' registers keep their defined bits. LCDONE and LNKSTAT cannot be written. -/
def Sys2Proof.Clause.MachineCsrWrites : Prop :=
  ∀ s f e s1, Issues s (.csrw f) f e s1 → e.taking ≠ 0 → e.csrFault s1 false = none → e.w.flights = [] →
    let n := csrNum f
    let i := e.waited.csrIdx s1
    let v : Word := BitVec.ofNat 64 (e.waited.uniSrc s1 f.a)
    let core := e.w.core
    let pkg := pkgOfCore core
    let p := s1.pkg pkg
    let leaves (post : State → Prop) : Prop :=
      ∃ s2 w', exec (.csrw f) s = .next (e.after s2 w') ∧ e.waited.Quiet w' ∧ SameBytes s1 s2 ∧ s2.warps = s1.warps ∧ post s2
    (n = 0x0B → i < p.chains.length →
      let c := s1.chain pkg i
      let a : Word := BitVec.ofNat 64 (recAddr v.toNat)
      (v.getLsbD 62 = false → leaves fun s2 => s2.chain pkg i = { c with stop := v.getLsbD 63, head := a }) ∧
      (v.getLsbD 62 = true → v.getLsbD 63 = false → c.stop = true → leaves fun s2 =>
        let d := s2.chain pkg i
        d.stop = false ∧ d.head = a ∧ d.next = c.next ∧ d.taken = if a = 0 then c.next else c.taken + 1) ∧
      (v.getLsbD 62 = true → v.getLsbD 63 = true ∨ c.stop = false → leaves fun s2 => s2 = s1)) ∧
    (n = 0x0C → ∀ num s2, s1.append pkg i (recAddr v.toNat) none none = .ok (some (num, s2)) →
      ∃ w', exec (.csrw f) s = .next (e.after s2 w') ∧ e.waited.Quiet w') ∧
    (n = 0x0E → leaves fun s2 =>
      let l := s1.link (16 * pkg + i)
      let l' := s2.link (16 * pkg + i)
      l'.rethr = v.extractLsb' 32 16 ∧ l'.fbthr = v.extractLsb' 20 4 ∧ l'.autofb = v.getLsbD 0 ∧
        l'.rate = (if (v.extractLsb' 12 4).toNat ≤ 4 then v.extractLsb' 12 4 else l.rate) ∧
        l'.training = (l.training || v.getLsbD 8) ∧
        (v.getLsbD 8 = true → l.training = false → l'.att = 0 ∧ l'.tryRate = l'.rate.toNat)) ∧
    (n = 0x10 → leaves fun s2 => s2.pkg pkg = { p with bfcfg := v &&& 0xFFFFFFFFFFFF00FF, bfStopped := false }) ∧
    (n = 0x11 → leaves fun s2 => s2.pkg pkg = { p with pwrctl := v &&& 0x0000FFFFFFFF0000 }) ∧
    (n = 0x12 → leaves fun s2 =>
      let new := (s2.pkg pkg).alarmcfg
      s2 = s1.setPkg pkg { p with alarmcfg := new } ∧ new.getLsbD 63 = (p.alarmcfg.getLsbD 63 || v.getLsbD 63) ∧
        ∀ j < 4, alarmLevel new j =
          if p.alarmcfg.getLsbD 63 then max (alarmLevel p.alarmcfg j) (alarmLevel v j) else alarmLevel v j) ∧
    ((i < 8 → i < (s1.core core).cnt.length) → (8 ≤ i → i < 24 → i - 8 < (s1.die (dieOf core)).cnt.length) →
      (24 ≤ i → i - 24 < p.cnt.length) → i < 40 →
      (n = 0x13 → leaves fun s2 => ∀ j < 40, s2.counter core j =
        if j = i then { s1.counter core i with en := v.getLsbD 63, ovi := v.getLsbD 62, src := v.extractLsb' 0 8 }
        else s1.counter core j) ∧
      (n = 0x14 → leaves fun s2 => ∀ j < 40, s2.counter core j =
        if j = i then { s1.counter core i with count := v.extractLsb' 0 48 } else s1.counter core j))

/-- R221 to R224, R252, R256, R262, R267, R309, R325, R357, R378, R436, R442, R457, R460, R466: csrr and csrw of every CSR, lnkq and
halt. -/
def Obligations.ControlRegisters : Prop :=
  Clause.CsrAccess ∧ Clause.MachineCsrWrites

/-- R226 to R228: while no copy, engine or softmax move uses a translation, a `tlbinv` leaves no translation of its kind in
the TLBs that its scope reaches and touches no other, and while one uses a translation that it covers it is held; `ptw` writes the entry
that its walk finds; `pgref` moves COUNT, clearing V when it falls to zero. -/
def Obligations.Translations : Prop :=
  (∀ p ∈ [((Instr.tlbinvAddr : Fields → Instr), true, true), (.tlbinvAsid, false, true), (.tlbinvAll, false, false)],
    ∀ s f e s1, Issues s (p.1 f) f e s1 → e.taking ≠ 0 → s1.inFlight = [] →
    let sc := mdN f 0 3
    let own := e.w.core
    let hit (t : TlbEntry) : Bool := if p.2.1 then t.hits (BitVec.ofNat 16 (e.uniSrc s1 f.b)) (e.uniSrc s1 f.a)
      else if p.2.2 then BitVec.ofNat 16 (e.uniSrc s1 f.b) == t.asid else true
    let cores (c : Nat) : Bool := if sc = 0 then c == own else if sc = 1 then c / 4 == own / 4
      else if sc = 2 then c / 32 == own / 32 else if sc = 3 then c / 256 == own / 256 else true
    let dies (d : Nat) : Bool := if sc < 2 then false else if sc = 2 then d == own / 32
      else if sc = 3 then d / 8 == own / 256 else true
    ∃ t w', exec (p.1 f) s = .next t ∧ e.Ends s t w' ∧ SameBytes s t ∧ e.Leaves w' [] ∧
      (∀ c, (t.core c).tlb = if cores c then (s1.core c).tlb.filter fun x => !hit x else (s1.core c).tlb) ∧
      (∀ d, (t.die d).tlb = if dies d then (s1.die d).tlb.filter fun x => !hit x else (s1.die d).tlb)) ∧
  (∀ s f e s1, Issues s (.tlbinvAll f) f e s1 → e.taking ≠ 0 → mdN f 0 3 = 4 → s1.inFlight ≠ [] →
    ∃ w', exec (.tlbinvAll f) s = .next (e.after s1 w') ∧ e.HeldBy w' .copies) ∧
  (∀ s f e s1, Issues s (.ptw f) f e s1 → e.taking ≠ 0 → e.w.busy f.d.toNat = false → s1.inFlight = [] →
    let pkg := pkgOfCore e.w.core
    let found := s1.entryAt (dieOf e.w.core) (e.uniSrc s1 f.a) (if mdB f 3 then 1 else 0) 4 (ptbAddr e.w.ctx.ptbase)
    (∀ level, found = .inl level →
      ∃ w', exec (.ptw f) s = .next (e.afterFly s1 w') ∧ e.Leaves w' [.u f.d.toNat (BitVec.ofNat 64 level)]) ∧
    (∀ key s2, found = .inr key →
      s1.agentWrite pkg key (leBytes 8 (e.uniSrc s1 f.b) ++ leBytes 8 (e.uniSrc s1 f.c)) = .ok s2 →
      ∃ t w', exec (.ptw f) s = .next t ∧ e.Ends s t w' ∧ e.Leaves w' [.u f.d.toNat 0] ∧
        (s.connected → SameBytesBut s t ((List.range 16).map (key + ·))) ∧
        (s.takesBytes key 16 → t.le key 8 = e.uniSrc s1 f.b % 2 ^ 64 ∧ t.le (key + 8) 8 = e.uniSrc s1 f.c % 2 ^ 64))) ∧
  (∀ s f e s1, Issues s (.pgref f) f e s1 → e.taking ≠ 0 → e.w.busy f.d.toNat = false → s1.inFlight = [] →
    let pkg := pkgOfCore e.w.core
    let delta : Int := if f.b = .imm then f.imm.toInt else (BitVec.ofNat 32 (e.uniSrc s1 f.b)).toInt
    let walk := s1.walk (dieOf e.w.core) e.w.ctx.ptbase (e.uniSrc s1 f.a)
    (∀ level, walk = .fail level →
      ∃ w', exec (.pgref f) s = .next (e.afterFly s1 w') ∧ e.Leaves w' [.u f.d.toNat (1#64 <<< 62)]) ∧
    (∀ key level lo hi, walk = .leaf key level lo hi →
      let old := (lo.extractLsb' 10 16).toNat
      (old + delta < 0 ∨ 65535 < old + delta →
        ∃ w', exec (.pgref f) s = .next (e.afterFly s1 w') ∧
          e.Leaves w' [.u f.d.toNat (1#64 <<< 62 ||| BitVec.ofNat 64 old)]) ∧
      (∀ new : Nat, (new : Int) = old + delta → new ≤ 65535 →
        let freed := new = 0 ∧ old ≠ 0
        let entry := (lo &&& ~~~(0xFFFF#64 <<< 10) ||| BitVec.ofNat 64 new <<< 10) &&& (if freed then ~~~(1#64) else BitVec.allOnes 64)
        ∀ s2, s1.agentWrite pkg key (leBytes 8 entry.toNat) = .ok s2 →
          ∃ t w', ∃ x : Word, exec (.pgref f) s = .next t ∧ e.Ends s t w' ∧ e.Leaves w' [.u f.d.toNat x] ∧
            (s.connected → SameBytesBut s t ((List.range 8).map (key + ·))) ∧ (s.takesBytes key 8 → t.le key 8 = entry.toNat) ∧
            x.getLsbD 63 = decide freed ∧ x.getLsbD 62 = false ∧ x.extractLsb' 0 16 = BitVec.ofNat 16 new)))

/-- R229, R230, R232, R234, R235: `pcsv`, `vsave`, `accsv` and `tsv` write their section into a save area, in the capacity
tier, the homeless space or a host's memory, change no other byte, and leave its length outstanding for D. -/
def Sys2Proof.Clause.SavesWriteTheirSections : Prop :=
  CompletesSave .pcsv Env.waited (fun e _ => e.w.flights = [] ∧ e.w.countersZero = true) Env.vaA
    (fun e _ => controlBytes e.w e.lanes e.u e.q) ∧
  CompletesSave .vsave id (fun e _ => ∃ n, e.f.c = .v n) Env.vaA
    (fun e _ => (List.range ((e.f.md.extractLsb' 0 8).toNat + 1)).flatMap fun i =>
      (e.v ((match e.f.c with | .v n => n.toNat | _ => 0) + i)).record) ∧
  CompletesSave .accsv id
    (fun e s1 => e.w.kind ≠ .service ∧ e.w.away = none ∧ ∃ g, aget s1.groups e.w.gid = some g ∧ g.isQuad = true ∧
      colN e.f + ncN e.f ≤ 256 * g.width ∧ ∀ m ∈ g.mops, m.foot.shares (accFoot e.f) = false)
    (fun e s1 => e.uniSrc s1 e.f.a)
    (fun e s1 => (s1.unit e).accBytes (rowN e.f) (nrN e.f) (colN e.f) (ncN e.f) (mdB e.f 0)) ∧
  CompletesSave .tsv id
    (fun e s1 => e.tilesFault s1 = none ∧ ∀ n ∈ tileRange e.f, (s1.tile e.w.gid n).state ≠ 3 ∧
      ((s1.tile e.w.gid n).state = 1 → s1.copyInto e.w.gid n = false)) Env.vaA
    (fun e s1 => (tileRange e.f).flatMap fun n => (s1.tile e.w.gid n).record)

/-- R229, R231, R233 to R235: a section that passes its checks replaces the control state of the warp, the registers, the region
of the accumulators or the tiles; memory stays as it is. -/
def Sys2Proof.Clause.RestoresReadTheirSections : Prop :=
  (∀ s f e s1, Issues s (.pcrs f) f e s1 → e.taking ≠ 0 → e.bucketOpen s1 → e.w.flights = [] → e.w.countersZero = true →
    let va := e.waited.vaA s1
    ∀ ls c, e.waited.savable s1 Acc.saveIn va 1600 ls → parseControl (s1.areaBytes ls va 1600) = some c →
      c.budget = e.w.vregs.length → c.role = e.w.role → c.wid = e.w.wid →
      ∃ s2 w', exec (.pcrs f) s = .next ((e.after s2 w').settle e.key) ∧ (s.connected → SameBytes s s2) ∧ w'.vregs = e.w.vregs ∧
        w'.uregs = c.uregs ∧ w'.fstat = c.fstat ∧ w'.bound = [] ∧ w'.handler = .none ∧ w'.drawn = c.drawn ∧ w'.replay = c.parked ∧
        (∀ k, 1 ≤ k → w'.preds[k]? = c.preds[k]?) ∧
        ∀ l x, c.lanes[l]? = some x → w'.lanes[l]? = some
          (Lane.mk (BitVec.ofNat 64 (x.1 / 2 * 2)) (if c.exited.getLsbD l then .exited else .run) x.2 none)) ∧
  (∀ s f e s1 r, Issues s (.vrest f) f e s1 → e.taking ≠ 0 → e.bucketOpen s1 → e.w.busy f.d.toNat = false → f.c = .v r →
    let va := e.vaA s1
    ∀ rs n ls, e.readRecords s1 va ((f.md.extractLsb' 0 8).toNat + 1) = .inr (rs, n) → e.savable s1 Acc.saveIn va n ls →
      ∃ t w', exec (.vrest f) s = .next t ∧ e.Ends s t w' ∧ (s.connected → SameBytes s t) ∧
        e.Leaves w' ((mapFrom r.toNat fullWrite rs) ++ [.u f.d.toNat (BitVec.ofNat 64 n)])) ∧
  (∀ s f e s1 g, Issues s (.accrs f) f e s1 → e.taking ≠ 0 → e.bucketOpen s1 → e.w.busy f.d.toNat = false →
    e.w.kind ≠ .service → e.w.away = none → aget s1.groups e.w.gid = some g → g.isQuad = true →
    colN f + ncN f ≤ 256 * g.width →
    let va := e.uniSrc s1 f.a
    let n := nrN f * accStride (ncN f) + (if mdB f 0 then csumBytes (ncN f) else 0)
    ∀ ls g', e.savable s1 Acc.saveIn va n ls →
      g.accRestore (rowN f) (nrN f) (colN f) (ncN f) (mdB f 0) (s1.areaBytes ls va n) = some g' →
      ∃ t w', exec (.accrs f) s = .next t ∧ e.Ends s t w' ∧ (s.connected → SameBytes s t) ∧ aget t.groups e.w.gid = some g' ∧
        e.Leaves w' [.u f.d.toNat (BitVec.ofNat 64 n)]) ∧
  (∀ s f e s1 g, Issues s (.trs f) f e s1 → e.taking ≠ 0 → e.bucketOpen s1 → e.w.busy f.d.toNat = false →
    e.tilesFault s1 = none → aget s1.groups e.w.gid = some g →
    e.tableGrants s1 ((tileRange f).map fun n => (n, 0)) →
    let va := e.vaA s1
    let len := 144 * ((f.md.extractLsb' 0 6).toNat + 1)
    let rec_ (ls : Lines) (i : Nat) : List Byte := ((s1.areaBytes ls va len).drop (144 * i)).take 144
    ∀ ls, e.savable s1 Acc.saveIn va len ls →
      (∀ i ≤ (f.md.extractLsb' 0 6).toNat, tileRecFault (s1.tileFits e.w) (f.e.toNat + i) (rec_ ls i) = none) →
      ∃ t w' g', exec (.trs f) s = .next t ∧ e.Ends s t w' ∧ (s.connected → SameBytes s t) ∧
        e.Leaves w' [.u f.d.toNat (BitVec.ofNat 64 len)] ∧ aget t.groups e.w.gid = some g' ∧
        ∀ k < g.tiles.length, g'.tiles[k]? =
          if f.e.toNat ≤ k ∧ k ≤ f.e.toNat + (f.md.extractLsb' 0 6).toNat then some (parseTile (rec_ ls (k - f.e.toNat)))
          else g.tiles[k]?)

/-- R229, R230, R231, R232, R233 to R235, R234, R235: The save instructions write their sections and the restore instructions
read them back. -/
def Obligations.SavesAndRestores : Prop :=
  Clause.SavesWriteTheirSections ∧ Clause.RestoresReadTheirSections

/-- R230 to R233, R235: what a save writes, a restore reads back: a register of any tag and shape, a defined tile, and the control
state of a warp whose counters stand at instructions. That bits [63:60] of a lane of an L6 register are among what is saved is the
model's choice (log entry 92). -/
def Obligations.SavedFormsReturn : Prop :=
  (∀ r : VReg, r.lanes.length = 32 → r.tag.toNat < 0x14 → (r.tag = 0 → r = VReg.void) →
    (r.shape = .uniform → ∀ x ∈ r.lanes, x = r.lanes.headD 0) →
    (∀ t, r.shape = .affine t → fmtIntAddr r.tag.toNat = true ∧
      ∀ l < 32, r.lanes[l]? = some (affineLane r.tag.toNat (r.lanes.headD 0) t l)) →
    recLen (leNat (r.record.take 8)) = some r.record.length ∧ r.record.length % 16 = 0 ∧ parseVReg r.record = some r) ∧
  (∀ t : Tile, t.record.length = 144 ∧ (t.defd = true → parseTile t.record = t)) ∧
  (∀ (w : Warp) (u : Nat → Word) (q : Nat → List PBits), w.vregs.length < 65536 → w.role < 256 → w.wid < 256 →
    (∀ x ∈ w.lanes, x.pc.extractLsb' 0 4 = 0 ∧ x.delivery = none) →
    ∃ c, parseControl (controlBytes w 0 u q) = some c ∧ (controlBytes w 0 u q).length = 1600 ∧ c.budget = w.vregs.length ∧
      c.role = w.role ∧ c.wid = w.wid ∧ c.drawn = w.drawn ∧ c.fstat = w.allFlags ∧ c.exited = w.which Lane.isExit ∧
      c.uregs = (List.range 64).map u ∧
      (∀ l x, l < 32 → w.lanes[l]? = some x →
        ∃ y, c.lanes[l]? = some y ∧ y.2 = x.tid ∧ y.1 / 2 * 2 = x.pc.toNat ∧ (y.1 % 2 = 1 ↔ x.isPark = true)) ∧
      ∀ k l, 1 ≤ k → k < 8 → l < 32 → ∃ b, c.preds[k]? = some b ∧ b[l]? = some ((q k).getD l 0))

/-! ### Steps of other agents -/

/-- R47, R87, R214, R237, R242, R246, R253, R363: the delay of a warp passes; sleeping, waiting and first-write lanes are offered
again; a starved counter is named; a result returns, writes its registers and makes its change of a tile's entry; a hoop becomes due
and a due one is drawn. By how much the warp's cycle count advances is log entry 10, that an input ends a sleep is log entry 75, and
when held instructions are looked at again is log entry 53. -/
def Obligations.WarpAgents : Prop :=
  (∀ (s : State) k w, aget s.warps k = some w →
    (∃ w', exec (.delayExpiry k) s = .next (s.setWarp k w') ∧ w'.allFlags = w.allFlags ∧
      w' = { w with dly := 0, clk := w.clk + w.dly, fstat := w'.fstat, recent := w'.recent }) ∧
    (∀ m, ∃ u w', exec (.sleepExpiry k m) s = .next (s.setWarp k w') ∧
      u = { w with clk := u.clk, fstat := u.fstat, recent := u.recent } ∧ u.allFlags = w.allFlags ∧ w.clk ≤ u.clk ∧
      (∀ l x t, m.getLsbD l = true → w.lanes[l]? = some x → x.st = .hold (.sleep t) → t ≤ u.clk) ∧
      Retried u w' m fun h => ∃ t, h = .sleep t) ∧
    (∃ w', exec (.waitRecheck k) s = .next (s.setWarp k w') ∧
      Retried w w' (BitVec.allOnes 32) fun h => ∃ key p, h = .wait key p) ∧
    (∃ w', exec (.firstWriteRetry k) s = .next (s.setWarp k w') ∧
      Retried w w' (BitVec.allOnes 32) fun h => ∃ p set mark, h = .room p set mark ∧ s.roomChanged (p, set, mark) = true) ∧
    (exec (.starvationCount k) s = .next (s.setWarp k { w with
      first := (w.starve.find? fun e => 64 ≤ e.2).map Prod.fst })) ∧
    (∀ i g, w.flights[i]? = some g → s.awaited w g.id = false → (∀ p ∈ g.writes, p.2 = .sure ∨ p.2 = .lost) →
      (g.tile.isSome = true → s.unitStopped w.gid = false) →
      ∃ w', (g.tile = none →
          exec (.resultReturn k i) s = .next (({ s with freeN := s.freeN + 1 }.setWarp k w').settle k)) ∧
        (∀ n act, g.tile = some (n, act) → exec (.resultReturn k i) s =
          .next ((({ s with freeN := s.freeN + 1 }.setWarp k w').modTile w.gid n fun t =>
            match act with
            | .define d => d
            | .enter st => if st = 0 then t.empty else { t with state := st }).settle k)) ∧
        w'.flights = w.flights.eraseIdx i ∧ w'.allFlags = w.allFlags ||| g.flags ∧ w'.lanes = w.lanes ∧
        let r := (g.writes.filter fun p => p.2 == .sure).foldl (fun x p => x.put p.1) w
        w'.vregs = r.vregs ∧ w'.uregs = r.uregs ∧ w'.preds = r.preds ∧
        w'.swPark = (w.swPark && !(w.flights.eraseIdx i).isEmpty))) ∧
  (∀ (s : State) core i h, (s.core core).hoops[i]? = some h →
    (exec (.hoopAge core i) s = .next (s.setCore core { s.core core with
      hoops := (s.core core).hoops.set i { h with due := true } })) ∧
    (h.due = true → ∀ wid slot home, s.freeRoleSlot h.gid h.wg h.role = some (wid, slot, home) →
      ∃ w, exec (.hoopDraw core i) s = .next ((s.setCore core { s.core core with
          hoops := (s.core core).hoops.eraseIdx i }).setWarp (home * 64 + slot) w).settleBars ∧
        w.gid = h.gid ∧ w.wg = h.wg ∧ w.wid = wid ∧ w.role = h.role ∧ w.core = home ∧ w.slot = slot ∧ w.drawn = true ∧
        w.uregs = h.uregs ∧ w.fstat = h.fstat ∧ w.ctx = h.ctx ∧ w.vregs.map VReg.tag = h.tags ∧ w.lanes.length = 32 ∧
        ∀ l < 32, ∃ x, w.lanes[l]? = some x ∧ x.pc = h.pc ∧
          (∀ t, h.threads[l]? = some t → x.st = .run ∧ x.tid = t.tid ∧
            ∀ n v, w.vregs[n]? = some v → v.lanes[l]? = some (t.vals.getD n 0)) ∧
          (h.threads[l]? = none → x.st = .exited)))

/-- R217, R333, R437, R439, R449: a migrating warp lands in a free slot; a victim's migrated warp comes home; a program-level
fault is delivered to the whole warp, or ends its unit where no user trap entry takes it; a page walk enters the TLBs. -/
def Obligations.DeliveryAgents : Prop :=
  (∀ (s : State) k w core slot, aget s.warps k = some w → w.goal = some (.core core) → dieOf core ≠ dieOf (k / 64) →
    s.landingSlot core = some slot →
    ∃ t w', exec (.migrateLand k) s = .next t ∧ SameBytes s t ∧ aget t.warps k = some w' ∧ w'.core = core ∧ w'.slot = slot ∧
      w'.away = some (dieOf core) ∧ w'.goal = none ∧ w'.vregs = w.vregs ∧ w'.uregs = w.uregs ∧
      ∀ l x, l < 32 → w.lanes[l]? = some x → x.st = .hold .migrate →
        w'.lanes[l]? = some { x with st := .run, pc := x.pc + 16 }) ∧
  (∀ (s : State) k w g, aget s.warps k = some w → aget s.groups w.gid = some g → g.phase = .stopping → w.away ≠ none →
    w.flights = [] → w.countersZero = true →
    ∃ t w', exec (.migratedWarpReturn k) s = .next t ∧ SameBytes s t ∧ aget t.warps k = some w' ∧ w'.core = k / 64 ∧
      w'.slot = k % 64 ∧ w'.away = none ∧ w'.goal = none ∧
      ∀ l x, l < 32 → w.lanes[l]? = some x → (x.isHold = false → w'.lanes[l]? = some x) ∧
        (x.st = .hold .migrate → w'.lanes[l]? = some { x with st := .run })) ∧
  (∀ (s : State) k w, aget s.warps k = some w → w.pendingFault = true → w.ctx.utrapvec ≠ 0 → w.handler = .none →
    w.flights = [] →
    ∃ t w', exec (.programFaultDelivery k) s = .next t ∧ SameBytes s t ∧ (s.phases = [] → OtherWarps s t k) ∧
      aget t.warps k = some w' ∧ w'.handler = .fault ∧ w'.pendingFault = false ∧ w'.vregs = w.vregs ∧ w'.uregs = w.uregs ∧
      ∀ l x, l < 32 → w.lanes[l]? = some x → w'.lanes[l]? = some
        (match x.st with
         | .park c n 0 => { x with pc := w.ctx.utrapvec, st := .run,
                                   delivery := some (Delivery.mk (x.pc ||| 1) (BitVec.ofNat 8 c) n) }
         | .run => { x with pc := w.ctx.utrapvec, delivery := some (Delivery.mk x.pc 0 0) }
         | .hold _ => { x with pc := w.ctx.utrapvec, st := .run, delivery := some (Delivery.mk x.pc 0 0) }
         | _ => x)) ∧
  (∀ (s : State) gid g, aget s.groups gid = some g →
    (∃ x ∈ s.warps, x.2.kind = .user ∧ x.2.gid = gid ∧ x.2.fatal = true) →
    (∀ x ∈ s.warps, x.2.kind = .user → x.2.gid = gid → x.2.fatal = true → x.2.ownFault ≠ none) →
    ∃ t die r, exec (.workgroupFaultEnd gid) s = .next t ∧ SameBytes s t ∧
      (t.die die).postq = (s.die die).postq ++ [r] ∧ r.handle = s.nextHandle ∧ r.kind = 3 ∧
      (∀ x ∈ t.warps, ¬ (x.2.kind = .user ∧ x.2.gid = gid)) ∧
      (∀ g', aget t.groups gid = some g' → g'.faulted = true ∧ ∀ x ∈ g'.wgs, x.ended = true)) ∧
  (∀ (s : State) core asid ptbase (va : Word) key level lo hi, s.live (pkgOfCore core) = true → canonicalVa va.toNat = true →
    inAperture va.toNat = false →
    let f := s.walkFrom (dieOf core) (BitVec.ofNat 16 asid) (BitVec.ofNat 64 ptbase) va.toNat
    s.walkAt (dieOf core) va.toNat f.1 f.2 = .leaf key level lo hi → level ≤ 1 → (s.mkLeaf level lo hi).valid = true →
    ∃ t x, exec (.pageWalk core asid ptbase va) s = .next t ∧ (s.connected → SameBytes s t) ∧ t.warps = s.warps ∧
      (t.core core).tlb.head? = some x ∧ x.hits (BitVec.ofNat 16 asid) va.toNat = true ∧ x.leaf va.toNat = s.mkLeaf level lo hi ∧
      (t.core core).tlb.length ≤ 256 ∧ (t.die (dieOf core)).tlb.length ≤ 4096)

/-- R173, R175: a copy that lands fills its tile from memory, one that is accepted empties it, and both drop their counter. -/
def Sys2Proof.Clause.CopiesComplete : Prop :=
  (∀ (s : State) id c g w, aget s.copies id = some c → aget s.groups c.gid = some g → aget s.warps c.warp = some w →
    s.anyReset c.who c.lines c.isOut = false → g.phase ≠ .stopped → w.kind = .user → w.allExited = false → w.donating = false → s.phases = [] →
    (g.wgs.all Wg.ended = false) → c.tile < g.tiles.length →
    (c.isOut = false →
      ∃ t w' g' bad, exec (.copyInLanded id) s = .next t ∧ aget t.copies id = none ∧
        aget t.groups c.gid = some g' ∧
        g'.tiles = modAt g.tiles c.tile (fun y => { y with state := 2, psn := y.psn || bad }) ∧
        aget t.warps c.warp = some w' ∧ w'.lanes = w.lanes ∧
        w'.bound = (match c.ctr with | some n => amod w.bound n (· - 1) | none => w.bound) ∧
        (s.connected → (s.pkg c.who.pkg).failed = [] → c.parts = [] →
          (∀ x ∈ c.sectors, s.intact c.who.pkg (keyOf c.lines 0 x.va) = true) → bad = false ∧
            t.mem = memSetAll s.mem (c.sectors.flatMap fun x => atAddrs x.spad (s.bytes (keyOf c.lines 0 x.va) 32)))) ∧
    (c.isOut = true → c.parts = [] → s.mayTry (Trier.copy id).key = true →
      ∀ s2, s.putBytes c.who c.lines 0 1 (c.sectors.flatMap fun x => atAddrs x.va (s.bytes x.spad 32)) = .ok s2 →
      ∃ t w' g', exec (.copyOutAccepted id) s = .next t ∧ aget t.copies id = none ∧
        (s.connected ∨ (s.die c.who.die).halted = false → t.mem = s2.mem) ∧
        aget t.groups c.gid = some g' ∧
        g'.tiles = modAt g.tiles c.tile (fun y =>
          { y with state := 0, psn := false, nanRow := 0, infRow := 0, nanCol := 0, infCol := 0 }) ∧
        aget t.warps c.warp = some w' ∧ w'.lanes = w.lanes ∧
        w'.bound = match c.ctr with | some n => amod w.bound n (· - 1) | none => w.bound))

/-- R180, R215: an engine copies its pages in order, each read before it is written, and then decrements its barrier object in
whatever memory that stands. -/
def Sys2Proof.Clause.EnginesComplete : Prop :=
  (∀ (s t : State) (n : Engine) i ls ld, n.parts = [] → n.src % 65536 = 0 → n.dst % 65536 = 0 →
    let src := vaAdd n.src (65536 * i)
    let dst := vaAdd n.dst (65536 * i)
    s.transAll n.who (Acc.engineSrc n.isApf true) (pageLineVas src) = .inr ls →
    s.transAll n.who (Acc.engineDst n.isApf) (pageLineVas dst) = .inr ld →
    State.enginePages n [i] s = .ok (none, t) → s.connected → noChecksum ld →
    t.mem = memSetAll s.mem (((vaRange dst 65536).map (keyOf ld 0)).zip
      ((vaRange src 65536).map fun a => memGet s.mem (keyOf ls 0 a)))) ∧
  (∀ (s t : State) (n : Engine) is js, State.enginePages n is s = .ok (none, t) →
    State.enginePages n (is ++ js) s = State.enginePages n js t) ∧
  (∀ (s s1 : State) id n, aget s.engines id = some n → s.mayTry (Trier.engine id).key = true →
    State.enginePages n (List.range (n.len / 65536)) s = .ok (none, s1) → s1.connected →
    (∀ l, s1.leafOf n.who.core n.who.asid n.who.ptbase n.boVa = some l → l.ckv = false ∨ inAperture n.boVa = true) →
    (isSpadKey n.bo = true ∨ isCapKey n.bo = true →
      ∃ t, exec (.capCopyComplete id) s = .next t ∧ aget t.engines id = none ∧ t.warps = s1.warps ∧
        SameBytesBut s1 t ((List.range 8).map (n.bo + ·)) ∧ t.le n.bo 8 = barObjStep (s1.le n.bo 8) % 2 ^ 64) ∧
    (isHomeless n.bo = true ∨ isHostKey n.bo = true →
      ∀ s2, s1.agentWrite n.who.pkg n.bo (leBytes 8 (barObjStep (s1.le n.bo 8))) = .ok s2 →
        ∃ t, exec (.capCopyComplete id) s = .next t ∧ aget t.engines id = none ∧ t.warps = s1.warps ∧ t.mem = s2.mem)) ∧
  (∀ (s : State) id n, aget s.engines id = some n → s.mayTry (Trier.engine id).key = true →
    State.enginePages n (List.range (n.len / 65536)) s = .error none →
    ∃ t, exec (.capCopyComplete id) s = .next t ∧ SameBytes s t ∧ t.engines = s.engines)

/-- R187, R203, R206, R409: a matrix instruction that completes leaves its bytes in its tile, which is READY then; an `smxs` stores the
bytes that it has left, an `smxl` writes its region from the sectors it has read and those it reads now, and an `attn` that has
computed completes. -/
def Sys2Proof.Clause.MatrixCompletes : Prop :=
  ∀ (s : State) gid i g m k w, aget s.groups gid = some g → g.mops[i]? = some m → m.granted = true → g.phase = .running →
    g.seq = some k → aget s.warps k = some w → w.kind = .seq → w.allExited = false → Keyed s.warps → s.phases = [] →
    let ends (u : State) (h : Group) : Prop :=
      ∃ t g' w', exec (.matrixComplete gid i) s = .next t ∧ t.mem = memSetAll u.mem m.out ∧ aget t.groups gid = some g' ∧
        g'.mops = (g.mops.filter fun x => x.id != m.id) ∧ g'.cores = h.cores ∧ g'.rows = h.rows ∧
        g'.tiles = (match m.dst with | some d => modAt h.tiles d fun y => { y with state := 2 } | none => h.tiles) ∧
        aget t.warps k = some w' ∧ w'.lanes = w.lanes ∧ w'.flights = (w.flights.filter fun x => x.id != m.id) ∧
        w'.bound = match m.ctr with | some n => amod w.bound n (· - 1) | none => w.bound
    (isAttn m.instr = false → m.access = none → ends s (s.flagged g m)) ∧
    (∀ f, m.instr = .attn f → m.fed = true → ends s g) ∧
    (∀ f who ls s2, m.instr = .smxs f → m.access = some (who, ls) → s.anyReset who ls true = false →
      s.mayTry (Trier.copy m.id).key = true → s.putBytes who ls 0 0 m.left = .ok s2 → ends s2 g) ∧
    (∀ f who ls, m.instr = .smxl f → m.access = some (who, ls) → s.anyReset who ls = false → s.connected →
      let n := nrN f * recStride (ncN f) (mdB f 0) / 32
      let bs := (List.range n).flatMap fun j => (aget m.reads j).getD
        ((vaRange (vaAdd (m.regs.getD 0 0) (32 * j)) 32).map fun a => memGet s.mem (keyOf ls 0 a))
      ends s (g.loadRecords f bs))

/-- R439, R447, R448: a walk that meets a fault kills its unit, to be placed again; at the fourth it stops it and reports. A unit that
has faulted before is killed for good (log entry 111). -/
def Sys2Proof.Clause.WalkFaults : Prop :=
  ∀ (s : State) gid i g m f who c va, aget s.groups gid = some g → g.mops[i]? = some m → m.granted = true →
    g.phase = .running → m.instr = .attn f → s.walkFault g m f = some (who, c, va) →
    (g.faulted = false → g.relaunches < 3 → ∃ t g', exec (.matrixFetchFault gid i) s = .next t ∧ aget t.groups gid = some g' ∧
      g'.phase = .killed ∧ g'.relaunches = g.relaunches + 1 ∧ g'.mops = [] ∧ g'.seq = none ∧
      ∀ x ∈ t.warps, x.2.gid = gid → x.2.kind = .service) ∧
    (g.faulted = false → 3 ≤ g.relaunches → ∃ t r, exec (.matrixFetchFault gid i) s = .next t ∧ SameBytes s t ∧
      t.warps = s.warps ∧ aget t.groups gid = some { g with phase := .stopped, relaunches := g.relaunches + 1 } ∧
      (t.die who.die).postq = (s.die who.die).postq ++ [r] ∧ r.code = c ∧ r.addr = BitVec.ofNat 64 va ∧ r.lanes = 1 ∧
      aget t.postings r.handle = some { target := .stoppedGroup gid, lanes := 1 }) ∧
    (g.faulted = true → ∃ t, exec (.matrixFetchFault gid i) s = .next t ∧
      (∀ x ∈ t.warps, x.2.gid = gid → x.2.kind = .service) ∧
      ∀ g', aget t.groups gid = some g' → g'.faulted = true ∧ g'.mops = [] ∧ ∀ x ∈ g'.wgs, x.ended = true)

/-- R173, R175, R180, R187, R203, R206, R215, R409, R439, R447, R448: copies, engines and matrix instructions complete; a walk that meets
a fault kills or stops its unit (of one that has faulted before: log entry 111). -/
def Obligations.CopyAndMatrixAgents : Prop :=
  Clause.CopiesComplete ∧ Clause.EnginesComplete ∧ Clause.MatrixCompletes ∧ Clause.WalkFaults

/-- R263, R265 to R267, R275, R276: intake takes the head of the highest waiting chain into the window, or stops the chain on a
record that it cannot read; LCTAIL appends, and an append beyond the limit is held at the switch die (log entry 69); LCHEAD retries or
drops; a launch that is done, every dirty line at its master and every failed store reported, writes its completion word and lets its
dependents go; the buckets refill to their depth. -/
def Sys2Proof.Clause.ChainAgents : Prop :=
  (∀ (s : State) pkg p, s.live pkg = true → (s.window pkg).length < 64 → (s.pkg pkg).bootStep = 7 →
    (s.pkg pkg).ready = some p → p < (s.pkg pkg).chains.length → s.agentOff pkg (s.chain pkg p).head.toNat 256 = false →
    let c := s.chain pkg p
    let r := parseRecord (s.bytes c.head.toNat 256)
    (s.physBad pkg c.head.toNat 256 = none →
      ∃ t l k, exec (.intake pkg) s = .next t ∧ SameBytes s t ∧ t.warps = s.warps ∧ t.launches = aset s.launches k l ∧
        l.pkg = pkg ∧ l.chain = p ∧ l.num = c.taken ∧ l.addr = c.head.toNat ∧ l.record = r ∧ l.placed = 0 ∧
        l.cause = r.cause p ((aget c.users c.taken.toNat).map fun a => BitVec.ofNat 16 a) ∧
        (l.cause = 0 → ∀ k, k ∈ l.deps ↔ ∃ x, (k, x) ∈ s.launches ∧ x.pkg = pkg ∧ x.cause = 0 ∧ dependsOn r x.record = true) ∧
        (t.chain pkg p).head = BitVec.ofNat 64 (recAddr (s.le c.head.toNat 8)) ∧ (t.chain pkg p).taken = c.taken + 1) ∧
    (∀ code, s.physBad pkg c.head.toNat 256 = some code →
      ∃ t x, exec (.intake pkg) s = .next t ∧ SameBytes s t ∧ t.launches = s.launches ∧
        (t.chain pkg p).stop = true ∧ (t.chain pkg p).head = c.head ∧
        (t.die (pkg * 8)).postq = (s.die (pkg * 8)).postq ++ [x] ∧ x.code = code ∧ x.addr = c.head ∧ x.kind = 3)) ∧
  (∀ (s : State) pkg p (val : Word), s.live pkg = true → p < (s.pkg pkg).chains.length →
    let c := s.chain pkg p
    let addr : Word := BitVec.ofNat 64 (recAddr val.toNat)
    (∀ n s2, s.append pkg p (recAddr val.toNat) none none = .ok (some (n, s2)) → exec (.lctailAppend pkg p val) s = .next s2) ∧
    (2 ^ 31 - 1 ≤ (c.next - 1 - c.done).toNat → exec (.lctailAppend pkg p val) s = .next (s.setPkg pkg
      { s.pkg pkg with held := (s.pkg pkg).held ++ [.append p (recAddr val.toNat)] })) ∧
    (val.getLsbD 63 = false → val.getLsbD 62 = false →
      ∃ t, exec (.lcheadRetry pkg p val) s = .next t ∧ SameBytes s t ∧ t.chain pkg p = { c with stop := false, head := addr }) ∧
    (val.getLsbD 63 = false → val.getLsbD 62 = true → c.stop = true →
      (addr ≠ 0 → ∃ t, exec (.lcheadDropOne pkg p val) s = .next t ∧ SameBytes s t ∧ (t.chain pkg p).stop = false ∧
        (t.chain pkg p).head = addr ∧ (t.chain pkg p).taken = c.taken + 1 ∧ (t.chain pkg p).next = c.next) ∧
      (addr = 0 → ∃ t, exec (.lcheadDropAll pkg p val) s = .next t ∧ SameBytes s t ∧ (t.chain pkg p).stop = false ∧
        (t.chain pkg p).head = 0 ∧ (t.chain pkg p).taken = c.next ∧ (t.chain pkg p).next = c.next))) ∧
  (∀ (s : State) lid l s2, aget s.launches lid = some l →
    l.cause ≠ 0 ∨ (l.endedWgs = l.record.total ∧ (∀ x ∈ s.groups, x.2.lid ≠ lid) ∧ (∀ x ∈ s.engines, x.2.who.lid ≠ lid) ∧
      s.owesError l.record.asid = false) →
    let u := s.backAll
    u.unclean = false → u.owesError l.record.asid = false → u.mayTry (Trier.launch lid).key = true →
    u.agentWrite l.pkg (l.addr + 0x58) (leBytes 8 l.word) = .ok s2 →
    ∃ t, exec (.launchComplete lid) s = .next t ∧
      (s.connected → SameBytesBut s t ((List.range 8).map (l.addr + 0x58 + ·))) ∧
      (s.takesBytes (l.addr + 0x58) 8 → ∀ i < 8, memGet t.mem (l.addr + 0x58 + i) = BitVec.ofNat 8 (l.word / 256 ^ i)) ∧
      aget t.launches lid = none ∧
      (∀ k x, k ≠ lid → aget s.launches k = some x →
        aget t.launches k = some { x with deps := x.deps.filter (· != lid) })) ∧
  (∀ (s : State) (pkg i : Nat) (b : Bucket), s.live pkg = true → (s.pkg pkg).buckets[i]? = some b →
    ∃ t, exec (.bucketRefill pkg) s = .next t ∧ SameBytes s t ∧
      (t.pkg pkg).buckets[i]? = some { b with level := min (b.level + b.rate.toNat) (b.depth.toNat * 256) })

/-- R309, R312, R313: the backfill engine drops a request of another ASID or one already in the batch, closes a batch that is full,
and lets any other join; an old batch closes; a closed one is written out and appended in a free slot, the lowest by the model's choice
(log entry 110); a template that cannot be read stops the engine, and a write of BFCFG starts it again. -/
def Sys2Proof.Clause.BackfillAgents : Prop :=
  (∀ (s : State) pkg r rest, s.live pkg = true →
    let p := s.pkg pkg
    let cfg := if p.bfOpen.isEmpty then p.bfcfg else p.bfOpenCfg
    p.bfQueue = r :: rest → p.bfClosed = [] → p.bfStopped = false → s.agentOff pkg (cfgTaddr cfg) 256 = false →
    (s.physBad pkg (cfgTaddr cfg) 256 = none →
      let u := s.agentRead pkg (cfgTaddr cfg) 256
      let q := u.pkg pkg
      let own := r.asid = (parseRecord (s.bytes (cfgTaddr cfg) 256)).asid
      let known := ∃ x ∈ p.bfOpen, x.page = r.page ∧ x.seqNo = r.seqNo ∧ x.pos = r.pos ∧ x.layer = r.layer
      let full := p.bfOpen ≠ [] ∧ (p.bfOpen.length = cfgBatch cfg ∨ ((∀ x ∈ p.bfOpen, x.page ≠ r.page) ∧ (pagesOf p.bfOpen).length = 8))
      (¬ own → exec (.backfillAccept pkg) s = .next (u.setPkg pkg { q with bfQueue := rest, bfDrop := min (p.bfDrop + 1) 65535 })) ∧
      (own → known → exec (.backfillAccept pkg) s = .next (u.setPkg pkg { q with bfQueue := rest })) ∧
      (own → ¬ known → full → exec (.backfillAccept pkg) s = .next (u.setPkg pkg { q with
        bfClosed := [(p.bfOpen, p.bfOpenCfg)], bfOpen := [] })) ∧
      (own → ¬ known → ¬ full → ∃ t, exec (.backfillAccept pkg) s = .next t ∧ SameBytes s t ∧
        t.pkg pkg = { q with bfQueue := rest, bfOpen := p.bfOpen ++ [r], bfOpenCfg := cfg })) ∧
    (∀ code, s.physBad pkg (cfgTaddr cfg) 256 = some code →
      ∃ t x, exec (.backfillAccept pkg) s = .next t ∧ SameBytes s t ∧
        t.pkg pkg = { p with bfStopped := true, failed := (t.pkg pkg).failed } ∧
        aget t.postings s.nextHandle = some { target := .backfill pkg, lanes := 0 } ∧
        (t.die (pkg * 8)).postq = (s.die (pkg * 8)).postq ++ [x] ∧ x.code = code ∧
        x.addr = BitVec.ofNat 64 (cfgTaddr cfg) ∧ x.handle = s.nextHandle)) ∧
  (∀ (s : State) pkg, s.live pkg = true →
    let p := s.pkg pkg
    (p.bfOpen ≠ [] → exec (.batchAge pkg) s = .next (s.setPkg pkg { p with
      bfClosed := p.bfClosed ++ [(p.bfOpen, p.bfOpenCfg)], bfOpen := [] })) ∧
    (∀ val : Word, ∃ t, exec (.bfcfgWrite pkg val) s = .next t ∧ SameBytes s t ∧
      t.pkg pkg = { p with bfcfg := val &&& 0xFFFFFFFFFFFF00FF, bfStopped := false } ∧
      ∀ h x, aget t.postings h = some x → x.target ≠ .backfill pkg) ∧
    (∀ b cfg rest k, p.bfClosed = (b, cfg) :: rest → (p.bfSlots.findIdx? fun x => x.isNone) = some k →
      p.bfcfg.getLsbD 63 = true → p.bfStopped = false → s.agentOff pkg (cfgTaddr cfg) 256 = false →
      s.physBad pkg (cfgTaddr cfg) 256 = none → let u := s.agentRead pkg (cfgTaddr cfg) 256
      u.mayTry (Trier.backfill pkg).key = true →
      let tpl := s.bytes (cfgTaddr cfg) 256
      let recAt := cfgTaddr cfg + 0x100 + 256 * k
      ∀ s1 s2 num s3, u.agentWrite pkg (cfgTaddr cfg + 0x1000 + 0x1800 * k) (bfArgs (parseRecord tpl).args b k) = .ok s1 →
        s1.agentWrite pkg recAt (bfRecord tpl cfg b k) = .ok s2 →
        s2.append pkg (cfgChain cfg) recAt none (some k) = .ok (some (num, s3)) →
        ∃ t, exec (.batchEmit pkg) s = .next t ∧ t.mem = s3.mem ∧ (t.pkg pkg).bfClosed = rest ∧
          (t.pkg pkg).bfRecs = p.bfRecs + 1 ∧ (t.pkg pkg).bfSlots[k]? = some (some num.toNat)))

/-- R263, R265 to R267, R275, R276, R309, R312, R313: launch chains, buckets and the backfill engine (held appends: log entry 69; which
free slot a batch takes: log entry 110). -/
def Obligations.LaunchAgents : Prop :=
  Clause.ChainAgents ∧ Clause.BackfillAgents

/-- R236, R272, R430, R431, R437, R449 to R456, R258, R270: a workgroup is placed on the next core that fits and starts at
WGENTRY; a slice lands in its scratchpad; units are swapped, pre-empted and saved: PREEMPT moves every lane to offset 0x10, a
save takes the unit off its cores, and a unit that has come back runs. -/
def Obligations.PlacementAgents : Prop :=
  (∀ (s : State) pkg lid l c spad slots, s.live pkg = true → l.pkg = pkg → (s.pkg pkg).reserve = [] →
    (∀ x ∈ s.groups, x.2.pkg = pkg → s.resumeSeq x.1 = none ∧ s.relaunch x.1 = none ∧ s.bringBack x.1 = none) →
    (s.readyLaunches pkg).head? = some (lid, l) → aget s.launches lid = some l →
    l.record.quad = false → l.record.cores = false → staged l.record = true →
    firstFrom 256 (s.pkg pkg).lastCore (fun c => s.placeOn lid l.record (pkg * 256 + c)) = some (c, (spad, slots)) →
    slots.Nodup →
    ∃ t g, exec (.dispatch pkg) s = .next t ∧ SameBytes s t ∧ (t.pkg pkg).lastCore = c ∧
      aget t.launches lid = some { l with placed := l.placed + 1 } ∧ aget t.groups s.nextId = some g ∧ g.lid = lid ∧
      g.phase = .running ∧ (∃ x, g.wgs = [x] ∧ x.index = l.placed ∧ x.core = pkg * 256 + c ∧ x.spad = spad ∧ x.slots = slots) ∧
      ∀ i k, slots[i]? = some k → ∃ w, aget t.warps ((pkg * 256 + c) * 64 + k) = some w ∧ w.kind = .user ∧ w.gid = s.nextId ∧
        w.wid = i ∧ w.vregs = List.replicate (l.record.budget (l.record.roleOf i)) VReg.void ∧
        w.uregs = List.replicate 64 0 ∧ w.lanes.length = 32 ∧
        ∀ j < 32, w.lanes[j]? = some (Lane.mk l.record.wgentry .run (BitVec.ofNat 16 (32 * i + j)) none)) ∧
  (∀ (s : State) (who : Who) (g : Wg) src len off s2, s.connected → s.stageSlice who g (src, len, off) = .landed s2 →
    g.spad + off + len ≤ 2 ^ 20 → ∀ ls, s.transAll who { Acc.load with cow := false } (vaRange src len) = .inr ls →
    (∀ i < len, memGet s2.mem (spadKey g.core (g.spad + off) + i) = memGet s.mem (keyOf ls 0 (vaAdd src i))) ∧
    SameBytesBut s s2 ((List.range len).map fun i => spadKey g.core (g.spad + off) + i)) ∧
  (∀ (s : State) gid wg gr g l, aget s.groups gid = some gr → gr.wgs[wg]? = some g → aget s.launches gr.lid = some l →
    gr.phase = .staging → g.staged = false → g.errs = [] →
    let who := s.stageWho gid wg g l gr.lid
    let slices := (l.record.ranges.filter fun x => x.2.2.1 == 3).map (l.record.slice g.index)
    (∀ s2 n, State.stageSlices who g (slices.drop g.landed) s g.landed = (s2, n, none) →
      (∃ x ∈ gr.wgs.eraseIdx wg, x.staged = false) →
      ∃ t g', exec (.stagingComplete gid wg) s = .next t ∧ t.mem = s2.mem ∧ aget t.groups gid = some g' ∧
        g'.wgs[wg]? = some { g with landed := n, staged := true } ∧ g'.phase = .staging) ∧
    (∀ s2 n c va, State.stageSlices who g (slices.drop g.landed) s g.landed = (s2, n, some (.fault (c, va))) →
      ∃ t g' r, exec (.stagingComplete gid wg) s = .next t ∧ t.mem = s2.mem ∧ aget t.groups gid = some g' ∧
        g'.wgs[wg]? = some { g with landed := n, errs := [r.handle] } ∧ g'.phase = .staging ∧
        (t.die (dieOf g.core)).postq = (s2.die (dieOf g.core)).postq ++ [r] ∧ r.code = c ∧ r.addr = BitVec.ofNat 64 va ∧
        r.kind = 3 ∧ r.asid = who.asid ∧ aget t.postings r.handle = some { target := .staging gid wg, lanes := 1 })) ∧
  (∀ (s : State) gid g l, aget s.groups gid = some g → aget s.launches g.lid = some l →
    (s.swappable gid g = true → s.publishing gid = false →
      let s0 := (s.unitWarps gid).foldl (fun s e => s.resultsIn e.1) s
      ∀ g0 s1, aget s0.groups gid = some g0 → s0.swappable gid g0 = true → s0.mayTry (Trier.group gid).key = true →
        State.storePieces (s0.unitPieces gid g0 true) s0 = .ok (some s1) →
      ∃ t g', exec (.swapOut gid) s = .next t ∧ t.mem = s1.mem ∧ aget t.groups gid = some g' ∧ g'.phase = .swapped ∧
        g'.watch = ((s0.unitWarps gid).flatMap fun e => s0.watches e.2) ∧
        g'.due = ((s0.unitWarps gid).any fun e => s0.woken e.2) ∧
        ∀ x ∈ t.warps, x.2.gid = gid → x.2.kind = .service) ∧
    (g.phase = .swapped → g.due = true → g.seqSaved = false →
      ∀ wgs s1, (s.viewOf g.pkg none).seats l.record g false = some wgs → (aget s1.groups gid).isSome = true →
      (mapFrom 0 (fun j x => (j, x)) wgs).foldl (fun (a : Restored) p =>
        match a with | .ok s => s.restoreWg gid p.1 p.2 | a => a) (.ok (s.setGroup gid { g with wgs := wgs })) = .ok s1 →
      ∃ t g', exec (.swapIn gid) s = .next t ∧ t.mem = s1.mem ∧ aget t.groups gid = some g' ∧ g'.phase = .running ∧
        g'.out = [] ∧ g'.watch = [] ∧ g'.due = false) ∧
    (s.mayPreempt gid g = true → l.record.utrap ≠ 0 → s.mayTry (Trier.group gid).key = true →
      ∀ s1, State.storePieces (s.matrixPieces gid g) s = .ok (some s1) → s.phases = [] →
      ∃ t g', exec (.preempt gid) s = .next t ∧ t.mem = s1.mem ∧ aget t.groups gid = some g' ∧ g'.phase = .preempting ∧
        g'.seq = none ∧
        ∀ k w, aget s.warps k = some w → w.kind = .user → w.gid = gid → w.allExited = false → g.seq ≠ some k →
          ∃ w', aget t.warps k = some w' ∧ w'.handler = .preempt ∧ w'.vregs = w.vregs ∧ w'.uregs = w.uregs ∧
            ∀ i x, i < 32 → w.lanes[i]? = some x → w'.lanes[i]? = some
              (if x.isRun || x.isHold then
                { x with pc := w.ctx.utrapvec + 0x10, st := .run, delivery := some (Delivery.mk x.pc 0 0) }
               else x)) ∧
    (g.phase = .preempting → s.hasCopies gid = false → s.publishing gid = false →
      (l.record.utrap ≠ 0 → s.unitWarps gid = [] → g.out ≠ [] ∨ g.seqSaved = true →
        ∃ wgs : List Wg, exec (.preEmpted gid) s = .next (s.setGroup gid { g with phase := .preempted, wgs := wgs }) ∧
          ∀ j x, g.wgs[j]? = some x →
            wgs[j]? = some { (x : Wg) with ended := x.ended || !(g.out.any fun u => u < 1024 && u / 32 == j) }) ∧
      (l.record.utrap = 0 → (∃ x ∈ s.unitWarps gid, x.2.allExited = false) → s.mayTry (Trier.group gid).key = true →
        ∀ s1, State.storePieces (s.unitPieces gid g false) s = .ok (some s1) →
        ∃ t g', exec (.hardwareSave gid) s = .next t ∧ t.mem = s1.mem ∧ aget t.groups gid = some g' ∧ g'.phase = .saved ∧
          ∀ x ∈ t.warps, x.2.gid = gid → x.2.kind = .service)))

/-- R318, R371, R387, R441, R445, R446, R457 to R467: a die posts its first waiting record with OWN set last and decrements its ring's
object; a store error takes a record of the queue, or is counted as lost; a write of the switch die that cannot reach its line is
dropped and reported (to the queue of ASID 0 and with an unknown workgroup: log entry 107); power managers, alarms, attestation (the
index that leads a signature: log entry 114) and counters. -/
def Obligations.ServiceAgents : Prop :=
  (∀ (s : State) die p rest, s.live (pkgOfDie die) = true → (s.die die).postq = p :: rest →
    let base := svcBase (s.die die).svcq
    let slot := ringSlot base (s.die die).postN
    let pkg := pkgOfDie die
    s.physBad pkg slot 64 = none → s.physBad pkg base 8 = none → s.agentOff pkg slot 64 = false → s.agentOff pkg base 8 = false →
    s.le (slot + 0x38) 8 = 0 → s.mayTry (Trier.ring die).key = true →
    ∀ s1 s2, ((s.agentRead pkg slot 64).agentRead pkg base 8).agentWrite pkg slot (p.bytes ++ leBytes 8 ((s.die die).postN + 1)) = .ok s1 → s1.barDecrement pkg base = .ok s2 →
      ∃ t, exec (.serviceRingPost die) s = .next t ∧ t.mem = s2.mem ∧ (t.die die).postq = rest ∧
        (t.die die).postN = (s.die die).postN + 1) ∧
  (∀ (s : State) pkg (err : StoreErr), s.live pkg = true →
    let asid := BitVec.ofNat 16 err.asid
    let q := s.errqOf pkg asid
    let base := errqBase q
    let num := (s.le base 8 + 1) % 2 ^ 64
    let at_ := base + 64 + 64 * (num % errqN q)
    let s0 := s.readCtx pkg asid
    let good (k : Nat) : Prop := s0.physBad pkg k 64 = none ∧ s0.agentFault pkg k = none
    (base = 0 → ∃ t, exec (.storeError pkg err) s = .next t ∧ SameBytes s t ∧ ∀ d, (t.die d).postq = (s.die d).postq) ∧
    (base ≠ 0 → (s0.pkg pkg).held.any Held.isError = false → good base → good at_ →
      ∀ s1, (s0.agentRead pkg base 64).agentWrite pkg base (leBytes 8 num) = .ok s1 →
      (num ≤ s.le (base + 16) 8 + errqN q →
        ∀ s2 s3, s1.agentWrite pkg at_ (errRecord err num num (s.le (base + 24) 8)) = .ok s2 →
          s2.agentWrite pkg (base + 8) (leBytes 8 (max (s.le (base + 8) 8) num)) = .ok s3 →
          ∃ t, exec (.storeError pkg err) s = .next t ∧ t.mem = s3.mem ∧
            (s.le (base + 8) 8 ≠ s.le (base + 16) 8 → t.dies = s3.dies) ∧
            (s.le (base + 8) 8 = s.le (base + 16) 8 → ∃ r, (t.die (pkg * 8)).postq = (s3.die (pkg * 8)).postq ++ [r] ∧
              r.code = 0x22 ∧ r.handle = 0 ∧ r.addr = BitVec.ofNat 64 base)) ∧
      (s.le (base + 16) 8 + errqN q < num →
        ∀ s2, s1.agentWrite pkg (base + 24) (leBytes 8 ((s.le (base + 24) 8 + 1) % 2 ^ 64)) = .ok s2 →
          ∃ t, exec (.storeError pkg err) s = .next t ∧ t.mem = s2.mem ∧ t.dies = s2.dies))) ∧
  (∀ (s : State) pkg k (bs : List Byte) c, isHomeless k = true → s.agentFault pkg k = some c → bs ≠ [] →
    k % 256 + bs.length ≤ 256 →
    ∃ e, s.agentWrite pkg k bs = .ok { s with agenda := .event (.storeError pkg e) :: s.agenda } ∧ e.cause = c ∧ e.src = 3 ∧
      e.addr = k / 256 * 256 ∧ e.asid = 0 ∧ e.wg = 0xFFFFFFFF) ∧
  (∀ (s : State) die, s.live (pkgOfDie die) = true →
    ((s.die die).pmQueue = [] → ∃ t, exec (.powerWindow die) s = .next t ∧ SameBytes s t ∧ (t.die die).pmCharged = 0 ∧
      let e := effectiveE (s.pkg (pkgOfDie die)).pwrctl
      (t.die die).pmE = if (s.die die).pmHot then max 1 (e / 2) else e) ∧
    (∀ c : Int, ∃ t, exec (.thermalThrottle die c) s = .next t ∧ SameBytes s t ∧
      (t.die die).pmHot = (if 105 ≤ c then true else if c < 95 then false else (s.die die).pmHot) ∧
      ((t.die die).pmHot ≠ (s.die die).pmHot → ∃ r, (t.die die).postq = (s.die die).postq ++ [r] ∧ r.code = 0x25 ∧
        r.addr = BitVec.ofNat 64 (die % 8 + (if (s.die die).pmHot then 256 else 0))))) ∧
  (∀ (s : State) pkg (val : Word), s.live pkg = true →
    (∃ t, exec (.pwrctlWrite pkg val) s = .next t ∧ SameBytes s t ∧ (t.pkg pkg).pwrctl = val &&& 0x0000FFFFFFFF0000) ∧
    (∃ t, exec (.alarmcfgWrite pkg val) s = .next t ∧ SameBytes s t ∧
      let old := (s.pkg pkg).alarmcfg
      let new := (t.pkg pkg).alarmcfg
      new.getLsbD 63 = (old.getLsbD 63 || val.getLsbD 63) ∧
      ∀ i < 4, (old.getLsbD 63 = false → alarmLevel new i = alarmLevel val i) ∧
        (old.getLsbD 63 = true → alarmLevel new i = max (alarmLevel old i) (alarmLevel val i))) ∧
    (∀ src : BitVec 4, ∃ t, exec (.alarm pkg src) s = .next t ∧ SameBytes s t ∧
      ∀ lvl, (∃ i < 4, src.getLsbD i = true ∧ alarmLevel (s.pkg pkg).alarmcfg i = lvl) →
        (∀ i < 4, src.getLsbD i = true → alarmLevel (s.pkg pkg).alarmcfg i ≤ lvl) →
        let p := s.pkg pkg
        let p' := t.pkg pkg
        p'.dbglk = (p.dbglk || decide (1 ≤ lvl)) ∧ p'.sessionKeys = (p.sessionKeys && decide (lvl < 2)) ∧
        p'.allKeys = (p.allKeys && decide (lvl < 3)) ∧ p'.locked = (p.locked || decide (3 ≤ lvl))) ∧
    (let p := s.pkg pkg
     p.attBusy = false →
      (p.locked = true → exec (.attcmd pkg) s = .next (s.setPkg pkg { p with attErr := 1 })) ∧
      (p.locked = false → 2 ^ 20 ≤ p.index → exec (.attcmd pkg) s = .next (s.setPkg pkg { p with attErr := 2 })) ∧
      (p.locked = false → p.index < 2 ^ 20 → ∃ out, exec (.attcmd pkg) s = .next (s.setPkg pkg
          { p with index := p.index + 1, attErr := 0, attOut := out }) ∧
        (p.nonce.length = 32 → out.length = 2956 ∧ out.take 32 = p.nonce ∧
          (out.drop 136).take 4 = (leBytes 4 p.index).reverse)))) ∧
  (∀ (s : State) core i, s.live (pkgOfCore core) = true → i < 40 →
    (i < 8 → i < (s.core core).cnt.length) → (8 ≤ i → i < 24 → i - 8 < (s.die (dieOf core)).cnt.length) →
    (24 ≤ i → i - 24 < (s.pkg (pkgOfCore core)).cnt.length) →
    let c := s.counter core i
    (∀ v : Word, ∃ t, exec (.cntvalWrite core i v) s = .next t ∧ SameBytes s t ∧
      t.counter core i = { c with count := v.extractLsb' 0 48 }) ∧
    (c.en = true → srcOffered (cntLevel i) c.src.toNat = true →
      ∃ t, exec (.counterEvent core i) s = .next t ∧ SameBytes s t ∧ t.counter core i = { c with count := c.count + 1 }))

/-- R11, R12, R224, R323, R370, R441, R442, R463, R468: bring-up starts the service warps at their die's TRAPVEC; a host's write of a
register page writes its register; a die that enters reset loses its translations and its L2 and keeps what waits to be posted, and
starts its service warps when it leaves reset; while it is in reset, accesses that need its sets are held, and the held ones are offered
again when it leaves; a package that loses its power runs nothing and keeps its signature index. That the warps of the die stay, with
FSTAT and their context at reset, is the model's reading (log entry 27), and so is what a lost scratchpad reads (log entries 28 and 1). -/
def Obligations.ResetAgents : Prop :=
  (∀ (s : State) (b : BootPkg) podN image, b.pkg < podN → podN ≤ 4096 → b.failStep = 0 →
    ∃ t, exec (.bringUp { podN := podN, pkgs := [b], image := image }) s = .next t ∧ t.podN = podN ∧
      (t.pkg b.pkg).bootStep = 7 ∧ (t.pkg b.pkg).bootFail = 0 ∧ (t.pkg b.pkg).ways = b.ways ∧
      t.dead.contains b.pkg = false ∧
      ∀ d < 8, ∀ q < 8,
        let core := 32 * (8 * b.pkg + d) + 4 * q
        ∃ w, aget t.warps (core * 64 + 34) = some w ∧ w.kind = .service ∧ w.role = 4 ∧ w.core = core ∧ w.ctx.asid = 0 ∧
          w.lanes.length = 32 ∧ ∀ x ∈ w.lanes, x.st = .run ∧ x.pc = (t.die (8 * b.pkg + d)).trapvec) ∧
  (∀ (s : State) pkg (val : Word), s.live pkg = true →
    ∃ t, exec (.registerWrite pkg 0 0x5200 8 val) s = .next t ∧ SameBytes s t ∧
      (t.pkg pkg).ctxtab = val &&& 0x00FFFFFFFFC00000) ∧
  (∀ (s : State) die, s.live (pkgOfDie die) = true →
    (∃ t, exec (.dieReset die) s = .next t ∧
      (∀ k w, aget s.warps k = some w → ∃ w', aget t.warps k = some w' ∧ (dieOf w.core ≠ die → w' = w) ∧
        (dieOf w.core = die → w' = { w with fstat := 0, ctx := Ctx.reset, recent := w'.recent } ∧ w'.allFlags = 0)) ∧
      let d := s.die die
      let d' := t.die die
      d'.inReset = true ∧ d'.tlb = [] ∧ d'.walkCache = [] ∧ d'.l2 = [] ∧ d'.postq = d.postq ∧ d'.scrbctl = 0 ∧
      d'.trapvec = d.trapvec ∧
      d'.svcq = d.svcq ∧ d'.hbm = d.hbm ∧
      ∀ k, dieOf k = die → (t.core k).tlb = [] ∧ (t.core k).reformage = 256 ∧ (t.core k).swapthr = 20000) ∧
    ((s.die die).inReset = true →
      ∃ t, exec (.dieLeavesReset die) s = .next t ∧ SameBytes s t ∧ (t.die die).inReset = false ∧ (t.die die).halted = false ∧
        (∀ q < 8, ∃ w, aget t.warps ((32 * die + 4 * q) * 64 + 34) = some w ∧ w.kind = .service ∧
          ∀ x ∈ w.lanes, x.st = .run ∧ x.pc = (s.die die).trapvec) ∧
        ∀ k w, aget s.warps k = some w → k % 64 ≠ 34 →
          ∃ w', aget t.warps k = some w' ∧ Retried w w' (BitVec.allOnes 32) fun h => h = .reset)) ∧
  (∀ (s : State) core gpn, (s.die (s.pageDie (pkgOfCore core) gpn)).inReset = true → gpn < 2 ^ 38 → ∀ i < 256,
    let k := gpn * 65536 + 256 * i
    (s.pkgHolds (pkgOfCore core) (lineKey k) = none → s.resetHeld (dieOf core) k false = true) ∧
    (s.exclusive (dieOf core) k = false → (s.dirEnt gpn).lost = false → s.resetHeld (dieOf core) k true = true)) ∧
  (∀ s f e s1 l, Issues s (.ldu f) f e s1 → e.leading = some l → e.w.busy f.d.toNat = false → e.bucketOpen s1 →
    let t := mdN f 0 5
    let va := e.va s1 0 l
    va % (fmtWidth t / 8) = 0 → ∀ ls, s1.transAll (e.who s1) { Acc.load with types := fmtTypes t } (vaRange va (fmtWidth t / 8)) = .inr ls →
      s1.anyReset (e.who s1) ls = true → ∃ w', exec (.ldu f) s = .next (e.after s1 w') ∧ e.HeldBy w' .reset) ∧
  (∀ s f e s1 l, Issues s (.stu f) f e s1 → e.leading = some l → e.bucketOpen s1 →
    let t := mdN f 0 5
    let va := e.va s1 0 l
    e.valueFault t f.c = none → va % (fmtWidth t / 8) = 0 →
    ∀ ls, s1.transAll (e.who s1) { Acc.store with types := fmtTypes t } (vaRange va (fmtWidth t / 8)) = .inr ls →
      s1.anyReset (e.who s1) ls true = true → ∃ w', exec (.stu f) s = .next (e.after s1 w') ∧ e.HeldBy w' .reset) ∧
  (∀ (s : State) pkg, s.live pkg = true →
    ∃ t, exec (.powerLoss pkg) s = .next t ∧ (pkg ∈ t.dead) ∧ (t.pkg pkg).index = (s.pkg pkg).index ∧
      (t.pkg pkg).bootStep = 0 ∧ (∀ x ∈ t.warps, x.1 / 64 / 256 ≠ pkg) ∧ (∀ x ∈ t.groups, x.2.pkg ≠ pkg) ∧
      (∀ x ∈ t.launches, x.2.pkg ≠ pkg) ∧
      ∀ k, isSpadKey k = true → spadCore k / 256 = pkg → memGet t.mem k = 0)

/-- R378, R381 to R384, R389, R390, R399 to R401: every step of a link, of a memory channel and of the pod fabric completes, whatever
the state. -/
def Sys2Proof.Clause.LinkStepsComplete : Prop :=
  ∀ s : State,
    (∀ k atB f noise bad, ∃ t, exec (.flitReceive k atB f noise bad) s = .next t) ∧
    (∀ k atB q, ∃ t, exec (.nak k atB q) s = .next t) ∧ (∀ k lane, ∃ t, exec (.laneRetire k lane) s = .next t) ∧
    (∀ k, ∃ t, exec (.rateFallback k) s = .next t) ∧ (∀ k val, ∃ t, exec (.lnkctlRetrain k val) s = .next t) ∧
    (∀ k pass, ∃ t, exec (.trainingAttempt k pass) s = .next t) ∧
    (∀ die stk c lane, ∃ t, exec (.hbmTemperature die stk c lane) s = .next t) ∧
    (∀ die stk chan, ∃ t, exec (.hbmWidthChange die stk chan) s = .next t) ∧
    (∀ pkg p how, ∃ t, exec (.fabricPacketReceive pkg p how) s = .next t) ∧
    (∀ pkg dst kind q, ∃ t, exec (.fabricResend pkg dst kind q) s = .next t) ∧
    (∀ pkg port up, ∃ t, exec (.fabricPortLinkChange pkg port up) s = .next t)

/-- R381 to R383, R387, R388: over a link that carries a flit's traffic an end sends the next new flit or, while it replays, the flit
that its replay has come to; the other accepts the expected flit that passes its CRC and discards every other one, sending a NAK on the
first; one error counts for a lane and a flit, a lane whose errors reach RETHR within a window falls due, and so, as the window ends,
does a rate fallback whose replays have been reached in it. -/
def Sys2Proof.Clause.Flits : Prop :=
  ∀ (s : State) k atB (f : Flit) noise (bad : List Nat), s.live (k / 16) = true →
    let l := s.link k
    let src := if atB then l.endA else l.endB
    let dst := if atB then l.endB else l.endA
    let wire := noisy noise (flitWire f)
    let got := parseFlit wire
    let new := f.seq = src.nextSeq
    let taken := crcOk wire = true ∧ got.seq = dst.expect
    l.down = false → l.training = false → (src.expect - 1 - f.ack).toNat ≤ 512 → f.dst.toNat ≤ 8 →
    s.firstHop (k / 16) (if atB then (linkDies (k % 16)).1 else (linkDies (k % 16)).2) f.dst.toNat = some (k % 16) →
    (src.replayFrom = none ∧ new ∧ f.payload.length = 248 ∧ src.buf.length < 512) ∨
      (src.replayFrom ≠ none ∧ f.seq = src.replayAt ∧ ∃ x ∈ src.buf, { x with ack := f.ack } = f) →
    ∃ l', exec (.flitReceive k atB f noise bad) s = .next (s.setLink k l') ∧
      l'.crc = (if crcOk wire then l.crc else satInc l.crc) ∧
      let src' := if atB then l'.endA else l'.endB
      let dst' := if atB then l'.endB else l'.endA
      (src.replayFrom = none → src'.nextSeq = src.nextSeq + 1 ∧ src'.buf = src.buf ++ [f] ∧ src'.replayFrom = none) ∧
      (src.replayFrom ≠ none → src'.nextSeq = src.nextSeq ∧ src'.buf = src.buf ∧
        let rest := src.buf.filter fun x => decide ((x.seq - (f.seq + 1)).toNat < 2048)
        (rest = [] → src'.replayFrom = none) ∧
        ∀ x xs, rest = x :: xs → src'.replayFrom = src.replayFrom ∧ src'.replayAt = x.seq) ∧
      (taken → dst'.out = dst.out ++ [got] ∧ dst'.discarding = false ∧ (dst.early = [] → dst'.expect = dst.expect + 1) ∧
        ∀ x, x ∈ dst'.buf ↔ x ∈ dst.buf ∧ 2048 ≤ (got.ack - x.seq).toNat) ∧
      (¬ taken → dst'.out = dst.out ∧ dst'.expect = dst.expect ∧ dst'.discarding = true ∧ dst'.buf = dst.buf ∧
        (dst.discarding = false → dst'.nak = some dst.expect)) ∧
      (∀ n ∈ bad, l.rethr ≠ 0 → l.rethr.toNat ≤ (aget dst.par n).getD 0 + 1 → n ∈ dst'.due) ∧
      (dst.win + 1 < 2 ^ 20 → dst'.win = dst.win + 1 ∧
        ∀ n, (aget dst'.par n).getD 0 = (aget dst.par n).getD 0 + if n ∈ bad then 1 else 0) ∧
      (dst.win + 1 = 2 ^ 20 → dst'.win = 0 ∧ dst'.par = [] ∧ dst'.replays = 0 ∧
        (dst'.fall = true ↔ dst.fall = true ∨ (l.autofb = true ∧ l.runRate ≠ 0 ∧ 2 ^ l.fbthr.toNat ≤ dst.replays)))

/-- R378, R381 to R386, R388: a NAK starts a replay; a lane is retired, a rate falls back, a retraining starts, and an attempt
commits, goes on a rate lower, or takes the link down, the flits that have another route taking it once; a link that has narrowed, has
slowed or has gone down posts its record at the die of R386. That the lane groups proposed are all those without a retired lane is the
model's reading (log entry 80), and so is that flits take their other route at once (log entry 86). -/
def Sys2Proof.Clause.LinkAgents : Prop :=
  ∀ (s : State) k, s.live (k / 16) = true →
    let l := s.link k
    (∀ atB (q : BitVec 12), l.down = false → l.training = false →
      let e := if atB then l.endB else l.endA
      let peer := if atB then l.endA else l.endB
      let peer' := { peer with nak := none }
      peer.nak = some q →
      ((∃ x ∈ e.buf, x.seq = q) → e.replayFrom ≠ some q →
        let e' := { e with replayFrom := some q, replayAt := q, replays := e.replays + 1 }
        exec (.nak k atB q) s = .next (s.setLink k { l with
          replayCount := satInc l.replayCount, endA := if atB then peer' else e', endB := if atB then e' else peer' })) ∧
      (e.replayFrom = some q → exec (.nak k atB q) s = .next (s.setLink k { l with
          endA := if atB then peer' else e, endB := if atB then e else peer' }))) ∧
    (∀ lane : Nat, lane < 256 → l.retired.getLsbD lane = false → l.training = false →
      lane ∈ l.endA.due ∨ lane ∈ l.endB.due ∨ (l.rethr ≠ 0 ∧
        (l.rethr.toNat ≤ (aget l.endA.par lane).getD 0 ∨ l.rethr.toNat ≤ (aget l.endB.par lane).getD 0)) →
      ∃ l', exec (.laneRetire k lane) s = .next (s.setLink k l') ∧
        (∀ i < 256, l'.retired.getLsbD i = (l.retired.getLsbD i || decide (i = lane))) ∧ l'.down = l.down ∧
        (l.down = false → l'.training = true ∧ l'.att = 0 ∧ l'.tryRate = l.rate.toNat) ∧ (l.down = true → l'.training = false)) ∧
    (l.autofb = true → l.down = false → l.training = false → l.runRate ≠ 0 →
      2 ^ l.fbthr.toNat ≤ l.endA.replays ∨ 2 ^ l.fbthr.toNat ≤ l.endB.replays ∨ l.endA.fall = true ∨ l.endB.fall = true →
      ∃ l', exec (.rateFallback k) s = .next (s.setLink k l') ∧ l'.training = true ∧ l'.att = 0 ∧ l'.tryRate = l.runRate - 1) ∧
    (∀ val : Word, ∃ l', exec (.lnkctlRetrain k val) s = .next (s.setLink k l') ∧ l'.rethr = val.extractLsb' 32 16 ∧
      l'.fbthr = val.extractLsb' 20 4 ∧ l'.autofb = val.getLsbD 0 ∧
      l'.rate = (if (val.extractLsb' 12 4).toNat ≤ 4 then val.extractLsb' 12 4 else l.rate) ∧
      l'.training = (l.training || val.getLsbD 8) ∧
      (val.getLsbD 8 = true → l.training = false → l'.att = 0 ∧ l'.tryRate = l'.rate.toNat)) ∧
    (l.training = true →
      let clean (g : Nat) : Bool := (List.range 32).all fun i => !l.retired.getLsbD (32 * g + i)
      let n := ((List.range 8).filter clean).length
      let own : Nat := if k % 16 < 7 then k % 16 else if k % 16 = 7 then 0 else k % 16 - 8
      let ring (u : State) : Nat := if u.routeSD (k / 16) own = true then k / 16 * 8 + own else if own = 0 then k / 16 * 8 + 1 else k / 16 * 8
      let posts (u t : State) (addr : Nat) : Prop := ∃ r, (t.die (ring u)).postq = (s.die (ring u)).postq ++ [r] ∧ r.code = 0x21 ∧
        r.handle = 0 ∧ r.kind = 3 ∧ r.addr = BitVec.ofNat 64 (addr + k % 16)
      let shape (x : Link) : Nat := x.gmap.toNat * 2 ^ 24 + x.runRate * 2 ^ 20 + x.width * 2 ^ 16
      (0 < n → ∃ t, exec (.trainingAttempt k true) s = .next t ∧ SameBytes s t ∧ (t.link k).training = false ∧
        (t.link k).down = false ∧ (t.link k).runRate = l.tryRate ∧ (t.link k).width = n ∧
        (∀ g < 8, (t.link k).gmap.getLsbD g = clean g) ∧
        (l.down = false → n < l.width → posts s t (shape (t.link k))) ∧
        (l.down = false → l.width ≤ n → l.tryRate < l.runRate → posts s t (shape (t.link k) + 256)) ∧
        (l.down = false → l.width ≤ n → l.runRate ≤ l.tryRate → t.dies = s.dies)) ∧
      (∀ pass, n = 0 ∨ pass = false →
        (l.att + 1 < 3 → exec (.trainingAttempt k pass) s = .next (s.setLink k { l with att := l.att + 1, tryRate := l.tryRate - 1 })) ∧
        (3 ≤ l.att + 1 → ∃ t, exec (.trainingAttempt k pass) s = .next t ∧ SameBytes s t ∧ (t.link k).down = true ∧
          (t.link k).training = false ∧ (t.link k).att = 3 ∧
          (l.down = false →
            let s1 := s.setLink k { l with att := 3, training := false, down := true, width := 0, gmap := 0, runRate := 0 }
            posts s1 t (2 * 256) ∧
            let moved (i : Nat) (f : Flit) : Bool := ((s1.firstHop (k / 16) i f.dst.toNat).any fun m => m != k % 16)
            let a := moved (linkDies (k % 16)).1
            let b := moved (linkDies (k % 16)).2
            let fresh (e : LinkEnd) (f : Flit) : Bool := decide ((f.seq - e.expect).toNat < 2048) && !e.early.contains f.seq
            (t.link k).endA.buf = l.endA.buf.filter (fun f => !a f) ∧ (t.link k).endB.buf = l.endB.buf.filter (fun f => !b f) ∧
            (t.link k).endB.out = l.endB.out ++ (l.endA.buf.filter fun f => a f && fresh l.endB f) ∧
            (t.link k).endA.out = l.endA.out ++ (l.endB.buf.filter fun f => b f && fresh l.endA f)))))

/-- R389, R390, R393: a stack's sensor has hysteresis, a faulty lane stays marked, and a channel takes the width that they call
for. -/
def Sys2Proof.Clause.MemoryChannels : Prop :=
  ∀ (s : State) die stk h, s.live (pkgOfDie die) = true → (s.die die).hbm[stk]? = some h →
    (∀ (c : Int) lane, ∃ t, exec (.hbmTemperature die stk c lane) s = .next t ∧ SameBytes s t ∧
      (t.die die).hbm[stk]? = some { h with
        hot := if 95 ≤ c then true else if c < 85 then false else h.hot,
        lflt := match lane with | some x => if x < 32 then h.lflt ||| ((1 : BitVec 32) <<< x) else h.lflt | none => h.lflt }) ∧
    (∀ chan, stk < 2 → chan < 32 → (h.hot || h.lflt.getLsbD chan) ≠ h.half.getLsbD chan →
      let d := if s.routeSD (die / 8) (die % 8) = true then die else if die % 8 = 0 then die + 1 else die / 8 * 8
      ∃ t r, exec (.hbmWidthChange die stk chan) s = .next t ∧ SameBytes s t ∧
        (t.die die).hbm[stk]? = some { h with half := h.half ^^^ ((1 : BitVec 32) <<< chan), ncnt := satInc h.ncnt } ∧
        (t.die d).postq = (s.die d).postq ++ [r] ∧ r.code = 0x21 ∧ r.handle = 0 ∧ r.kind = 3 ∧
        r.addr = BitVec.ofNat 64 ((if h.half.getLsbD chan then 2 else 1) * 2 ^ 16 + chan * 2 ^ 10 + 3 * 256 + stk * 16))

/-- R398 to R401: a fabric packet that its source has sent, or may send now, is delivered in order, held, refused, dropped as a
duplicate or for its CRC; an unacknowledged one is resent over the up port with the fewest bytes queued, or has failed: a store is
reported, and of a load the line and the package that serves it are remembered for the load that faults (log entry 87). -/
def Sys2Proof.Clause.Fabric : Prop :=
  let gone (t : State) (p : Packet) : Prop := ∀ x ∈ (t.pkg p.src).sent, samePacket x.pkt p = false
  (∀ (s : State) pkg (p : Packet) bucket, s.live pkg = true → p.dst = pkg →
    (∃ x ∈ (s.pkg p.src).sent, x.pkt = p) ∨
      (s.mayFabricSend p = true ∧ ∃ i < 16, (s.port p.src i).up = true ∧ (s.port p.src i).queued < 2 ^ 64) →
    let k := s.pkg pkg
    let next := (aget k.rxNext p.src).getD 0
    let heldAt (q : Nat) : Prop := ∃ x ∈ k.rxHeld, x.src = p.src ∧ x.seq = q
    let held := (k.rxHeld.map Packet.bytes).foldl (· + ·) 0
    let at_ (intact : Bool) (post : State → Prop) : Prop :=
      ∃ t, exec (.fabricPacketReceive pkg p { intact := intact, bucket := bucket }) s = .next t ∧ SameBytes s t ∧ post t
    at_ false (fun t => (t.pkg pkg).rxOut = k.rxOut ∧ (t.pkg pkg).rxHeld = k.rxHeld ∧ ∃ x ∈ (t.pkg p.src).sent, x.pkt = p) ∧
    (isOrdered p.kind = false → at_ true fun t => (t.pkg pkg).rxOut = k.rxOut ++ [p] ∧ gone t p) ∧
    (isOrdered p.kind = true →
      (p.seq < next ∨ heldAt p.seq → at_ true fun t =>
        (t.pkg pkg).rxOut = k.rxOut ∧ (t.pkg pkg).rxHeld = k.rxHeld ∧ gone t p) ∧
      (p.seq = next → ¬ heldAt next → ¬ heldAt (next + 1) → at_ true fun t =>
        (t.pkg pkg).rxOut = k.rxOut ++ [p] ∧ aget (t.pkg pkg).rxNext p.src = some (next + 1) ∧
        (t.pkg pkg).rxHeld = k.rxHeld ∧ gone t p) ∧
      (next < p.seq → ¬ heldAt p.seq → held + p.bytes ≤ 4 * 2 ^ 20 → at_ true fun t =>
        (t.pkg pkg).rxOut = k.rxOut ∧ (t.pkg pkg).rxHeld = k.rxHeld ++ [p] ∧ gone t p) ∧
      (next < p.seq → ¬ heldAt p.seq → 4 * 2 ^ 20 < held + p.bytes → at_ true fun t =>
        (t.pkg pkg).rxOut = k.rxOut ∧ (t.pkg pkg).rxHeld = k.rxHeld ∧ ∃ x ∈ (t.pkg p.src).sent, x.pkt = p))) ∧
  (∀ (s : State) pkg dst kind q (x : Sent), s.live pkg = true →
    (s.pkg pkg).sent.find? (fun y => y.pkt.dst == dst && y.pkt.kind == kind && y.pkt.seq == q) = some x →
    let others := (s.pkg pkg).sent.filter fun y => !samePacket y.pkt x.pkt
    (8 ≤ x.resends → ∃ t, exec (.fabricResend pkg dst kind q) s = .next t ∧ (t.pkg pkg).sent = others ∧
      (kind ≠ .store → kind ≠ .writeBack → SameBytes s t) ∧
      (kind = .request ∨ kind = .atomic → (dst, x.pkt.addr / 256) ∈ (t.pkg pkg).failed) ∧
      (kind = .store ∨ kind = .writeBack → ∃ s0 : State, SameBytes s s0 ∧ (s0.pkg pkg).sent = others ∧
        t = s0.errqPut pkg (s.errqOf pkg (BitVec.ofNat 16 x.pkt.asid))
          { asid := x.pkt.asid, addr := x.pkt.addr, peer := dst, cause := RLOAD, src := 0, wg := x.pkt.wg })) ∧
    (x.resends < 8 → (∃ i < 16, (s.port pkg i).up = true ∧ (s.port pkg i).queued < 2 ^ 64) →
      ∃ t to_, exec (.fabricResend pkg dst kind q) s = .next t ∧ SameBytes s t ∧
        (t.pkg pkg).sent = others ++ [Sent.mk x.pkt to_ true (x.resends + 1)] ∧ to_ < 16 ∧ (s.port pkg to_).up = true ∧
        ((s.pkg pkg).sent.all (fun y => !samePacket y.pkt x.pkt || !y.queued) = true →
          ∀ j < 16, (s.port pkg j).up = true → (s.port pkg to_).queued ≤ (s.port pkg j).queued) ∧
        ∀ y, (s.pkg pkg).ports[x.port]? = some y → ∃ y', (t.pkg pkg).ports[x.port]? = some y' ∧
          y'.resend = if y.resend = BitVec.allOnes 32 then y.resend else y.resend + 1)) ∧
  (∀ (s : State) pkg port up, s.live pkg = true →
    ∃ t, exec (.fabricPortLinkChange pkg port up) s = .next t ∧ SameBytes s t ∧
      ∀ i y, (s.pkg pkg).ports[i]? = some y → (t.pkg pkg).ports[i]? = some (if i = port then { y with up := up } else y))

/-- R378, R381 to R390, R393, R398 to R401: die-to-die links, HBM channels and the pod fabric: their steps complete, and what they leave
(what an end proposes: log entry 80; rerouted flits: log entry 86; failed loads: log entry 87). -/
def Obligations.LinkAgents : Prop :=
  Clause.LinkStepsComplete ∧ Clause.Flits ∧ Clause.LinkAgents ∧ Clause.MemoryChannels ∧ Clause.Fabric

/-- R352, R355 to R357, R362, R366 to R368, R371, R387: a read miss and a write grant move tags, lines and masters, an accepted offer
moves a master, a write-back takes dirty sectors to the master, and no byte changes by any of them; a write-back that cannot reach its
master is reported, and its sectors alone are lost; DISCARD clears a page, PIN and UNPIN set its bit, and LOST ends the pages that stood
on the lost package alone. -/
def Obligations.AttractionAgents : Prop :=
  (∀ (s : State) die line, s.live (pkgOfDie die) = true → isHomeless (line * 256) = true →
    let pkg := pkgOfDie die
    let gpn := line / 256
    let l := line % 256
    let set := (s.pkg pkg).setOf gpn
    (aget (s.die die).l2 line = none → s.resetHeld die (line * 256) false = false → (s.dirEnt gpn).hostBias = none →
      ∃ t, exec (.readMiss die line) s = .next t ∧ (s.connected → SameBytes s t) ∧ t.warps = s.warps ∧
        (∀ d, s.pkgHolds pkg line = some d → ∃ x, aget (t.die die).l2 line = some x ∧ x.owned = false) ∧
        (∀ m ma, s.masterSlot gpn = some (m, ma) → s.pkgHolds pkg line = none →
          (∀ a, (s.pkg pkg).localOf gpn = some a → ∃ x, aget (t.die die).l2 line = some x ∧ x.owned = false) ∧
          (∀ w, (s.pkg pkg).localOf gpn = none → s.ldirRoom m gpn pkg = true →
            (s.pkg pkg).invalidWay set = some w →
            (∃ x, aget (t.die die).l2 line = some x ∧ x.owned = false) ∧ pkg ∈ (t.dirEnt gpn).replicas ∧
            let x := (t.pkg pkg).way set w
            x.gpn = gpn ∧ x.isReplica = true ∧ x.guard = false ∧ x.dirty = 0 ∧
              ∀ i < 256, x.valid.getLsbD i = decide (i = l)))) ∧
    (∀ asid dup t0, s.resetHeld die (line * 256) true = false → (s.dirEnt gpn).hostBias = none →
      s.grantLine die (line * 256) dup 0 false = .ok t0 →
      ∃ t, exec (.writeGrant die line asid dup) s = .next t ∧ (s.connected → SameBytes s t) ∧ t.warps = s.warps ∧
        (∀ x, aget (t.die die).l2 line = some x → x.owned = true ∧ x.asid = BitVec.ofNat 16 asid) ∧
        ((s.dirEnt gpn).lost = false →
          (s.masterSlot gpn = none ∨ (∃ a, s.masterSlot gpn = some (pkg, a)) → ∃ x, aget (t.die die).l2 line = some x) ∧
          (s.exclusive die (line * 256) = false → s.backHeld line = false → s.masterSlot gpn ≠ none → ∀ d, d ≠ die →
            aget (t.die d).l2 line = none) ∧
          (∀ w, s.exclusive die (line * 256) = false → (s.dirEnt gpn).master = none → dup = false →
            (s.pkg pkg).invalidWay set = some w →
            (t.dirEnt gpn).master = some pkg ∧ ((t.pkg pkg).way set w).gpn = gpn ∧ ((t.pkg pkg).way set w).isMaster = true))) ∧
    (∀ x, aget (s.die die).l2 line = some x → x.dirty ≠ 0 → x.gran = [] → s.backHeld line = true →
      exec (.l2WriteBack die line) s = .next s) ∧
    (∀ x m a, aget (s.die die).l2 line = some x → x.dirty ≠ 0 → x.gran = [] → s.backHeld line = false →
      (∀ c, s.backFault die line = some c → ∃ t e, exec (.l2WriteBack die line) s = .next t ∧ aget (t.die die).l2 line = none ∧
        t.agenda = .event (.storeError pkg e) :: s.agenda ∧ e.cause = c ∧ e.addr = line * 256 ∧ e.asid = x.asid.toNat ∧
        SameBytesBut s t (((List.range 256).filter fun i => x.dirty.getLsbD (i / 32)).map (line * 256 + ·))) ∧
      (s.masterSlot gpn = some (m, a) → s.backFault die line = none → ∃ t, exec (.l2WriteBack die line) s = .next t ∧ SameBytes s t ∧
        aget (t.die die).l2 line = some { x with dirty := 0 } ∧
        let y := (s.pkg m).slotAt a
        let y' := (t.pkg m).slotAt a
        y'.gpn = y.gpn ∧ y'.st = y.st ∧ (∀ i < 256, y'.valid.getLsbD i = (y.valid.getLsbD i || decide (i = l))) ∧
          ∀ i < 256, ∀ j < 8, y'.dirty.getLsbD (8 * i + j) = (y.dirty.getLsbD (8 * i + j) || (decide (i = l) && x.dirty.getLsbD j))))) ∧
  (∀ (s : State) n src gpn w, s.live n = true →
    let set := (s.pkg src).setOf gpn
    let nbr (i : Nat) : Nat := (s.pkg src).nbr.getD i 0
    s.wantsRoom src set = true →
    (s.pkg src).invalidWay set = none → ((s.pkg src).oldest set fun x => x.isReplica && !x.guard) = none →
    ((s.pkg src).oldest set fun x => x.isMaster && !s.pinned x && !(s.elsewhere x.gpn src).isEmpty) = none →
    ((s.pkg src).oldest set fun x => x.isMaster && !s.pinned x) = some w → ((s.pkg src).way set w).gpn = gpn →
    (∀ t0, n = nbr 0 → s.offer n src (.way set w) = some t0 →
      ∃ t, exec (.injectionOffer n src gpn) s = .next t ∧ SameBytes s t ∧ (t.dirEnt gpn).master = some n) ∧
    (∀ t0, n = nbr 1 → n ≠ nbr 0 → s.offer (nbr 0) src (.way set w) = none →
      (s.tryOffer (nbr 0) src (.way set w)).2.offer n src (.way set w) = some t0 →
      ∃ t, exec (.injectionOffer n src gpn) s = .next t ∧ SameBytes s t ∧ (t.dirEnt gpn).master = some n)) ∧
  (∀ (s : State) pkg gpn, s.live pkg = true → (s.pkg pkg).amBusy = false → gpn < 2 ^ 38 →
    ((s.holders gpn).any (fun h => ((s.pkg h.1).slotAt h.2).pin) = false →
      ∃ t, exec (.amopDiscard pkg gpn) s = .next t ∧ (t.pkg pkg).amErr = 0 ∧ (t.dirEnt gpn).master = none ∧
        ∀ k, memGet t.mem k = if isHomeless k = true ∧ gpnOf k = gpn then 0 else memGet s.mem k) ∧
    ((s.holders gpn).any (fun h => ((s.pkg h.1).slotAt h.2).pin) = true →
      ∃ t, exec (.amopDiscard pkg gpn) s = .next t ∧ SameBytes s t ∧ (t.pkg pkg).amErr = 1) ∧
    (∀ a, (s.dirEnt gpn).master = some pkg → (s.pkg pkg).masterOf gpn = some a → ((s.pkg pkg).slotAt a).pin = false →
      (s.pinOthers pkg ((s.pkg pkg).setOf gpn) gpn + 1 < (s.pkg pkg).ways → ∃ t, exec (.amopPin pkg gpn) s = .next t ∧
        SameBytes s t ∧ (t.pkg pkg).amErr = 0 ∧ (t.pkg pkg).slotAt a = { (s.pkg pkg).slotAt a with pin := true }) ∧
      ((s.pkg pkg).ways ≤ s.pinOthers pkg ((s.pkg pkg).setOf gpn) gpn + 1 → ∃ t, exec (.amopPin pkg gpn) s = .next t ∧
        SameBytes s t ∧ (t.pkg pkg).amErr = 3 ∧ (t.pkg pkg).slots = (s.pkg pkg).slots)) ∧
    (∀ a, (s.pkg pkg).masterOf gpn = some a →
      (((s.pkg pkg).slotAt a).pin = true → ∃ t, exec (.amopUnpin pkg gpn) s = .next t ∧ SameBytes s t ∧ (t.pkg pkg).amErr = 0 ∧
        (t.pkg pkg).slotAt a = { (s.pkg pkg).slotAt a with pin := false }) ∧
      (((s.pkg pkg).slotAt a).pin = false → ∃ t, exec (.amopUnpin pkg gpn) s = .next t ∧ SameBytes s t ∧ (t.pkg pkg).amErr = 4)) ∧
    (∀ q < 4096, (q ≠ pkg → q < s.podN → s.lostPkgs.contains q = false →
        ∃ t, exec (.amopLost pkg q) s = .next t ∧ SameBytes s t ∧ (t.pkg pkg).amErr = 0 ∧ q ∈ t.lostPkgs ∧
          ∀ g d, aget s.dir g = some d → d.master = some q → s.elsewhere g q = [] →
            (∀ p, ∀ y ∈ (s.pkg p).pool, y.2.gpn ≠ g) →
            (t.dirEnt g).lost = true ∧ (t.dirEnt g).master = none) ∧
      (q = pkg ∨ s.podN ≤ q ∨ s.lostPkgs.contains q = true →
        ∃ t, exec (.amopLost pkg q) s = .next t ∧ SameBytes s t ∧ (t.pkg pkg).amErr = 5 ∧ t.dir = s.dir)))

/-- R226, R344, R402, R425 to R427: a snoop takes or shares one granule; a host's read is recorded and its write reaches memory; a bias
flip needs its conditions and waits for the copies that use the page; the scrubber poisons and posts a page whose sum differs. -/
def Obligations.HostAgents : Prop :=
  (∀ (s : State) die k x c, s.live (pkgOfDie die) = true → isHostLine s k = true → aget (s.die die).l2 (lineKey k) = some x →
    x.gran[k / 64 % 4]? = some c → c ≠ 0 →
    let clean : BitVec 8 := x.dirty &&& ~~~((3 : BitVec 8) <<< (2 * (k / 64 % 4)))
    (∃ t, exec (.snpdata die k) s = .next t ∧ SameBytes s t ∧
      aget (t.die die).l2 (lineKey k) = some { x with gran := x.gran.set (k / 64 % 4) 1, dirty := clean }) ∧
    (∃ t, exec (.snpinv die k) s = .next t ∧ SameBytes s t ∧
      ((∀ j y, x.gran[j]? = some y → j ≠ k / 64 % 4 → y = 0) → aget (t.die die).l2 (lineKey k) = none) ∧
      (∀ j y, x.gran[j]? = some y → j ≠ k / 64 % 4 → y ≠ 0 →
        aget (t.die die).l2 (lineKey k) = some { x with gran := x.gran.set (k / 64 % 4) 0, dirty := clean }))) ∧
  (∀ (s : State) host pkg k, s.live pkg = true → (s.pkg pkg).hasHost host = true →
    (∀ len m, isHomeless k = true → (s.dirEnt (gpnOf k)).master = some m → (s.dirEnt (gpnOf k)).hostBias = none →
      s.readOff pkg k = none →
      ∃ t x, exec (.hostRead host pkg k len) s = .next t ∧ SameBytes s t ∧ t.warps = s.warps ∧
        aget (t.dirEnt (gpnOf k)).hostLines host = some x ∧
        ∀ i < 1024, x.getLsbD i = (((aget (s.dirEnt (gpnOf k)).hostLines host).getD 0).getLsbD i ||
          (decide (k < k / 65536 * 65536 + 64 * i + 64) && decide (k / 65536 * 65536 + 64 * i < k + len)))) ∧
    (∀ bs : List Byte, k % 64 + bs.length ≤ 64 →
      (isHostKey k = true ∧ hostOf k = host) ∨ (isHomeless k = true ∧ (s.dirEnt (gpnOf k)).hostBias = some host) ∨
        (isHomeless k = true ∧ (s.dirEnt (gpnOf k)).hostBias = none ∧ s.agentFault pkg k = none ∧
          (s.pkg pkg).held.any Held.isWrite = false ∧ ∃ t0, s.agentWrite pkg k bs = .ok t0) →
      ∃ t, exec (.hostWrite host pkg k bs) s = .next t ∧ t.warps = s.warps ∧
        (s.connected → SameBytesBut s t ((List.range bs.length).map (k + ·))) ∧ ∀ i b, bs[i]? = some b → memGet t.mem (k + i) = b)) ∧
  (∀ (s : State) pkg gpn m, s.live pkg = true → (s.pkg pkg).biasBusy = false → gpn < 2 ^ 38 → (s.dirEnt gpn).master = some m →
    (∀ h, (s.dirEnt gpn).hostBias = some h → s.inFlight.any (usesPage [gpn]) = false →
      ∃ t, exec (.biasopToDevice pkg gpn) s = .next t ∧ (s.connected → SameBytes s t) ∧ (t.dirEnt gpn).hostBias = none ∧
        (t.pkg pkg).biasErr = 0 ∧ (t.pkg pkg).biasH = false) ∧
    ((s.dirEnt gpn).hostBias = none → ∃ t, exec (.biasopToDevice pkg gpn) s = .next t ∧ SameBytes s t ∧
      (t.pkg pkg).biasErr = 4 ∧ (t.dirEnt gpn).hostBias = none) ∧
    (∀ host a, host < 16 → s.inFlight.any (usesPage [gpn]) = false → (s.pkg pkg).hasHost host = true → (s.dirEnt gpn).dup = false → (s.dirEnt gpn).opened = false →
      (s.dirEnt gpn).hostBias = none → (s.pkg m).masterOf gpn = some a →
      ((s.pkg m).slotAt a).pin = true ∨ s.pinOthers m ((s.pkg m).setOf gpn) gpn + 1 < (s.pkg m).ways →
      ∃ t, exec (.biasopToHost pkg host gpn) s = .next t ∧ (s.connected → SameBytes s t) ∧ (t.dirEnt gpn).hostBias = some host ∧
        (t.dirEnt gpn).master = some m ∧ (t.dirEnt gpn).replicas = [] ∧ (t.pkg pkg).biasErr = 0 ∧ (t.pkg pkg).biasH = true) ∧
    (∀ host < 16, (s.pkg pkg).hasHost host = false → ∃ t, exec (.biasopToHost pkg host gpn) s = .next t ∧ SameBytes s t ∧
      (t.pkg pkg).biasErr = 2 ∧ t.dir = s.dir) ∧
    (∀ host a, host < 16 → s.inFlight.any (usesPage [gpn]) = true → (s.pkg pkg).hasHost host = true → (s.dirEnt gpn).dup = false →
      (s.dirEnt gpn).opened = false → (s.dirEnt gpn).hostBias = none → (s.pkg m).masterOf gpn = some a →
      ((s.pkg m).slotAt a).pin = true → ∃ t, exec (.biasopToHost pkg host gpn) s = .next t ∧ SameBytes s t ∧
        (t.pkg pkg).biasBusy = true ∧ t.dir = s.dir)) ∧
  (∀ (s : State) die va key l, s.live (pkgOfDie die) = true → (s.die die).scrbctl.getLsbD 63 = true →
    s.nextLeaf (s.scrubs die) (s.die die).scrubAt 4 0 (ptbAddr (s.die die).scrbptb) = some (va, key, l) →
    (s.pageCrc l = l.crc → exec (.scrubCheck die) s = .next (s.setDie die { s.die die with scrubAt := va + 65536 })) ∧
    (s.pageCrc l ≠ l.crc → ∃ t r, exec (.scrubCheck die) s = .next t ∧
      (s.connected → SameBytesBut s t ((List.range 8).map (key + 8 + ·)) ∧
        t.le (key + 8) 8 = (l.hi ||| ((1 : Word) <<< 62)).toNat) ∧ (t.die die).scrubAt = va + 65536 ∧
      (t.die die).postq = (s.die die).postq ++ [r] ∧ r.code = 0x0A ∧ r.handle = 0 ∧ r.ptbase = (s.die die).scrbptb))
end

