-- ==== Sys2Proof/Laws/Memory.lean ====
section
/-! SUPPORT. Maps kept sorted by key, the one memory, and its canonical form: what an operation leaves at each key, and that every
operation keeps the form. -/
namespace Sys2Proof.Machine

/-! ### Maps -/

@[simp] theorem aget_nil {α : Type} (k : Nat) : aget ([] : AMap α) k = none := rfl

@[simp] theorem aget_aset_self {α : Type} (m : AMap α) (k : Nat) (v : α) : aget (aset m k v) k = some v := by
  induction m with
  | nil => simp [aset, aget]
  | cons e m ih =>
    obtain ⟨k', v'⟩ := e
    simp only [aset]
    split
    · simp [aget]
    · split
      · simp [aget]
      · rename_i h
        simp [aget, Ne.symm h, ih]

theorem aget_aset_ne {α : Type} (m : AMap α) (k k' : Nat) (v : α) (h : k' ≠ k) : aget (aset m k v) k' = aget m k' := by
  induction m with
  | nil => simp [aset, aget, Ne.symm h]
  | cons e m ih =>
    obtain ⟨j, v'⟩ := e
    simp only [aset]
    split
    · simp [aget, Ne.symm h]
    · split
      · subst_vars; simp [aget, Ne.symm h]
      · simp [aget, ih]

theorem aget_aset {α : Type} (m : AMap α) (k k' : Nat) (v : α) :
    aget (aset m k v) k' = if k' = k then some v else aget m k' := by
  split
  · subst_vars; simp
  · exact aget_aset_ne m k k' v ‹_›

theorem aget_filter_key {α : Type} (m : AMap α) (p : Nat → Bool) (k : Nat) :
    aget (m.filter fun e => p e.1) k = if p k then aget m k else none := by
  induction m with
  | nil => simp
  | cons e m ih =>
    obtain ⟨j, v⟩ := e
    by_cases hj : p j <;> by_cases e : j = k <;> simp_all [aget]

theorem aget_adel {α : Type} (m : AMap α) (k k' : Nat) : aget (adel m k) k' = if k' = k then none else aget m k' := by
  simp only [adel]
  rw [aget_filter_key m (fun j => j != k) k']
  by_cases h : k' = k <;> simp [h]

@[simp] theorem aget_adel_self {α : Type} (m : AMap α) (k : Nat) : aget (adel m k) k = none := by simp [aget_adel]

theorem aget_map {α : Type} (m : AMap α) (g : α → α) (k : Nat) :
    aget (m.map fun e => (e.1, g e.2)) k = (aget m k).map g := by
  induction m with
  | nil => rfl
  | cons e m ih =>
    obtain ⟨j, v⟩ := e
    by_cases h : j = k <;> simp_all [aget]

theorem aget_amod {α : Type} (m : AMap α) (k k' : Nat) (g : α → α) :
    aget (amod m k g) k' = if k' = k then (aget m k).map g else aget m k' := by
  simp only [amod]
  cases h : aget m k with
  | none => by_cases e : k' = k <;> simp [e, h]
  | some v => by_cases e : k' = k <;> simp [e, aget_aset]

/-- A key that is listed has an entry. -/
theorem aget_isSome_of_mem {α : Type} (m : AMap α) (k : Nat) (v : α) (h : (k, v) ∈ m) : (aget m k).isSome = true := by
  induction m with
  | nil => simp at h
  | cons e m ih =>
    obtain ⟨j, x⟩ := e
    by_cases hj : j = k
    · simp [aget, hj]
    · simp only [List.mem_cons, Prod.mk.injEq] at h
      simp [aget, hj, ih (h.resolve_left fun e => hj e.1.symm)]

theorem mem_aset {α : Type} (m : AMap α) (k : Nat) (v : α) (e : Nat × α) (h : e ∈ aset m k v) : e = (k, v) ∨ e ∈ m := by
  induction m with
  | nil => exact .inl (by simpa [aset] using h)
  | cons x m ih =>
    obtain ⟨j, w⟩ := x
    simp only [aset] at h
    split at h
    · simpa using h
    · split at h
      · rcases List.mem_cons.1 h with h | h
        · exact .inl h
        · exact .inr (List.mem_cons_of_mem _ h)
      · rcases List.mem_cons.1 h with h | h
        · exact .inr (h ▸ List.mem_cons_self)
        · exact (ih h).imp id (List.mem_cons_of_mem _)

theorem keyed_aset {α : Type} (m : AMap α) (k : Nat) (v : α) (h : Keyed m) : Keyed (aset m k v) := by
  induction m with
  | nil => simp [aset, Keyed]
  | cons x m ih =>
    obtain ⟨j, w⟩ := x
    simp only [Keyed, List.map_cons, List.pairwise_cons] at h
    simp only [aset]
    split
    · rename_i hk
      simp only [Keyed, List.map_cons, List.pairwise_cons]
      refine ⟨?_, h⟩
      intro a ha
      rcases List.mem_cons.1 ha with rfl | ha
      · exact hk
      · exact Nat.lt_trans hk (h.1 a ha)
    · split
      · rename_i _ hk
        subst hk
        simpa only [Keyed, List.map_cons, List.pairwise_cons] using h
      · rename_i h1 h2
        have h3 : j < k := by omega
        simp only [Keyed, List.map_cons, List.pairwise_cons]
        refine ⟨?_, ih h.2⟩
        intro a ha
        obtain ⟨e, he, rfl⟩ := List.mem_map.1 ha
        rcases mem_aset m k v e he with rfl | he
        · exact h3
        · exact h.1 _ (List.mem_map_of_mem he)

theorem keyed_filter {α : Type} (m : AMap α) (p : Nat × α → Bool) (h : Keyed m) : Keyed (m.filter p) :=
  List.Pairwise.sublist (List.Sublist.map _ List.filter_sublist) h

theorem keyed_adel {α : Type} (m : AMap α) (k : Nat) (h : Keyed m) : Keyed (adel m k) := keyed_filter m _ h

/-! ### Memory -/

theorem memGet_memSet (m : List Host.Cell) (k k' : Nat) (b : Byte) :
    memGet (memSet m k b) k' = if k' = k then b else memGet m k' := by
  simp only [memGet, memSet]
  split
  · by_cases e : k' = k <;> simp_all [aget_adel]
  · by_cases e : k' = k <;> simp_all [aget_aset]

theorem memGet_memSetAll (m : List Host.Cell) (ws : List (Nat × Byte)) (k : Nat) (h : k ∉ ws.map Prod.fst) :
    memGet (memSetAll m ws) k = memGet m k := by
  induction ws generalizing m with
  | nil => rfl
  | cons e ws ih =>
    obtain ⟨j, b⟩ := e
    simp only [List.map_cons, List.mem_cons, not_or] at h
    simp [memSetAll, ih _ h.2, memGet_memSet, h.1]

theorem memSetAll_append (m : List Host.Cell) (xs ys : List (Nat × Byte)) :
    memSetAll m (xs ++ ys) = memSetAll (memSetAll m xs) ys := by
  induction xs generalizing m with
  | nil => rfl
  | cons e xs ih => obtain ⟨j, b⟩ := e; simp [memSetAll, ih]

/-- Where no address stands twice, each byte written is read back. -/
theorem memGet_memSetAll_mem (m : List Host.Cell) (ws : List (Nat × Byte)) (k : Nat) (b : Byte)
    (hd : (ws.map Prod.fst).Nodup) (h : (k, b) ∈ ws) : memGet (memSetAll m ws) k = b := by
  induction ws generalizing m with
  | nil => simp at h
  | cons e ws ih =>
    obtain ⟨j, x⟩ := e
    simp only [List.map_cons, List.nodup_cons] at hd
    rcases List.mem_cons.1 h with h | h
    · obtain ⟨rfl, rfl⟩ := Prod.mk.injEq .. ▸ h
      simp [memSetAll, memGet_memSetAll _ _ _ hd.1, memGet_memSet]
    · exact ih _ hd.2 h

theorem memory_wf_iff (m : List Host.Cell) : Memory.wf m = true ↔ Keyed m ∧ ∀ c ∈ m, c.2 ≠ unlistedByte := by
  induction m with
  | nil => simp [Memory.wf, Keyed]
  | cons e m ih =>
    obtain ⟨k, b⟩ := e
    cases m with
    | nil => simp [Memory.wf, Keyed]
    | cons e' m =>
      obtain ⟨k', b'⟩ := e'
      simp only [Memory.wf, Bool.and_eq_true, decide_eq_true_eq, bne_iff_ne, ne_eq, ih, Keyed, List.map_cons,
        List.pairwise_cons, List.mem_cons, forall_eq_or_imp]
      constructor
      · rintro ⟨⟨hb, hk⟩, ⟨h1, h2⟩, h3, h4⟩
        exact ⟨⟨⟨hk, fun a ha => Nat.lt_trans hk (h1 a ha)⟩, h1, h2⟩, hb, h3, h4⟩
      · rintro ⟨⟨⟨hk, _⟩, h1, h2⟩, hb, h3, h4⟩
        exact ⟨⟨hb, hk⟩, ⟨h1, h2⟩, h3, h4⟩

theorem wf_filter (m : List Host.Cell) (p : Host.Cell → Bool) (h : Memory.wf m = true) : Memory.wf (m.filter p) = true := by
  rw [memory_wf_iff] at h ⊢
  exact ⟨keyed_filter m p h.1, fun c hc => h.2 c (List.mem_filter.1 hc).1⟩

theorem wf_memSet (m : List Host.Cell) (k : Nat) (b : Byte) (h : Memory.wf m = true) : Memory.wf (memSet m k b) = true := by
  simp only [memSet]
  split
  · exact wf_filter m _ h
  · rename_i hb
    rw [memory_wf_iff] at h ⊢
    exact ⟨keyed_aset m k b h.1, fun c hc => (mem_aset m k b c hc).elim (fun e => e ▸ hb) (h.2 c)⟩

theorem wf_memSetAll (m : List Host.Cell) (ws : List (Nat × Byte)) (h : Memory.wf m = true) :
    Memory.wf (memSetAll m ws) = true := by
  induction ws generalizing m with
  | nil => exact h
  | cons e ws ih => obtain ⟨k, b⟩ := e; exact ih _ (wf_memSet m k b h)

/-- Memories in canonical form that read alike are equal data. -/
theorem wf_ext (m m' : List Host.Cell) (h : Memory.wf m = true) (h' : Memory.wf m' = true)
    (e : ∀ k, memGet m k = memGet m' k) : m = m' := by
  rw [memory_wf_iff] at h h'
  have key : ∀ (m : List Host.Cell), Keyed m → ∀ k v, aget m k = some v ↔ (k, v) ∈ m := by
    intro m hm k v
    induction m with
    | nil => simp
    | cons x m ih =>
      obtain ⟨j, w⟩ := x
      simp only [Keyed, List.map_cons, List.pairwise_cons] at hm
      by_cases hj : j = k
      · subst hj
        simp only [aget, if_true, List.mem_cons, Prod.mk.injEq, true_and]
        constructor
        · intro q; exact .inl (Option.some.inj q).symm
        · rintro (rfl | q)
          · rfl
          · exact absurd (hm.1 _ (List.mem_map_of_mem q)) (Nat.lt_irrefl _)
      · simp only [aget, if_neg hj, List.mem_cons, Prod.mk.injEq, ih hm.2]
        constructor
        · exact .inr
        · rintro (⟨q, _⟩ | q)
          · exact absurd q.symm hj
          · exact q
  have sub : ∀ (m m' : List Host.Cell), Keyed m → (∀ c ∈ m, c.2 ≠ unlistedByte) → Keyed m' →
      (∀ k, memGet m k = memGet m' k) → ∀ c ∈ m, c ∈ m' := by
    intro m m' hm hb hm' he c hc
    obtain ⟨k, v⟩ := c
    have h1 := (key m hm k v).2 hc
    have h2 := he k
    simp only [memGet, h1, Option.getD_some] at h2
    cases h3 : aget m' k with
    | none => simp [h3] at h2; exact absurd h2 (hb _ hc)
    | some w => simp [h3] at h2; exact (key m' hm' k v).1 (h2 ▸ h3)
  have nd : ∀ (m : List Host.Cell), Keyed m → m.Nodup := fun m hm =>
    List.Pairwise.imp (S := (· ≠ ·)) (fun {a b} (h : a.1 < b.1) (e : a = b) => Nat.lt_irrefl _ (e ▸ h)) (List.pairwise_map.1 hm)
  have p : m.Perm m' := (List.perm_ext_iff_of_nodup (nd m h.1) (nd m' h'.1)).2 fun c =>
    ⟨sub m m' h.1 h.2 h'.1 e c, sub m' m h'.1 h'.2 h.1 (fun k => (e k).symm) c⟩
  have s1 : m.Pairwise fun a b : Host.Cell => a.1 < b.1 := List.pairwise_map.1 h.1
  have s2 : m'.Pairwise fun a b : Host.Cell => a.1 < b.1 := List.pairwise_map.1 h'.1
  exact p.eq_of_pairwise (fun a b _ _ (q : a.1 < b.1) (r : b.1 < a.1) => absurd (Nat.lt_trans q r) (Nat.lt_irrefl _)) s1 s2

theorem memOk_write (s : State) (ws : List (Nat × Byte)) (h : s.memOk) : (s.write ws).memOk := wf_memSetAll s.mem ws h

theorem memOk_of_mem_eq (s t : State) (e : t.mem = s.mem) (h : s.memOk) : t.memOk := by
  unfold State.memOk at *; rw [e]; exact h

theorem memOk_filter (s : State) (p : Host.Cell → Bool) (h : s.memOk) : ({ s with mem := s.mem.filter p } : State).memOk :=
  wf_filter s.mem p h

theorem memOk_reset : State.reset.memOk := rfl

/-! ### Numbers in memory (R7) -/

@[simp] theorem length_leBytes (n x : Nat) : (leBytes n x).length = n := by
  induction n generalizing x with
  | zero => rfl
  | succ n ih => simp [leBytes, ih]

theorem leNat_leBytes (n x : Nat) : leNat (leBytes n x) = x % 256 ^ n := by
  induction n generalizing x with
  | zero => simp [leBytes, leNat, Nat.mod_one]
  | succ n ih =>
    simp only [leBytes, leNat, ih, BitVec.toNat_ofNat]
    rw [Nat.pow_succ 256 n, Nat.mul_comm (256 ^ n) 256, Nat.mod_mul]

@[simp] theorem length_bytes (s : State) (k n : Nat) : (s.bytes k n).length = n := by
  induction n generalizing k with
  | zero => rfl
  | succ n ih => simp [State.bytes, ih]

theorem getElem?_bytes (s : State) (k n i : Nat) (h : i < n) : (s.bytes k n)[i]? = some (memGet s.mem (k + i)) := by
  induction n generalizing k i with
  | zero => omega
  | succ n ih =>
    cases i with
    | zero => simp [State.bytes]
    | succ i => simp [State.bytes, ih (k + 1) i (by omega), Nat.add_assoc, Nat.add_comm 1 i]

/-- Bytes read depend on memory alone. -/
theorem bytes_congr (s t : State) (h : t.mem = s.mem) (k n : Nat) : t.bytes k n = s.bytes k n := by
  induction n generalizing k with
  | zero => rfl
  | succ n ih => simp [State.bytes, h, ih]

theorem map_fst_atAddrs (k : Nat) (bs : List Byte) : (atAddrs k bs).map Prod.fst = (List.range bs.length).map (k + ·) := by
  induction bs generalizing k with
  | nil => rfl
  | cons b bs ih =>
    simp only [atAddrs, List.map_cons, ih, List.length_cons, List.range_succ_eq_map, List.map_map, Nat.add_zero,
      List.cons.injEq, true_and]
    refine List.map_congr_left fun i _ => ?_
    simp only [Function.comp, Nat.succ_eq_add_one]; omega

/-- A write of consecutive bytes changes those bytes alone. -/
theorem write_atAddrs_frame (s : State) (k : Nat) (bs : List Byte) :
    SameBytesBut s (s.write (atAddrs k bs)) ((List.range bs.length).map (k + ·)) := by
  intro j hj
  exact memGet_memSetAll _ _ _ (by rwa [map_fst_atAddrs])

end Sys2Proof.Machine
end

