-- ==== Sys2Proof/Laws/State.lean ====
section
/-! SUPPORT. What each update of the state, of a warp and of a lane leaves of every field. -/
namespace Sys2Proof.Machine

/-! ### Components of the state -/

@[simp] theorem State.setCore_podN (s : State) (k : Nat) (c : Core) : (s.setCore k c).podN = s.podN := rfl
@[simp] theorem State.setCore_mem (s : State) (k : Nat) (c : Core) : (s.setCore k c).mem = s.mem := rfl
@[simp] theorem State.setCore_warps (s : State) (k : Nat) (c : Core) : (s.setCore k c).warps = s.warps := rfl
@[simp] theorem State.setCore_groups (s : State) (k : Nat) (c : Core) : (s.setCore k c).groups = s.groups := rfl
@[simp] theorem State.setCore_launches (s : State) (k : Nat) (c : Core) : (s.setCore k c).launches = s.launches := rfl
@[simp] theorem State.setCore_copies (s : State) (k : Nat) (c : Core) : (s.setCore k c).copies = s.copies := rfl
@[simp] theorem State.setCore_engines (s : State) (k : Nat) (c : Core) : (s.setCore k c).engines = s.engines := rfl
@[simp] theorem State.setCore_publs (s : State) (k : Nat) (c : Core) : (s.setCore k c).publs = s.publs := rfl
@[simp] theorem State.setCore_ksums (s : State) (k : Nat) (c : Core) : (s.setCore k c).ksums = s.ksums := rfl
@[simp] theorem State.setCore_postings (s : State) (k : Nat) (c : Core) : (s.setCore k c).postings = s.postings := rfl
@[simp] theorem State.setCore_phases (s : State) (k : Nat) (c : Core) : (s.setCore k c).phases = s.phases := rfl
@[simp] theorem State.setCore_cores (s : State) (k : Nat) (c : Core) : (s.setCore k c).cores = aset s.cores k c := rfl
@[simp] theorem State.setCore_dies (s : State) (k : Nat) (c : Core) : (s.setCore k c).dies = s.dies := rfl
@[simp] theorem State.setCore_pkgs (s : State) (k : Nat) (c : Core) : (s.setCore k c).pkgs = s.pkgs := rfl
@[simp] theorem State.setCore_links (s : State) (k : Nat) (c : Core) : (s.setCore k c).links = s.links := rfl
@[simp] theorem State.setCore_dir (s : State) (k : Nat) (c : Core) : (s.setCore k c).dir = s.dir := rfl
@[simp] theorem State.setCore_hostAns (s : State) (k : Nat) (c : Core) : (s.setCore k c).hostAns = s.hostAns := rfl
@[simp] theorem State.setCore_tries (s : State) (k : Nat) (c : Core) : (s.setCore k c).tries = s.tries := rfl
@[simp] theorem State.setCore_dead (s : State) (k : Nat) (c : Core) : (s.setCore k c).dead = s.dead := rfl
@[simp] theorem State.setCore_lostPkgs (s : State) (k : Nat) (c : Core) : (s.setCore k c).lostPkgs = s.lostPkgs := rfl
@[simp] theorem State.setCore_parities (s : State) (k : Nat) (c : Core) : (s.setCore k c).parities = s.parities := rfl
@[simp] theorem State.setCore_nextId (s : State) (k : Nat) (c : Core) : (s.setCore k c).nextId = s.nextId := rfl
@[simp] theorem State.setCore_nextHandle (s : State) (k : Nat) (c : Core) : (s.setCore k c).nextHandle = s.nextHandle := rfl
@[simp] theorem State.setCore_freeN (s : State) (k : Nat) (c : Core) : (s.setCore k c).freeN = s.freeN := rfl
@[simp] theorem State.setCore_rr (s : State) (k : Nat) (c : Core) : (s.setCore k c).rr = s.rr := rfl
@[simp] theorem State.setCore_turns (s : State) (k : Nat) (c : Core) : (s.setCore k c).turns = s.turns := rfl
@[simp] theorem State.setCore_agenda (s : State) (k : Nat) (c : Core) : (s.setCore k c).agenda = s.agenda := rfl
@[simp] theorem State.setCore_cur (s : State) (k : Nat) (c : Core) : (s.setCore k c).cur = s.cur := rfl

@[simp] theorem State.setDie_podN (s : State) (k : Nat) (d : Die) : (s.setDie k d).podN = s.podN := rfl
@[simp] theorem State.setDie_mem (s : State) (k : Nat) (d : Die) : (s.setDie k d).mem = s.mem := rfl
@[simp] theorem State.setDie_warps (s : State) (k : Nat) (d : Die) : (s.setDie k d).warps = s.warps := rfl
@[simp] theorem State.setDie_groups (s : State) (k : Nat) (d : Die) : (s.setDie k d).groups = s.groups := rfl
@[simp] theorem State.setDie_launches (s : State) (k : Nat) (d : Die) : (s.setDie k d).launches = s.launches := rfl
@[simp] theorem State.setDie_copies (s : State) (k : Nat) (d : Die) : (s.setDie k d).copies = s.copies := rfl
@[simp] theorem State.setDie_engines (s : State) (k : Nat) (d : Die) : (s.setDie k d).engines = s.engines := rfl
@[simp] theorem State.setDie_publs (s : State) (k : Nat) (d : Die) : (s.setDie k d).publs = s.publs := rfl
@[simp] theorem State.setDie_ksums (s : State) (k : Nat) (d : Die) : (s.setDie k d).ksums = s.ksums := rfl
@[simp] theorem State.setDie_postings (s : State) (k : Nat) (d : Die) : (s.setDie k d).postings = s.postings := rfl
@[simp] theorem State.setDie_phases (s : State) (k : Nat) (d : Die) : (s.setDie k d).phases = s.phases := rfl
@[simp] theorem State.setDie_cores (s : State) (k : Nat) (d : Die) : (s.setDie k d).cores = s.cores := rfl
@[simp] theorem State.setDie_dies (s : State) (k : Nat) (d : Die) : (s.setDie k d).dies = aset s.dies k d := rfl
@[simp] theorem State.setDie_pkgs (s : State) (k : Nat) (d : Die) : (s.setDie k d).pkgs = s.pkgs := rfl
@[simp] theorem State.setDie_links (s : State) (k : Nat) (d : Die) : (s.setDie k d).links = s.links := rfl
@[simp] theorem State.setDie_dir (s : State) (k : Nat) (d : Die) : (s.setDie k d).dir = s.dir := rfl
@[simp] theorem State.setDie_hostAns (s : State) (k : Nat) (d : Die) : (s.setDie k d).hostAns = s.hostAns := rfl
@[simp] theorem State.setDie_tries (s : State) (k : Nat) (d : Die) : (s.setDie k d).tries = s.tries := rfl
@[simp] theorem State.setDie_dead (s : State) (k : Nat) (d : Die) : (s.setDie k d).dead = s.dead := rfl
@[simp] theorem State.setDie_lostPkgs (s : State) (k : Nat) (d : Die) : (s.setDie k d).lostPkgs = s.lostPkgs := rfl
@[simp] theorem State.setDie_parities (s : State) (k : Nat) (d : Die) : (s.setDie k d).parities = s.parities := rfl
@[simp] theorem State.setDie_nextId (s : State) (k : Nat) (d : Die) : (s.setDie k d).nextId = s.nextId := rfl
@[simp] theorem State.setDie_nextHandle (s : State) (k : Nat) (d : Die) : (s.setDie k d).nextHandle = s.nextHandle := rfl
@[simp] theorem State.setDie_freeN (s : State) (k : Nat) (d : Die) : (s.setDie k d).freeN = s.freeN := rfl
@[simp] theorem State.setDie_rr (s : State) (k : Nat) (d : Die) : (s.setDie k d).rr = s.rr := rfl
@[simp] theorem State.setDie_turns (s : State) (k : Nat) (d : Die) : (s.setDie k d).turns = s.turns := rfl
@[simp] theorem State.setDie_agenda (s : State) (k : Nat) (d : Die) : (s.setDie k d).agenda = s.agenda := rfl
@[simp] theorem State.setDie_cur (s : State) (k : Nat) (d : Die) : (s.setDie k d).cur = s.cur := rfl

@[simp] theorem State.setPkg_podN (s : State) (k : Nat) (p : Pkg) : (s.setPkg k p).podN = s.podN := rfl
@[simp] theorem State.setPkg_mem (s : State) (k : Nat) (p : Pkg) : (s.setPkg k p).mem = s.mem := rfl
@[simp] theorem State.setPkg_warps (s : State) (k : Nat) (p : Pkg) : (s.setPkg k p).warps = s.warps := rfl
@[simp] theorem State.setPkg_groups (s : State) (k : Nat) (p : Pkg) : (s.setPkg k p).groups = s.groups := rfl
@[simp] theorem State.setPkg_launches (s : State) (k : Nat) (p : Pkg) : (s.setPkg k p).launches = s.launches := rfl
@[simp] theorem State.setPkg_copies (s : State) (k : Nat) (p : Pkg) : (s.setPkg k p).copies = s.copies := rfl
@[simp] theorem State.setPkg_engines (s : State) (k : Nat) (p : Pkg) : (s.setPkg k p).engines = s.engines := rfl
@[simp] theorem State.setPkg_publs (s : State) (k : Nat) (p : Pkg) : (s.setPkg k p).publs = s.publs := rfl
@[simp] theorem State.setPkg_ksums (s : State) (k : Nat) (p : Pkg) : (s.setPkg k p).ksums = s.ksums := rfl
@[simp] theorem State.setPkg_postings (s : State) (k : Nat) (p : Pkg) : (s.setPkg k p).postings = s.postings := rfl
@[simp] theorem State.setPkg_phases (s : State) (k : Nat) (p : Pkg) : (s.setPkg k p).phases = s.phases := rfl
@[simp] theorem State.setPkg_cores (s : State) (k : Nat) (p : Pkg) : (s.setPkg k p).cores = s.cores := rfl
@[simp] theorem State.setPkg_dies (s : State) (k : Nat) (p : Pkg) : (s.setPkg k p).dies = s.dies := rfl
@[simp] theorem State.setPkg_pkgs (s : State) (k : Nat) (p : Pkg) : (s.setPkg k p).pkgs = aset s.pkgs k p := rfl
@[simp] theorem State.setPkg_links (s : State) (k : Nat) (p : Pkg) : (s.setPkg k p).links = s.links := rfl
@[simp] theorem State.setPkg_dir (s : State) (k : Nat) (p : Pkg) : (s.setPkg k p).dir = s.dir := rfl
@[simp] theorem State.setPkg_hostAns (s : State) (k : Nat) (p : Pkg) : (s.setPkg k p).hostAns = s.hostAns := rfl
@[simp] theorem State.setPkg_tries (s : State) (k : Nat) (p : Pkg) : (s.setPkg k p).tries = s.tries := rfl
@[simp] theorem State.setPkg_dead (s : State) (k : Nat) (p : Pkg) : (s.setPkg k p).dead = s.dead := rfl
@[simp] theorem State.setPkg_lostPkgs (s : State) (k : Nat) (p : Pkg) : (s.setPkg k p).lostPkgs = s.lostPkgs := rfl
@[simp] theorem State.setPkg_parities (s : State) (k : Nat) (p : Pkg) : (s.setPkg k p).parities = s.parities := rfl
@[simp] theorem State.setPkg_nextId (s : State) (k : Nat) (p : Pkg) : (s.setPkg k p).nextId = s.nextId := rfl
@[simp] theorem State.setPkg_nextHandle (s : State) (k : Nat) (p : Pkg) : (s.setPkg k p).nextHandle = s.nextHandle := rfl
@[simp] theorem State.setPkg_freeN (s : State) (k : Nat) (p : Pkg) : (s.setPkg k p).freeN = s.freeN := rfl
@[simp] theorem State.setPkg_rr (s : State) (k : Nat) (p : Pkg) : (s.setPkg k p).rr = s.rr := rfl
@[simp] theorem State.setPkg_turns (s : State) (k : Nat) (p : Pkg) : (s.setPkg k p).turns = s.turns := rfl
@[simp] theorem State.setPkg_agenda (s : State) (k : Nat) (p : Pkg) : (s.setPkg k p).agenda = s.agenda := rfl
@[simp] theorem State.setPkg_cur (s : State) (k : Nat) (p : Pkg) : (s.setPkg k p).cur = s.cur := rfl

@[simp] theorem State.setLink_podN (s : State) (k : Nat) (l : Link) : (s.setLink k l).podN = s.podN := rfl
@[simp] theorem State.setLink_mem (s : State) (k : Nat) (l : Link) : (s.setLink k l).mem = s.mem := rfl
@[simp] theorem State.setLink_warps (s : State) (k : Nat) (l : Link) : (s.setLink k l).warps = s.warps := rfl
@[simp] theorem State.setLink_groups (s : State) (k : Nat) (l : Link) : (s.setLink k l).groups = s.groups := rfl
@[simp] theorem State.setLink_launches (s : State) (k : Nat) (l : Link) : (s.setLink k l).launches = s.launches := rfl
@[simp] theorem State.setLink_copies (s : State) (k : Nat) (l : Link) : (s.setLink k l).copies = s.copies := rfl
@[simp] theorem State.setLink_engines (s : State) (k : Nat) (l : Link) : (s.setLink k l).engines = s.engines := rfl
@[simp] theorem State.setLink_publs (s : State) (k : Nat) (l : Link) : (s.setLink k l).publs = s.publs := rfl
@[simp] theorem State.setLink_ksums (s : State) (k : Nat) (l : Link) : (s.setLink k l).ksums = s.ksums := rfl
@[simp] theorem State.setLink_postings (s : State) (k : Nat) (l : Link) : (s.setLink k l).postings = s.postings := rfl
@[simp] theorem State.setLink_phases (s : State) (k : Nat) (l : Link) : (s.setLink k l).phases = s.phases := rfl
@[simp] theorem State.setLink_cores (s : State) (k : Nat) (l : Link) : (s.setLink k l).cores = s.cores := rfl
@[simp] theorem State.setLink_dies (s : State) (k : Nat) (l : Link) : (s.setLink k l).dies = s.dies := rfl
@[simp] theorem State.setLink_pkgs (s : State) (k : Nat) (l : Link) : (s.setLink k l).pkgs = s.pkgs := rfl
@[simp] theorem State.setLink_links (s : State) (k : Nat) (l : Link) : (s.setLink k l).links = aset s.links k l := rfl
@[simp] theorem State.setLink_dir (s : State) (k : Nat) (l : Link) : (s.setLink k l).dir = s.dir := rfl
@[simp] theorem State.setLink_hostAns (s : State) (k : Nat) (l : Link) : (s.setLink k l).hostAns = s.hostAns := rfl
@[simp] theorem State.setLink_tries (s : State) (k : Nat) (l : Link) : (s.setLink k l).tries = s.tries := rfl
@[simp] theorem State.setLink_dead (s : State) (k : Nat) (l : Link) : (s.setLink k l).dead = s.dead := rfl
@[simp] theorem State.setLink_lostPkgs (s : State) (k : Nat) (l : Link) : (s.setLink k l).lostPkgs = s.lostPkgs := rfl
@[simp] theorem State.setLink_parities (s : State) (k : Nat) (l : Link) : (s.setLink k l).parities = s.parities := rfl
@[simp] theorem State.setLink_nextId (s : State) (k : Nat) (l : Link) : (s.setLink k l).nextId = s.nextId := rfl
@[simp] theorem State.setLink_nextHandle (s : State) (k : Nat) (l : Link) : (s.setLink k l).nextHandle = s.nextHandle := rfl
@[simp] theorem State.setLink_freeN (s : State) (k : Nat) (l : Link) : (s.setLink k l).freeN = s.freeN := rfl
@[simp] theorem State.setLink_rr (s : State) (k : Nat) (l : Link) : (s.setLink k l).rr = s.rr := rfl
@[simp] theorem State.setLink_turns (s : State) (k : Nat) (l : Link) : (s.setLink k l).turns = s.turns := rfl
@[simp] theorem State.setLink_agenda (s : State) (k : Nat) (l : Link) : (s.setLink k l).agenda = s.agenda := rfl
@[simp] theorem State.setLink_cur (s : State) (k : Nat) (l : Link) : (s.setLink k l).cur = s.cur := rfl

@[simp] theorem State.setDir_podN (s : State) (k : Nat) (d : DirEnt) : (s.setDir k d).podN = s.podN := rfl
@[simp] theorem State.setDir_mem (s : State) (k : Nat) (d : DirEnt) : (s.setDir k d).mem = s.mem := rfl
@[simp] theorem State.setDir_warps (s : State) (k : Nat) (d : DirEnt) : (s.setDir k d).warps = s.warps := rfl
@[simp] theorem State.setDir_groups (s : State) (k : Nat) (d : DirEnt) : (s.setDir k d).groups = s.groups := rfl
@[simp] theorem State.setDir_launches (s : State) (k : Nat) (d : DirEnt) : (s.setDir k d).launches = s.launches := rfl
@[simp] theorem State.setDir_copies (s : State) (k : Nat) (d : DirEnt) : (s.setDir k d).copies = s.copies := rfl
@[simp] theorem State.setDir_engines (s : State) (k : Nat) (d : DirEnt) : (s.setDir k d).engines = s.engines := rfl
@[simp] theorem State.setDir_publs (s : State) (k : Nat) (d : DirEnt) : (s.setDir k d).publs = s.publs := rfl
@[simp] theorem State.setDir_ksums (s : State) (k : Nat) (d : DirEnt) : (s.setDir k d).ksums = s.ksums := rfl
@[simp] theorem State.setDir_postings (s : State) (k : Nat) (d : DirEnt) : (s.setDir k d).postings = s.postings := rfl
@[simp] theorem State.setDir_phases (s : State) (k : Nat) (d : DirEnt) : (s.setDir k d).phases = s.phases := rfl
@[simp] theorem State.setDir_cores (s : State) (k : Nat) (d : DirEnt) : (s.setDir k d).cores = s.cores := rfl
@[simp] theorem State.setDir_dies (s : State) (k : Nat) (d : DirEnt) : (s.setDir k d).dies = s.dies := rfl
@[simp] theorem State.setDir_pkgs (s : State) (k : Nat) (d : DirEnt) : (s.setDir k d).pkgs = s.pkgs := rfl
@[simp] theorem State.setDir_links (s : State) (k : Nat) (d : DirEnt) : (s.setDir k d).links = s.links := rfl
@[simp] theorem State.setDir_dir (s : State) (k : Nat) (d : DirEnt) : (s.setDir k d).dir = aset s.dir k d := rfl
@[simp] theorem State.setDir_hostAns (s : State) (k : Nat) (d : DirEnt) : (s.setDir k d).hostAns = s.hostAns := rfl
@[simp] theorem State.setDir_tries (s : State) (k : Nat) (d : DirEnt) : (s.setDir k d).tries = s.tries := rfl
@[simp] theorem State.setDir_dead (s : State) (k : Nat) (d : DirEnt) : (s.setDir k d).dead = s.dead := rfl
@[simp] theorem State.setDir_lostPkgs (s : State) (k : Nat) (d : DirEnt) : (s.setDir k d).lostPkgs = s.lostPkgs := rfl
@[simp] theorem State.setDir_parities (s : State) (k : Nat) (d : DirEnt) : (s.setDir k d).parities = s.parities := rfl
@[simp] theorem State.setDir_nextId (s : State) (k : Nat) (d : DirEnt) : (s.setDir k d).nextId = s.nextId := rfl
@[simp] theorem State.setDir_nextHandle (s : State) (k : Nat) (d : DirEnt) : (s.setDir k d).nextHandle = s.nextHandle := rfl
@[simp] theorem State.setDir_freeN (s : State) (k : Nat) (d : DirEnt) : (s.setDir k d).freeN = s.freeN := rfl
@[simp] theorem State.setDir_rr (s : State) (k : Nat) (d : DirEnt) : (s.setDir k d).rr = s.rr := rfl
@[simp] theorem State.setDir_turns (s : State) (k : Nat) (d : DirEnt) : (s.setDir k d).turns = s.turns := rfl
@[simp] theorem State.setDir_agenda (s : State) (k : Nat) (d : DirEnt) : (s.setDir k d).agenda = s.agenda := rfl
@[simp] theorem State.setDir_cur (s : State) (k : Nat) (d : DirEnt) : (s.setDir k d).cur = s.cur := rfl

@[simp] theorem State.setWarp_podN (s : State) (k : Nat) (w : Warp) : (s.setWarp k w).podN = s.podN := rfl
@[simp] theorem State.setWarp_mem (s : State) (k : Nat) (w : Warp) : (s.setWarp k w).mem = s.mem := rfl
@[simp] theorem State.setWarp_warps (s : State) (k : Nat) (w : Warp) : (s.setWarp k w).warps = aset s.warps k w := rfl
@[simp] theorem State.setWarp_groups (s : State) (k : Nat) (w : Warp) : (s.setWarp k w).groups = s.groups := rfl
@[simp] theorem State.setWarp_launches (s : State) (k : Nat) (w : Warp) : (s.setWarp k w).launches = s.launches := rfl
@[simp] theorem State.setWarp_copies (s : State) (k : Nat) (w : Warp) : (s.setWarp k w).copies = s.copies := rfl
@[simp] theorem State.setWarp_engines (s : State) (k : Nat) (w : Warp) : (s.setWarp k w).engines = s.engines := rfl
@[simp] theorem State.setWarp_publs (s : State) (k : Nat) (w : Warp) : (s.setWarp k w).publs = s.publs := rfl
@[simp] theorem State.setWarp_ksums (s : State) (k : Nat) (w : Warp) : (s.setWarp k w).ksums = s.ksums := rfl
@[simp] theorem State.setWarp_postings (s : State) (k : Nat) (w : Warp) : (s.setWarp k w).postings = s.postings := rfl
@[simp] theorem State.setWarp_phases (s : State) (k : Nat) (w : Warp) : (s.setWarp k w).phases = s.phases := rfl
@[simp] theorem State.setWarp_cores (s : State) (k : Nat) (w : Warp) : (s.setWarp k w).cores = s.cores := rfl
@[simp] theorem State.setWarp_dies (s : State) (k : Nat) (w : Warp) : (s.setWarp k w).dies = s.dies := rfl
@[simp] theorem State.setWarp_pkgs (s : State) (k : Nat) (w : Warp) : (s.setWarp k w).pkgs = s.pkgs := rfl
@[simp] theorem State.setWarp_links (s : State) (k : Nat) (w : Warp) : (s.setWarp k w).links = s.links := rfl
@[simp] theorem State.setWarp_dir (s : State) (k : Nat) (w : Warp) : (s.setWarp k w).dir = s.dir := rfl
@[simp] theorem State.setWarp_hostAns (s : State) (k : Nat) (w : Warp) : (s.setWarp k w).hostAns = s.hostAns := rfl
@[simp] theorem State.setWarp_tries (s : State) (k : Nat) (w : Warp) : (s.setWarp k w).tries = s.tries := rfl
@[simp] theorem State.setWarp_dead (s : State) (k : Nat) (w : Warp) : (s.setWarp k w).dead = s.dead := rfl
@[simp] theorem State.setWarp_lostPkgs (s : State) (k : Nat) (w : Warp) : (s.setWarp k w).lostPkgs = s.lostPkgs := rfl
@[simp] theorem State.setWarp_parities (s : State) (k : Nat) (w : Warp) : (s.setWarp k w).parities = s.parities := rfl
@[simp] theorem State.setWarp_nextId (s : State) (k : Nat) (w : Warp) : (s.setWarp k w).nextId = s.nextId := rfl
@[simp] theorem State.setWarp_nextHandle (s : State) (k : Nat) (w : Warp) : (s.setWarp k w).nextHandle = s.nextHandle := rfl
@[simp] theorem State.setWarp_freeN (s : State) (k : Nat) (w : Warp) : (s.setWarp k w).freeN = s.freeN := rfl
@[simp] theorem State.setWarp_rr (s : State) (k : Nat) (w : Warp) : (s.setWarp k w).rr = s.rr := rfl
@[simp] theorem State.setWarp_turns (s : State) (k : Nat) (w : Warp) : (s.setWarp k w).turns = s.turns := rfl
@[simp] theorem State.setWarp_agenda (s : State) (k : Nat) (w : Warp) : (s.setWarp k w).agenda = s.agenda := rfl
@[simp] theorem State.setWarp_cur (s : State) (k : Nat) (w : Warp) : (s.setWarp k w).cur = s.cur := rfl

@[simp] theorem State.setGroup_podN (s : State) (k : Nat) (g : Group) : (s.setGroup k g).podN = s.podN := rfl
@[simp] theorem State.setGroup_mem (s : State) (k : Nat) (g : Group) : (s.setGroup k g).mem = s.mem := rfl
@[simp] theorem State.setGroup_warps (s : State) (k : Nat) (g : Group) : (s.setGroup k g).warps = s.warps := rfl
@[simp] theorem State.setGroup_groups (s : State) (k : Nat) (g : Group) : (s.setGroup k g).groups = aset s.groups k g := rfl
@[simp] theorem State.setGroup_launches (s : State) (k : Nat) (g : Group) : (s.setGroup k g).launches = s.launches := rfl
@[simp] theorem State.setGroup_copies (s : State) (k : Nat) (g : Group) : (s.setGroup k g).copies = s.copies := rfl
@[simp] theorem State.setGroup_engines (s : State) (k : Nat) (g : Group) : (s.setGroup k g).engines = s.engines := rfl
@[simp] theorem State.setGroup_publs (s : State) (k : Nat) (g : Group) : (s.setGroup k g).publs = s.publs := rfl
@[simp] theorem State.setGroup_ksums (s : State) (k : Nat) (g : Group) : (s.setGroup k g).ksums = s.ksums := rfl
@[simp] theorem State.setGroup_postings (s : State) (k : Nat) (g : Group) : (s.setGroup k g).postings = s.postings := rfl
@[simp] theorem State.setGroup_phases (s : State) (k : Nat) (g : Group) : (s.setGroup k g).phases = s.phases := rfl
@[simp] theorem State.setGroup_cores (s : State) (k : Nat) (g : Group) : (s.setGroup k g).cores = s.cores := rfl
@[simp] theorem State.setGroup_dies (s : State) (k : Nat) (g : Group) : (s.setGroup k g).dies = s.dies := rfl
@[simp] theorem State.setGroup_pkgs (s : State) (k : Nat) (g : Group) : (s.setGroup k g).pkgs = s.pkgs := rfl
@[simp] theorem State.setGroup_links (s : State) (k : Nat) (g : Group) : (s.setGroup k g).links = s.links := rfl
@[simp] theorem State.setGroup_dir (s : State) (k : Nat) (g : Group) : (s.setGroup k g).dir = s.dir := rfl
@[simp] theorem State.setGroup_hostAns (s : State) (k : Nat) (g : Group) : (s.setGroup k g).hostAns = s.hostAns := rfl
@[simp] theorem State.setGroup_tries (s : State) (k : Nat) (g : Group) : (s.setGroup k g).tries = s.tries := rfl
@[simp] theorem State.setGroup_dead (s : State) (k : Nat) (g : Group) : (s.setGroup k g).dead = s.dead := rfl
@[simp] theorem State.setGroup_lostPkgs (s : State) (k : Nat) (g : Group) : (s.setGroup k g).lostPkgs = s.lostPkgs := rfl
@[simp] theorem State.setGroup_parities (s : State) (k : Nat) (g : Group) : (s.setGroup k g).parities = s.parities := rfl
@[simp] theorem State.setGroup_nextId (s : State) (k : Nat) (g : Group) : (s.setGroup k g).nextId = s.nextId := rfl
@[simp] theorem State.setGroup_nextHandle (s : State) (k : Nat) (g : Group) : (s.setGroup k g).nextHandle = s.nextHandle := rfl
@[simp] theorem State.setGroup_freeN (s : State) (k : Nat) (g : Group) : (s.setGroup k g).freeN = s.freeN := rfl
@[simp] theorem State.setGroup_rr (s : State) (k : Nat) (g : Group) : (s.setGroup k g).rr = s.rr := rfl
@[simp] theorem State.setGroup_turns (s : State) (k : Nat) (g : Group) : (s.setGroup k g).turns = s.turns := rfl
@[simp] theorem State.setGroup_agenda (s : State) (k : Nat) (g : Group) : (s.setGroup k g).agenda = s.agenda := rfl
@[simp] theorem State.setGroup_cur (s : State) (k : Nat) (g : Group) : (s.setGroup k g).cur = s.cur := rfl

@[simp] theorem State.setLaunch_podN (s : State) (k : Nat) (l : Launch) : (s.setLaunch k l).podN = s.podN := rfl
@[simp] theorem State.setLaunch_mem (s : State) (k : Nat) (l : Launch) : (s.setLaunch k l).mem = s.mem := rfl
@[simp] theorem State.setLaunch_warps (s : State) (k : Nat) (l : Launch) : (s.setLaunch k l).warps = s.warps := rfl
@[simp] theorem State.setLaunch_groups (s : State) (k : Nat) (l : Launch) : (s.setLaunch k l).groups = s.groups := rfl
@[simp] theorem State.setLaunch_launches (s : State) (k : Nat) (l : Launch) : (s.setLaunch k l).launches = aset s.launches k l := rfl
@[simp] theorem State.setLaunch_copies (s : State) (k : Nat) (l : Launch) : (s.setLaunch k l).copies = s.copies := rfl
@[simp] theorem State.setLaunch_engines (s : State) (k : Nat) (l : Launch) : (s.setLaunch k l).engines = s.engines := rfl
@[simp] theorem State.setLaunch_publs (s : State) (k : Nat) (l : Launch) : (s.setLaunch k l).publs = s.publs := rfl
@[simp] theorem State.setLaunch_ksums (s : State) (k : Nat) (l : Launch) : (s.setLaunch k l).ksums = s.ksums := rfl
@[simp] theorem State.setLaunch_postings (s : State) (k : Nat) (l : Launch) : (s.setLaunch k l).postings = s.postings := rfl
@[simp] theorem State.setLaunch_phases (s : State) (k : Nat) (l : Launch) : (s.setLaunch k l).phases = s.phases := rfl
@[simp] theorem State.setLaunch_cores (s : State) (k : Nat) (l : Launch) : (s.setLaunch k l).cores = s.cores := rfl
@[simp] theorem State.setLaunch_dies (s : State) (k : Nat) (l : Launch) : (s.setLaunch k l).dies = s.dies := rfl
@[simp] theorem State.setLaunch_pkgs (s : State) (k : Nat) (l : Launch) : (s.setLaunch k l).pkgs = s.pkgs := rfl
@[simp] theorem State.setLaunch_links (s : State) (k : Nat) (l : Launch) : (s.setLaunch k l).links = s.links := rfl
@[simp] theorem State.setLaunch_dir (s : State) (k : Nat) (l : Launch) : (s.setLaunch k l).dir = s.dir := rfl
@[simp] theorem State.setLaunch_hostAns (s : State) (k : Nat) (l : Launch) : (s.setLaunch k l).hostAns = s.hostAns := rfl
@[simp] theorem State.setLaunch_tries (s : State) (k : Nat) (l : Launch) : (s.setLaunch k l).tries = s.tries := rfl
@[simp] theorem State.setLaunch_dead (s : State) (k : Nat) (l : Launch) : (s.setLaunch k l).dead = s.dead := rfl
@[simp] theorem State.setLaunch_lostPkgs (s : State) (k : Nat) (l : Launch) : (s.setLaunch k l).lostPkgs = s.lostPkgs := rfl
@[simp] theorem State.setLaunch_parities (s : State) (k : Nat) (l : Launch) : (s.setLaunch k l).parities = s.parities := rfl
@[simp] theorem State.setLaunch_nextId (s : State) (k : Nat) (l : Launch) : (s.setLaunch k l).nextId = s.nextId := rfl
@[simp] theorem State.setLaunch_nextHandle (s : State) (k : Nat) (l : Launch) : (s.setLaunch k l).nextHandle = s.nextHandle := rfl
@[simp] theorem State.setLaunch_freeN (s : State) (k : Nat) (l : Launch) : (s.setLaunch k l).freeN = s.freeN := rfl
@[simp] theorem State.setLaunch_rr (s : State) (k : Nat) (l : Launch) : (s.setLaunch k l).rr = s.rr := rfl
@[simp] theorem State.setLaunch_turns (s : State) (k : Nat) (l : Launch) : (s.setLaunch k l).turns = s.turns := rfl
@[simp] theorem State.setLaunch_agenda (s : State) (k : Nat) (l : Launch) : (s.setLaunch k l).agenda = s.agenda := rfl
@[simp] theorem State.setLaunch_cur (s : State) (k : Nat) (l : Launch) : (s.setLaunch k l).cur = s.cur := rfl

@[simp] theorem State.modWarp_podN (s : State) (k : Nat) (g : Warp → Warp) : (s.modWarp k g).podN = s.podN := rfl
@[simp] theorem State.modWarp_mem (s : State) (k : Nat) (g : Warp → Warp) : (s.modWarp k g).mem = s.mem := rfl
@[simp] theorem State.modWarp_warps (s : State) (k : Nat) (g : Warp → Warp) : (s.modWarp k g).warps = amod s.warps k g := rfl
@[simp] theorem State.modWarp_groups (s : State) (k : Nat) (g : Warp → Warp) : (s.modWarp k g).groups = s.groups := rfl
@[simp] theorem State.modWarp_launches (s : State) (k : Nat) (g : Warp → Warp) : (s.modWarp k g).launches = s.launches := rfl
@[simp] theorem State.modWarp_copies (s : State) (k : Nat) (g : Warp → Warp) : (s.modWarp k g).copies = s.copies := rfl
@[simp] theorem State.modWarp_engines (s : State) (k : Nat) (g : Warp → Warp) : (s.modWarp k g).engines = s.engines := rfl
@[simp] theorem State.modWarp_publs (s : State) (k : Nat) (g : Warp → Warp) : (s.modWarp k g).publs = s.publs := rfl
@[simp] theorem State.modWarp_ksums (s : State) (k : Nat) (g : Warp → Warp) : (s.modWarp k g).ksums = s.ksums := rfl
@[simp] theorem State.modWarp_postings (s : State) (k : Nat) (g : Warp → Warp) : (s.modWarp k g).postings = s.postings := rfl
@[simp] theorem State.modWarp_phases (s : State) (k : Nat) (g : Warp → Warp) : (s.modWarp k g).phases = s.phases := rfl
@[simp] theorem State.modWarp_cores (s : State) (k : Nat) (g : Warp → Warp) : (s.modWarp k g).cores = s.cores := rfl
@[simp] theorem State.modWarp_dies (s : State) (k : Nat) (g : Warp → Warp) : (s.modWarp k g).dies = s.dies := rfl
@[simp] theorem State.modWarp_pkgs (s : State) (k : Nat) (g : Warp → Warp) : (s.modWarp k g).pkgs = s.pkgs := rfl
@[simp] theorem State.modWarp_links (s : State) (k : Nat) (g : Warp → Warp) : (s.modWarp k g).links = s.links := rfl
@[simp] theorem State.modWarp_dir (s : State) (k : Nat) (g : Warp → Warp) : (s.modWarp k g).dir = s.dir := rfl
@[simp] theorem State.modWarp_hostAns (s : State) (k : Nat) (g : Warp → Warp) : (s.modWarp k g).hostAns = s.hostAns := rfl
@[simp] theorem State.modWarp_tries (s : State) (k : Nat) (g : Warp → Warp) : (s.modWarp k g).tries = s.tries := rfl
@[simp] theorem State.modWarp_dead (s : State) (k : Nat) (g : Warp → Warp) : (s.modWarp k g).dead = s.dead := rfl
@[simp] theorem State.modWarp_lostPkgs (s : State) (k : Nat) (g : Warp → Warp) : (s.modWarp k g).lostPkgs = s.lostPkgs := rfl
@[simp] theorem State.modWarp_parities (s : State) (k : Nat) (g : Warp → Warp) : (s.modWarp k g).parities = s.parities := rfl
@[simp] theorem State.modWarp_nextId (s : State) (k : Nat) (g : Warp → Warp) : (s.modWarp k g).nextId = s.nextId := rfl
@[simp] theorem State.modWarp_nextHandle (s : State) (k : Nat) (g : Warp → Warp) : (s.modWarp k g).nextHandle = s.nextHandle := rfl
@[simp] theorem State.modWarp_freeN (s : State) (k : Nat) (g : Warp → Warp) : (s.modWarp k g).freeN = s.freeN := rfl
@[simp] theorem State.modWarp_rr (s : State) (k : Nat) (g : Warp → Warp) : (s.modWarp k g).rr = s.rr := rfl
@[simp] theorem State.modWarp_turns (s : State) (k : Nat) (g : Warp → Warp) : (s.modWarp k g).turns = s.turns := rfl
@[simp] theorem State.modWarp_agenda (s : State) (k : Nat) (g : Warp → Warp) : (s.modWarp k g).agenda = s.agenda := rfl
@[simp] theorem State.modWarp_cur (s : State) (k : Nat) (g : Warp → Warp) : (s.modWarp k g).cur = s.cur := rfl

@[simp] theorem State.modGroup_podN (s : State) (k : Nat) (g : Group → Group) : (s.modGroup k g).podN = s.podN := rfl
@[simp] theorem State.modGroup_mem (s : State) (k : Nat) (g : Group → Group) : (s.modGroup k g).mem = s.mem := rfl
@[simp] theorem State.modGroup_warps (s : State) (k : Nat) (g : Group → Group) : (s.modGroup k g).warps = s.warps := rfl
@[simp] theorem State.modGroup_groups (s : State) (k : Nat) (g : Group → Group) : (s.modGroup k g).groups = amod s.groups k g := rfl
@[simp] theorem State.modGroup_launches (s : State) (k : Nat) (g : Group → Group) : (s.modGroup k g).launches = s.launches := rfl
@[simp] theorem State.modGroup_copies (s : State) (k : Nat) (g : Group → Group) : (s.modGroup k g).copies = s.copies := rfl
@[simp] theorem State.modGroup_engines (s : State) (k : Nat) (g : Group → Group) : (s.modGroup k g).engines = s.engines := rfl
@[simp] theorem State.modGroup_publs (s : State) (k : Nat) (g : Group → Group) : (s.modGroup k g).publs = s.publs := rfl
@[simp] theorem State.modGroup_ksums (s : State) (k : Nat) (g : Group → Group) : (s.modGroup k g).ksums = s.ksums := rfl
@[simp] theorem State.modGroup_postings (s : State) (k : Nat) (g : Group → Group) : (s.modGroup k g).postings = s.postings := rfl
@[simp] theorem State.modGroup_phases (s : State) (k : Nat) (g : Group → Group) : (s.modGroup k g).phases = s.phases := rfl
@[simp] theorem State.modGroup_cores (s : State) (k : Nat) (g : Group → Group) : (s.modGroup k g).cores = s.cores := rfl
@[simp] theorem State.modGroup_dies (s : State) (k : Nat) (g : Group → Group) : (s.modGroup k g).dies = s.dies := rfl
@[simp] theorem State.modGroup_pkgs (s : State) (k : Nat) (g : Group → Group) : (s.modGroup k g).pkgs = s.pkgs := rfl
@[simp] theorem State.modGroup_links (s : State) (k : Nat) (g : Group → Group) : (s.modGroup k g).links = s.links := rfl
@[simp] theorem State.modGroup_dir (s : State) (k : Nat) (g : Group → Group) : (s.modGroup k g).dir = s.dir := rfl
@[simp] theorem State.modGroup_hostAns (s : State) (k : Nat) (g : Group → Group) : (s.modGroup k g).hostAns = s.hostAns := rfl
@[simp] theorem State.modGroup_tries (s : State) (k : Nat) (g : Group → Group) : (s.modGroup k g).tries = s.tries := rfl
@[simp] theorem State.modGroup_dead (s : State) (k : Nat) (g : Group → Group) : (s.modGroup k g).dead = s.dead := rfl
@[simp] theorem State.modGroup_lostPkgs (s : State) (k : Nat) (g : Group → Group) : (s.modGroup k g).lostPkgs = s.lostPkgs := rfl
@[simp] theorem State.modGroup_parities (s : State) (k : Nat) (g : Group → Group) : (s.modGroup k g).parities = s.parities := rfl
@[simp] theorem State.modGroup_nextId (s : State) (k : Nat) (g : Group → Group) : (s.modGroup k g).nextId = s.nextId := rfl
@[simp] theorem State.modGroup_nextHandle (s : State) (k : Nat) (g : Group → Group) : (s.modGroup k g).nextHandle = s.nextHandle := rfl
@[simp] theorem State.modGroup_freeN (s : State) (k : Nat) (g : Group → Group) : (s.modGroup k g).freeN = s.freeN := rfl
@[simp] theorem State.modGroup_rr (s : State) (k : Nat) (g : Group → Group) : (s.modGroup k g).rr = s.rr := rfl
@[simp] theorem State.modGroup_turns (s : State) (k : Nat) (g : Group → Group) : (s.modGroup k g).turns = s.turns := rfl
@[simp] theorem State.modGroup_agenda (s : State) (k : Nat) (g : Group → Group) : (s.modGroup k g).agenda = s.agenda := rfl
@[simp] theorem State.modGroup_cur (s : State) (k : Nat) (g : Group → Group) : (s.modGroup k g).cur = s.cur := rfl

@[simp] theorem State.modLaunch_podN (s : State) (k : Nat) (g : Launch → Launch) : (s.modLaunch k g).podN = s.podN := rfl
@[simp] theorem State.modLaunch_mem (s : State) (k : Nat) (g : Launch → Launch) : (s.modLaunch k g).mem = s.mem := rfl
@[simp] theorem State.modLaunch_warps (s : State) (k : Nat) (g : Launch → Launch) : (s.modLaunch k g).warps = s.warps := rfl
@[simp] theorem State.modLaunch_groups (s : State) (k : Nat) (g : Launch → Launch) : (s.modLaunch k g).groups = s.groups := rfl
@[simp] theorem State.modLaunch_launches (s : State) (k : Nat) (g : Launch → Launch) : (s.modLaunch k g).launches = amod s.launches k g := rfl
@[simp] theorem State.modLaunch_copies (s : State) (k : Nat) (g : Launch → Launch) : (s.modLaunch k g).copies = s.copies := rfl
@[simp] theorem State.modLaunch_engines (s : State) (k : Nat) (g : Launch → Launch) : (s.modLaunch k g).engines = s.engines := rfl
@[simp] theorem State.modLaunch_publs (s : State) (k : Nat) (g : Launch → Launch) : (s.modLaunch k g).publs = s.publs := rfl
@[simp] theorem State.modLaunch_ksums (s : State) (k : Nat) (g : Launch → Launch) : (s.modLaunch k g).ksums = s.ksums := rfl
@[simp] theorem State.modLaunch_postings (s : State) (k : Nat) (g : Launch → Launch) : (s.modLaunch k g).postings = s.postings := rfl
@[simp] theorem State.modLaunch_phases (s : State) (k : Nat) (g : Launch → Launch) : (s.modLaunch k g).phases = s.phases := rfl
@[simp] theorem State.modLaunch_cores (s : State) (k : Nat) (g : Launch → Launch) : (s.modLaunch k g).cores = s.cores := rfl
@[simp] theorem State.modLaunch_dies (s : State) (k : Nat) (g : Launch → Launch) : (s.modLaunch k g).dies = s.dies := rfl
@[simp] theorem State.modLaunch_pkgs (s : State) (k : Nat) (g : Launch → Launch) : (s.modLaunch k g).pkgs = s.pkgs := rfl
@[simp] theorem State.modLaunch_links (s : State) (k : Nat) (g : Launch → Launch) : (s.modLaunch k g).links = s.links := rfl
@[simp] theorem State.modLaunch_dir (s : State) (k : Nat) (g : Launch → Launch) : (s.modLaunch k g).dir = s.dir := rfl
@[simp] theorem State.modLaunch_hostAns (s : State) (k : Nat) (g : Launch → Launch) : (s.modLaunch k g).hostAns = s.hostAns := rfl
@[simp] theorem State.modLaunch_tries (s : State) (k : Nat) (g : Launch → Launch) : (s.modLaunch k g).tries = s.tries := rfl
@[simp] theorem State.modLaunch_dead (s : State) (k : Nat) (g : Launch → Launch) : (s.modLaunch k g).dead = s.dead := rfl
@[simp] theorem State.modLaunch_lostPkgs (s : State) (k : Nat) (g : Launch → Launch) : (s.modLaunch k g).lostPkgs = s.lostPkgs := rfl
@[simp] theorem State.modLaunch_parities (s : State) (k : Nat) (g : Launch → Launch) : (s.modLaunch k g).parities = s.parities := rfl
@[simp] theorem State.modLaunch_nextId (s : State) (k : Nat) (g : Launch → Launch) : (s.modLaunch k g).nextId = s.nextId := rfl
@[simp] theorem State.modLaunch_nextHandle (s : State) (k : Nat) (g : Launch → Launch) : (s.modLaunch k g).nextHandle = s.nextHandle := rfl
@[simp] theorem State.modLaunch_freeN (s : State) (k : Nat) (g : Launch → Launch) : (s.modLaunch k g).freeN = s.freeN := rfl
@[simp] theorem State.modLaunch_rr (s : State) (k : Nat) (g : Launch → Launch) : (s.modLaunch k g).rr = s.rr := rfl
@[simp] theorem State.modLaunch_turns (s : State) (k : Nat) (g : Launch → Launch) : (s.modLaunch k g).turns = s.turns := rfl
@[simp] theorem State.modLaunch_agenda (s : State) (k : Nat) (g : Launch → Launch) : (s.modLaunch k g).agenda = s.agenda := rfl
@[simp] theorem State.modLaunch_cur (s : State) (k : Nat) (g : Launch → Launch) : (s.modLaunch k g).cur = s.cur := rfl

@[simp] theorem State.modCore_eq (s : State) (k : Nat) (g : Core → Core) : s.modCore k g = s.setCore k (g (s.core k)) := rfl
@[simp] theorem State.modDie_eq (s : State) (k : Nat) (g : Die → Die) : s.modDie k g = s.setDie k (g (s.die k)) := rfl
@[simp] theorem State.modPkg_eq (s : State) (k : Nat) (g : Pkg → Pkg) : s.modPkg k g = s.setPkg k (g (s.pkg k)) := rfl
@[simp] theorem State.modLink_eq (s : State) (k : Nat) (g : Link → Link) : s.modLink k g = s.setLink k (g (s.link k)) := rfl
@[simp] theorem State.modDir_eq (s : State) (k : Nat) (g : DirEnt → DirEnt) : s.modDir k g = s.setDir k (g (s.dirEnt k)) := rfl

@[simp] theorem State.write_podN (s : State) (ws : List (Nat × Byte)) : (s.write ws).podN = s.podN := rfl
@[simp] theorem State.write_mem (s : State) (ws : List (Nat × Byte)) : (s.write ws).mem = memSetAll s.mem ws := rfl
@[simp] theorem State.write_warps (s : State) (ws : List (Nat × Byte)) : (s.write ws).warps = s.warps := rfl
@[simp] theorem State.write_groups (s : State) (ws : List (Nat × Byte)) : (s.write ws).groups = s.groups := rfl
@[simp] theorem State.write_launches (s : State) (ws : List (Nat × Byte)) : (s.write ws).launches = s.launches := rfl
@[simp] theorem State.write_copies (s : State) (ws : List (Nat × Byte)) : (s.write ws).copies = s.copies := rfl
@[simp] theorem State.write_engines (s : State) (ws : List (Nat × Byte)) : (s.write ws).engines = s.engines := rfl
@[simp] theorem State.write_publs (s : State) (ws : List (Nat × Byte)) : (s.write ws).publs = s.publs := rfl
@[simp] theorem State.write_ksums (s : State) (ws : List (Nat × Byte)) : (s.write ws).ksums = s.ksums := rfl
@[simp] theorem State.write_postings (s : State) (ws : List (Nat × Byte)) : (s.write ws).postings = s.postings := rfl
@[simp] theorem State.write_phases (s : State) (ws : List (Nat × Byte)) : (s.write ws).phases = s.phases := rfl
@[simp] theorem State.write_cores (s : State) (ws : List (Nat × Byte)) : (s.write ws).cores = s.cores := rfl
@[simp] theorem State.write_dies (s : State) (ws : List (Nat × Byte)) : (s.write ws).dies = s.dies := rfl
@[simp] theorem State.write_pkgs (s : State) (ws : List (Nat × Byte)) : (s.write ws).pkgs = s.pkgs := rfl
@[simp] theorem State.write_links (s : State) (ws : List (Nat × Byte)) : (s.write ws).links = s.links := rfl
@[simp] theorem State.write_dir (s : State) (ws : List (Nat × Byte)) : (s.write ws).dir = s.dir := rfl
@[simp] theorem State.write_hostAns (s : State) (ws : List (Nat × Byte)) : (s.write ws).hostAns = s.hostAns := rfl
@[simp] theorem State.write_tries (s : State) (ws : List (Nat × Byte)) : (s.write ws).tries = s.tries := rfl
@[simp] theorem State.write_dead (s : State) (ws : List (Nat × Byte)) : (s.write ws).dead = s.dead := rfl
@[simp] theorem State.write_lostPkgs (s : State) (ws : List (Nat × Byte)) : (s.write ws).lostPkgs = s.lostPkgs := rfl
@[simp] theorem State.write_parities (s : State) (ws : List (Nat × Byte)) : (s.write ws).parities = s.parities := rfl
@[simp] theorem State.write_nextId (s : State) (ws : List (Nat × Byte)) : (s.write ws).nextId = s.nextId := rfl
@[simp] theorem State.write_nextHandle (s : State) (ws : List (Nat × Byte)) : (s.write ws).nextHandle = s.nextHandle := rfl
@[simp] theorem State.write_freeN (s : State) (ws : List (Nat × Byte)) : (s.write ws).freeN = s.freeN := rfl
@[simp] theorem State.write_rr (s : State) (ws : List (Nat × Byte)) : (s.write ws).rr = s.rr := rfl
@[simp] theorem State.write_turns (s : State) (ws : List (Nat × Byte)) : (s.write ws).turns = s.turns := rfl
@[simp] theorem State.write_agenda (s : State) (ws : List (Nat × Byte)) : (s.write ws).agenda = s.agenda := rfl
@[simp] theorem State.write_cur (s : State) (ws : List (Nat × Byte)) : (s.write ws).cur = s.cur := rfl

@[simp] theorem State.occurs_podN (s : State) (core level src : Nat) (skip : Option Nat) : (s.occurs core level src skip).podN = s.podN := rfl
@[simp] theorem State.occurs_mem (s : State) (core level src : Nat) (skip : Option Nat) : (s.occurs core level src skip).mem = s.mem := rfl
@[simp] theorem State.occurs_warps (s : State) (core level src : Nat) (skip : Option Nat) : (s.occurs core level src skip).warps = s.warps := rfl
@[simp] theorem State.occurs_groups (s : State) (core level src : Nat) (skip : Option Nat) : (s.occurs core level src skip).groups = s.groups := rfl
@[simp] theorem State.occurs_launches (s : State) (core level src : Nat) (skip : Option Nat) : (s.occurs core level src skip).launches = s.launches := rfl
@[simp] theorem State.occurs_copies (s : State) (core level src : Nat) (skip : Option Nat) : (s.occurs core level src skip).copies = s.copies := rfl
@[simp] theorem State.occurs_engines (s : State) (core level src : Nat) (skip : Option Nat) : (s.occurs core level src skip).engines = s.engines := rfl
@[simp] theorem State.occurs_publs (s : State) (core level src : Nat) (skip : Option Nat) : (s.occurs core level src skip).publs = s.publs := rfl
@[simp] theorem State.occurs_ksums (s : State) (core level src : Nat) (skip : Option Nat) : (s.occurs core level src skip).ksums = s.ksums := rfl
@[simp] theorem State.occurs_postings (s : State) (core level src : Nat) (skip : Option Nat) : (s.occurs core level src skip).postings = s.postings := rfl
@[simp] theorem State.occurs_phases (s : State) (core level src : Nat) (skip : Option Nat) : (s.occurs core level src skip).phases = s.phases := rfl
@[simp] theorem State.occurs_cores (s : State) (core level src : Nat) (skip : Option Nat) : (s.occurs core level src skip).cores = s.cores := rfl
@[simp] theorem State.occurs_dies (s : State) (core level src : Nat) (skip : Option Nat) : (s.occurs core level src skip).dies = s.dies := rfl
@[simp] theorem State.occurs_pkgs (s : State) (core level src : Nat) (skip : Option Nat) : (s.occurs core level src skip).pkgs = s.pkgs := rfl
@[simp] theorem State.occurs_links (s : State) (core level src : Nat) (skip : Option Nat) : (s.occurs core level src skip).links = s.links := rfl
@[simp] theorem State.occurs_dir (s : State) (core level src : Nat) (skip : Option Nat) : (s.occurs core level src skip).dir = s.dir := rfl
@[simp] theorem State.occurs_hostAns (s : State) (core level src : Nat) (skip : Option Nat) : (s.occurs core level src skip).hostAns = s.hostAns := rfl
@[simp] theorem State.occurs_tries (s : State) (core level src : Nat) (skip : Option Nat) : (s.occurs core level src skip).tries = s.tries := rfl
@[simp] theorem State.occurs_dead (s : State) (core level src : Nat) (skip : Option Nat) : (s.occurs core level src skip).dead = s.dead := rfl
@[simp] theorem State.occurs_lostPkgs (s : State) (core level src : Nat) (skip : Option Nat) : (s.occurs core level src skip).lostPkgs = s.lostPkgs := rfl
@[simp] theorem State.occurs_parities (s : State) (core level src : Nat) (skip : Option Nat) : (s.occurs core level src skip).parities = s.parities := rfl
@[simp] theorem State.occurs_nextId (s : State) (core level src : Nat) (skip : Option Nat) : (s.occurs core level src skip).nextId = s.nextId := rfl
@[simp] theorem State.occurs_nextHandle (s : State) (core level src : Nat) (skip : Option Nat) : (s.occurs core level src skip).nextHandle = s.nextHandle := rfl
@[simp] theorem State.occurs_freeN (s : State) (core level src : Nat) (skip : Option Nat) : (s.occurs core level src skip).freeN = s.freeN := rfl
@[simp] theorem State.occurs_rr (s : State) (core level src : Nat) (skip : Option Nat) : (s.occurs core level src skip).rr = s.rr := rfl
@[simp] theorem State.occurs_turns (s : State) (core level src : Nat) (skip : Option Nat) : (s.occurs core level src skip).turns = s.turns := rfl
@[simp] theorem State.occurs_cur (s : State) (core level src : Nat) (skip : Option Nat) : (s.occurs core level src skip).cur = s.cur := rfl

@[simp] theorem State.enqueue_podN (s : State) (die : Nat) (p : Post) : (s.enqueue die p).podN = s.podN := rfl
@[simp] theorem State.enqueue_mem (s : State) (die : Nat) (p : Post) : (s.enqueue die p).mem = s.mem := rfl
@[simp] theorem State.enqueue_warps (s : State) (die : Nat) (p : Post) : (s.enqueue die p).warps = s.warps := rfl
@[simp] theorem State.enqueue_groups (s : State) (die : Nat) (p : Post) : (s.enqueue die p).groups = s.groups := rfl
@[simp] theorem State.enqueue_launches (s : State) (die : Nat) (p : Post) : (s.enqueue die p).launches = s.launches := rfl
@[simp] theorem State.enqueue_copies (s : State) (die : Nat) (p : Post) : (s.enqueue die p).copies = s.copies := rfl
@[simp] theorem State.enqueue_engines (s : State) (die : Nat) (p : Post) : (s.enqueue die p).engines = s.engines := rfl
@[simp] theorem State.enqueue_publs (s : State) (die : Nat) (p : Post) : (s.enqueue die p).publs = s.publs := rfl
@[simp] theorem State.enqueue_ksums (s : State) (die : Nat) (p : Post) : (s.enqueue die p).ksums = s.ksums := rfl
@[simp] theorem State.enqueue_postings (s : State) (die : Nat) (p : Post) : (s.enqueue die p).postings = s.postings := rfl
@[simp] theorem State.enqueue_phases (s : State) (die : Nat) (p : Post) : (s.enqueue die p).phases = s.phases := rfl
@[simp] theorem State.enqueue_cores (s : State) (die : Nat) (p : Post) : (s.enqueue die p).cores = s.cores := rfl
@[simp] theorem State.enqueue_dies (s : State) (die : Nat) (p : Post) : (s.enqueue die p).dies =
    aset s.dies die { s.die die with postq := (s.die die).postq ++ [p] } := rfl
@[simp] theorem State.enqueue_pkgs (s : State) (die : Nat) (p : Post) : (s.enqueue die p).pkgs = s.pkgs := rfl
@[simp] theorem State.enqueue_links (s : State) (die : Nat) (p : Post) : (s.enqueue die p).links = s.links := rfl
@[simp] theorem State.enqueue_dir (s : State) (die : Nat) (p : Post) : (s.enqueue die p).dir = s.dir := rfl
@[simp] theorem State.enqueue_hostAns (s : State) (die : Nat) (p : Post) : (s.enqueue die p).hostAns = s.hostAns := rfl
@[simp] theorem State.enqueue_tries (s : State) (die : Nat) (p : Post) : (s.enqueue die p).tries = s.tries := rfl
@[simp] theorem State.enqueue_dead (s : State) (die : Nat) (p : Post) : (s.enqueue die p).dead = s.dead := rfl
@[simp] theorem State.enqueue_lostPkgs (s : State) (die : Nat) (p : Post) : (s.enqueue die p).lostPkgs = s.lostPkgs := rfl
@[simp] theorem State.enqueue_parities (s : State) (die : Nat) (p : Post) : (s.enqueue die p).parities = s.parities := rfl
@[simp] theorem State.enqueue_nextId (s : State) (die : Nat) (p : Post) : (s.enqueue die p).nextId = s.nextId := rfl
@[simp] theorem State.enqueue_nextHandle (s : State) (die : Nat) (p : Post) : (s.enqueue die p).nextHandle = s.nextHandle := rfl
@[simp] theorem State.enqueue_freeN (s : State) (die : Nat) (p : Post) : (s.enqueue die p).freeN = s.freeN := rfl
@[simp] theorem State.enqueue_rr (s : State) (die : Nat) (p : Post) : (s.enqueue die p).rr = s.rr := rfl
@[simp] theorem State.enqueue_turns (s : State) (die : Nat) (p : Post) : (s.enqueue die p).turns = s.turns := rfl
@[simp] theorem State.enqueue_agenda (s : State) (die : Nat) (p : Post) : (s.enqueue die p).agenda = s.agenda := rfl
@[simp] theorem State.enqueue_cur (s : State) (die : Nat) (p : Post) : (s.enqueue die p).cur = s.cur := rfl

/-! ### Warps -/

@[simp] theorem Warp.updLanes_kind (w : Warp) (m : LaneMask) (g : Nat → Lane → Lane) : (w.updLanes m g).kind = w.kind := rfl
@[simp] theorem Warp.updLanes_gid (w : Warp) (m : LaneMask) (g : Nat → Lane → Lane) : (w.updLanes m g).gid = w.gid := rfl
@[simp] theorem Warp.updLanes_wg (w : Warp) (m : LaneMask) (g : Nat → Lane → Lane) : (w.updLanes m g).wg = w.wg := rfl
@[simp] theorem Warp.updLanes_wid (w : Warp) (m : LaneMask) (g : Nat → Lane → Lane) : (w.updLanes m g).wid = w.wid := rfl
@[simp] theorem Warp.updLanes_role (w : Warp) (m : LaneMask) (g : Nat → Lane → Lane) : (w.updLanes m g).role = w.role := rfl
@[simp] theorem Warp.updLanes_core (w : Warp) (m : LaneMask) (g : Nat → Lane → Lane) : (w.updLanes m g).core = w.core := rfl
@[simp] theorem Warp.updLanes_slot (w : Warp) (m : LaneMask) (g : Nat → Lane → Lane) : (w.updLanes m g).slot = w.slot := rfl
@[simp] theorem Warp.updLanes_vregs (w : Warp) (m : LaneMask) (g : Nat → Lane → Lane) : (w.updLanes m g).vregs = w.vregs := rfl
@[simp] theorem Warp.updLanes_uregs (w : Warp) (m : LaneMask) (g : Nat → Lane → Lane) : (w.updLanes m g).uregs = w.uregs := rfl
@[simp] theorem Warp.updLanes_preds (w : Warp) (m : LaneMask) (g : Nat → Lane → Lane) : (w.updLanes m g).preds = w.preds := rfl
@[simp] theorem Warp.updLanes_bound (w : Warp) (m : LaneMask) (g : Nat → Lane → Lane) : (w.updLanes m g).bound = w.bound := rfl
@[simp] theorem Warp.updLanes_fstat (w : Warp) (m : LaneMask) (g : Nat → Lane → Lane) : (w.updLanes m g).fstat = w.fstat := rfl
@[simp] theorem Warp.updLanes_clk (w : Warp) (m : LaneMask) (g : Nat → Lane → Lane) : (w.updLanes m g).clk = w.clk := rfl
@[simp] theorem Warp.updLanes_dly (w : Warp) (m : LaneMask) (g : Nat → Lane → Lane) : (w.updLanes m g).dly = w.dly := rfl
@[simp] theorem Warp.updLanes_swPark (w : Warp) (m : LaneMask) (g : Nat → Lane → Lane) : (w.updLanes m g).swPark = w.swPark := rfl
@[simp] theorem Warp.updLanes_recent (w : Warp) (m : LaneMask) (g : Nat → Lane → Lane) : (w.updLanes m g).recent = w.recent := rfl
@[simp] theorem Warp.updLanes_flights (w : Warp) (m : LaneMask) (g : Nat → Lane → Lane) : (w.updLanes m g).flights = w.flights := rfl
@[simp] theorem Warp.updLanes_pair (w : Warp) (m : LaneMask) (g : Nat → Lane → Lane) : (w.updLanes m g).pair = w.pair := rfl
@[simp] theorem Warp.updLanes_starve (w : Warp) (m : LaneMask) (g : Nat → Lane → Lane) : (w.updLanes m g).starve = w.starve := rfl
@[simp] theorem Warp.updLanes_first (w : Warp) (m : LaneMask) (g : Nat → Lane → Lane) : (w.updLanes m g).first = w.first := rfl
@[simp] theorem Warp.updLanes_replay (w : Warp) (m : LaneMask) (g : Nat → Lane → Lane) : (w.updLanes m g).replay = w.replay := rfl
@[simp] theorem Warp.updLanes_drawn (w : Warp) (m : LaneMask) (g : Nat → Lane → Lane) : (w.updLanes m g).drawn = w.drawn := rfl
@[simp] theorem Warp.updLanes_handler (w : Warp) (m : LaneMask) (g : Nat → Lane → Lane) : (w.updLanes m g).handler = w.handler := rfl
@[simp] theorem Warp.updLanes_asks (w : Warp) (m : LaneMask) (g : Nat → Lane → Lane) : (w.updLanes m g).asks = w.asks := rfl
@[simp] theorem Warp.updLanes_pendingFault (w : Warp) (m : LaneMask) (g : Nat → Lane → Lane) : (w.updLanes m g).pendingFault = w.pendingFault := rfl
@[simp] theorem Warp.updLanes_owes (w : Warp) (m : LaneMask) (g : Nat → Lane → Lane) : (w.updLanes m g).owes = w.owes := rfl
@[simp] theorem Warp.updLanes_away (w : Warp) (m : LaneMask) (g : Nat → Lane → Lane) : (w.updLanes m g).away = w.away := rfl
@[simp] theorem Warp.updLanes_goal (w : Warp) (m : LaneMask) (g : Nat → Lane → Lane) : (w.updLanes m g).goal = w.goal := rfl
@[simp] theorem Warp.updLanes_ctx (w : Warp) (m : LaneMask) (g : Nat → Lane → Lane) : (w.updLanes m g).ctx = w.ctx := rfl

@[simp] theorem Warp.advance_kind (w : Warp) (m : LaneMask) : (w.advance m).kind = w.kind := rfl
@[simp] theorem Warp.advance_gid (w : Warp) (m : LaneMask) : (w.advance m).gid = w.gid := rfl
@[simp] theorem Warp.advance_wg (w : Warp) (m : LaneMask) : (w.advance m).wg = w.wg := rfl
@[simp] theorem Warp.advance_wid (w : Warp) (m : LaneMask) : (w.advance m).wid = w.wid := rfl
@[simp] theorem Warp.advance_role (w : Warp) (m : LaneMask) : (w.advance m).role = w.role := rfl
@[simp] theorem Warp.advance_core (w : Warp) (m : LaneMask) : (w.advance m).core = w.core := rfl
@[simp] theorem Warp.advance_slot (w : Warp) (m : LaneMask) : (w.advance m).slot = w.slot := rfl
@[simp] theorem Warp.advance_vregs (w : Warp) (m : LaneMask) : (w.advance m).vregs = w.vregs := rfl
@[simp] theorem Warp.advance_uregs (w : Warp) (m : LaneMask) : (w.advance m).uregs = w.uregs := rfl
@[simp] theorem Warp.advance_preds (w : Warp) (m : LaneMask) : (w.advance m).preds = w.preds := rfl
@[simp] theorem Warp.advance_bound (w : Warp) (m : LaneMask) : (w.advance m).bound = w.bound := rfl
@[simp] theorem Warp.advance_fstat (w : Warp) (m : LaneMask) : (w.advance m).fstat = w.fstat := rfl
@[simp] theorem Warp.advance_clk (w : Warp) (m : LaneMask) : (w.advance m).clk = w.clk := rfl
@[simp] theorem Warp.advance_dly (w : Warp) (m : LaneMask) : (w.advance m).dly = w.dly := rfl
@[simp] theorem Warp.advance_swPark (w : Warp) (m : LaneMask) : (w.advance m).swPark = w.swPark := rfl
@[simp] theorem Warp.advance_recent (w : Warp) (m : LaneMask) : (w.advance m).recent = w.recent := rfl
@[simp] theorem Warp.advance_flights (w : Warp) (m : LaneMask) : (w.advance m).flights = w.flights := rfl
@[simp] theorem Warp.advance_pair (w : Warp) (m : LaneMask) : (w.advance m).pair = w.pair := rfl
@[simp] theorem Warp.advance_starve (w : Warp) (m : LaneMask) : (w.advance m).starve = w.starve := rfl
@[simp] theorem Warp.advance_first (w : Warp) (m : LaneMask) : (w.advance m).first = w.first := rfl
@[simp] theorem Warp.advance_replay (w : Warp) (m : LaneMask) : (w.advance m).replay = w.replay := rfl
@[simp] theorem Warp.advance_drawn (w : Warp) (m : LaneMask) : (w.advance m).drawn = w.drawn := rfl
@[simp] theorem Warp.advance_handler (w : Warp) (m : LaneMask) : (w.advance m).handler = w.handler := rfl
@[simp] theorem Warp.advance_asks (w : Warp) (m : LaneMask) : (w.advance m).asks = w.asks := rfl
@[simp] theorem Warp.advance_pendingFault (w : Warp) (m : LaneMask) : (w.advance m).pendingFault = w.pendingFault := rfl
@[simp] theorem Warp.advance_owes (w : Warp) (m : LaneMask) : (w.advance m).owes = w.owes := rfl
@[simp] theorem Warp.advance_away (w : Warp) (m : LaneMask) : (w.advance m).away = w.away := rfl
@[simp] theorem Warp.advance_goal (w : Warp) (m : LaneMask) : (w.advance m).goal = w.goal := rfl
@[simp] theorem Warp.advance_ctx (w : Warp) (m : LaneMask) : (w.advance m).ctx = w.ctx := rfl

@[simp] theorem Warp.hold_kind (w : Warp) (m : LaneMask) (h : Hold) : (w.hold m h).kind = w.kind := rfl
@[simp] theorem Warp.hold_gid (w : Warp) (m : LaneMask) (h : Hold) : (w.hold m h).gid = w.gid := rfl
@[simp] theorem Warp.hold_wg (w : Warp) (m : LaneMask) (h : Hold) : (w.hold m h).wg = w.wg := rfl
@[simp] theorem Warp.hold_wid (w : Warp) (m : LaneMask) (h : Hold) : (w.hold m h).wid = w.wid := rfl
@[simp] theorem Warp.hold_role (w : Warp) (m : LaneMask) (h : Hold) : (w.hold m h).role = w.role := rfl
@[simp] theorem Warp.hold_core (w : Warp) (m : LaneMask) (h : Hold) : (w.hold m h).core = w.core := rfl
@[simp] theorem Warp.hold_slot (w : Warp) (m : LaneMask) (h : Hold) : (w.hold m h).slot = w.slot := rfl
@[simp] theorem Warp.hold_vregs (w : Warp) (m : LaneMask) (h : Hold) : (w.hold m h).vregs = w.vregs := rfl
@[simp] theorem Warp.hold_uregs (w : Warp) (m : LaneMask) (h : Hold) : (w.hold m h).uregs = w.uregs := rfl
@[simp] theorem Warp.hold_preds (w : Warp) (m : LaneMask) (h : Hold) : (w.hold m h).preds = w.preds := rfl
@[simp] theorem Warp.hold_bound (w : Warp) (m : LaneMask) (h : Hold) : (w.hold m h).bound = w.bound := rfl
@[simp] theorem Warp.hold_fstat (w : Warp) (m : LaneMask) (h : Hold) : (w.hold m h).fstat = w.fstat := rfl
@[simp] theorem Warp.hold_clk (w : Warp) (m : LaneMask) (h : Hold) : (w.hold m h).clk = w.clk := rfl
@[simp] theorem Warp.hold_dly (w : Warp) (m : LaneMask) (h : Hold) : (w.hold m h).dly = w.dly := rfl
@[simp] theorem Warp.hold_swPark (w : Warp) (m : LaneMask) (h : Hold) : (w.hold m h).swPark = w.swPark := rfl
@[simp] theorem Warp.hold_recent (w : Warp) (m : LaneMask) (h : Hold) : (w.hold m h).recent = w.recent := rfl
@[simp] theorem Warp.hold_flights (w : Warp) (m : LaneMask) (h : Hold) : (w.hold m h).flights = w.flights := rfl
@[simp] theorem Warp.hold_pair (w : Warp) (m : LaneMask) (h : Hold) : (w.hold m h).pair = w.pair := rfl
@[simp] theorem Warp.hold_starve (w : Warp) (m : LaneMask) (h : Hold) : (w.hold m h).starve = w.starve := rfl
@[simp] theorem Warp.hold_first (w : Warp) (m : LaneMask) (h : Hold) : (w.hold m h).first = w.first := rfl
@[simp] theorem Warp.hold_replay (w : Warp) (m : LaneMask) (h : Hold) : (w.hold m h).replay = w.replay := rfl
@[simp] theorem Warp.hold_drawn (w : Warp) (m : LaneMask) (h : Hold) : (w.hold m h).drawn = w.drawn := rfl
@[simp] theorem Warp.hold_handler (w : Warp) (m : LaneMask) (h : Hold) : (w.hold m h).handler = w.handler := rfl
@[simp] theorem Warp.hold_asks (w : Warp) (m : LaneMask) (h : Hold) : (w.hold m h).asks = w.asks := rfl
@[simp] theorem Warp.hold_pendingFault (w : Warp) (m : LaneMask) (h : Hold) : (w.hold m h).pendingFault = w.pendingFault := rfl
@[simp] theorem Warp.hold_owes (w : Warp) (m : LaneMask) (h : Hold) : (w.hold m h).owes = w.owes := rfl
@[simp] theorem Warp.hold_away (w : Warp) (m : LaneMask) (h : Hold) : (w.hold m h).away = w.away := rfl
@[simp] theorem Warp.hold_goal (w : Warp) (m : LaneMask) (h : Hold) : (w.hold m h).goal = w.goal := rfl
@[simp] theorem Warp.hold_ctx (w : Warp) (m : LaneMask) (h : Hold) : (w.hold m h).ctx = w.ctx := rfl

@[simp] theorem Warp.resume_kind (w : Warp) (m : LaneMask) (skip : Bool) : (w.resume m skip).kind = w.kind := rfl
@[simp] theorem Warp.resume_gid (w : Warp) (m : LaneMask) (skip : Bool) : (w.resume m skip).gid = w.gid := rfl
@[simp] theorem Warp.resume_wg (w : Warp) (m : LaneMask) (skip : Bool) : (w.resume m skip).wg = w.wg := rfl
@[simp] theorem Warp.resume_wid (w : Warp) (m : LaneMask) (skip : Bool) : (w.resume m skip).wid = w.wid := rfl
@[simp] theorem Warp.resume_role (w : Warp) (m : LaneMask) (skip : Bool) : (w.resume m skip).role = w.role := rfl
@[simp] theorem Warp.resume_core (w : Warp) (m : LaneMask) (skip : Bool) : (w.resume m skip).core = w.core := rfl
@[simp] theorem Warp.resume_slot (w : Warp) (m : LaneMask) (skip : Bool) : (w.resume m skip).slot = w.slot := rfl
@[simp] theorem Warp.resume_vregs (w : Warp) (m : LaneMask) (skip : Bool) : (w.resume m skip).vregs = w.vregs := rfl
@[simp] theorem Warp.resume_uregs (w : Warp) (m : LaneMask) (skip : Bool) : (w.resume m skip).uregs = w.uregs := rfl
@[simp] theorem Warp.resume_preds (w : Warp) (m : LaneMask) (skip : Bool) : (w.resume m skip).preds = w.preds := rfl
@[simp] theorem Warp.resume_bound (w : Warp) (m : LaneMask) (skip : Bool) : (w.resume m skip).bound = w.bound := rfl
@[simp] theorem Warp.resume_fstat (w : Warp) (m : LaneMask) (skip : Bool) : (w.resume m skip).fstat = w.fstat := rfl
@[simp] theorem Warp.resume_clk (w : Warp) (m : LaneMask) (skip : Bool) : (w.resume m skip).clk = w.clk := rfl
@[simp] theorem Warp.resume_dly (w : Warp) (m : LaneMask) (skip : Bool) : (w.resume m skip).dly = w.dly := rfl
@[simp] theorem Warp.resume_swPark (w : Warp) (m : LaneMask) (skip : Bool) : (w.resume m skip).swPark = w.swPark := rfl
@[simp] theorem Warp.resume_recent (w : Warp) (m : LaneMask) (skip : Bool) : (w.resume m skip).recent = w.recent := rfl
@[simp] theorem Warp.resume_flights (w : Warp) (m : LaneMask) (skip : Bool) : (w.resume m skip).flights = w.flights := rfl
@[simp] theorem Warp.resume_pair (w : Warp) (m : LaneMask) (skip : Bool) : (w.resume m skip).pair = w.pair := rfl
@[simp] theorem Warp.resume_starve (w : Warp) (m : LaneMask) (skip : Bool) : (w.resume m skip).starve = w.starve := rfl
@[simp] theorem Warp.resume_first (w : Warp) (m : LaneMask) (skip : Bool) : (w.resume m skip).first = w.first := rfl
@[simp] theorem Warp.resume_replay (w : Warp) (m : LaneMask) (skip : Bool) : (w.resume m skip).replay = w.replay := rfl
@[simp] theorem Warp.resume_drawn (w : Warp) (m : LaneMask) (skip : Bool) : (w.resume m skip).drawn = w.drawn := rfl
@[simp] theorem Warp.resume_handler (w : Warp) (m : LaneMask) (skip : Bool) : (w.resume m skip).handler = w.handler := rfl
@[simp] theorem Warp.resume_asks (w : Warp) (m : LaneMask) (skip : Bool) : (w.resume m skip).asks = w.asks := rfl
@[simp] theorem Warp.resume_pendingFault (w : Warp) (m : LaneMask) (skip : Bool) : (w.resume m skip).pendingFault = w.pendingFault := rfl
@[simp] theorem Warp.resume_owes (w : Warp) (m : LaneMask) (skip : Bool) : (w.resume m skip).owes = w.owes := rfl
@[simp] theorem Warp.resume_away (w : Warp) (m : LaneMask) (skip : Bool) : (w.resume m skip).away = w.away := rfl
@[simp] theorem Warp.resume_goal (w : Warp) (m : LaneMask) (skip : Bool) : (w.resume m skip).goal = w.goal := rfl
@[simp] theorem Warp.resume_ctx (w : Warp) (m : LaneMask) (skip : Bool) : (w.resume m skip).ctx = w.ctx := rfl

@[simp] theorem Warp.ordered_kind (w : Warp) : w.ordered.kind = w.kind := rfl
@[simp] theorem Warp.ordered_gid (w : Warp) : w.ordered.gid = w.gid := rfl
@[simp] theorem Warp.ordered_wg (w : Warp) : w.ordered.wg = w.wg := rfl
@[simp] theorem Warp.ordered_wid (w : Warp) : w.ordered.wid = w.wid := rfl
@[simp] theorem Warp.ordered_role (w : Warp) : w.ordered.role = w.role := rfl
@[simp] theorem Warp.ordered_core (w : Warp) : w.ordered.core = w.core := rfl
@[simp] theorem Warp.ordered_slot (w : Warp) : w.ordered.slot = w.slot := rfl
@[simp] theorem Warp.ordered_vregs (w : Warp) : w.ordered.vregs = w.vregs := rfl
@[simp] theorem Warp.ordered_uregs (w : Warp) : w.ordered.uregs = w.uregs := rfl
@[simp] theorem Warp.ordered_preds (w : Warp) : w.ordered.preds = w.preds := rfl
@[simp] theorem Warp.ordered_bound (w : Warp) : w.ordered.bound = w.bound := rfl
@[simp] theorem Warp.ordered_fstat (w : Warp) : w.ordered.fstat = w.fstat := rfl
@[simp] theorem Warp.ordered_clk (w : Warp) : w.ordered.clk = w.clk := rfl
@[simp] theorem Warp.ordered_dly (w : Warp) : w.ordered.dly = w.dly := rfl
@[simp] theorem Warp.ordered_flights (w : Warp) : w.ordered.flights = w.flights := rfl
@[simp] theorem Warp.ordered_pair (w : Warp) : w.ordered.pair = w.pair := rfl
@[simp] theorem Warp.ordered_starve (w : Warp) : w.ordered.starve = w.starve := rfl
@[simp] theorem Warp.ordered_first (w : Warp) : w.ordered.first = w.first := rfl
@[simp] theorem Warp.ordered_replay (w : Warp) : w.ordered.replay = w.replay := rfl
@[simp] theorem Warp.ordered_drawn (w : Warp) : w.ordered.drawn = w.drawn := rfl
@[simp] theorem Warp.ordered_handler (w : Warp) : w.ordered.handler = w.handler := rfl
@[simp] theorem Warp.ordered_asks (w : Warp) : w.ordered.asks = w.asks := rfl
@[simp] theorem Warp.ordered_pendingFault (w : Warp) : w.ordered.pendingFault = w.pendingFault := rfl
@[simp] theorem Warp.ordered_owes (w : Warp) : w.ordered.owes = w.owes := rfl
@[simp] theorem Warp.ordered_away (w : Warp) : w.ordered.away = w.away := rfl
@[simp] theorem Warp.ordered_goal (w : Warp) : w.ordered.goal = w.goal := rfl
@[simp] theorem Warp.ordered_ctx (w : Warp) : w.ordered.ctx = w.ctx := rfl
@[simp] theorem Warp.ordered_lanes (w : Warp) : w.ordered.lanes = w.lanes := rfl

@[simp] theorem Warp.tick_kind (w : Warp) (c : Nat) : (w.tick c).kind = w.kind := rfl
@[simp] theorem Warp.tick_gid (w : Warp) (c : Nat) : (w.tick c).gid = w.gid := rfl
@[simp] theorem Warp.tick_wg (w : Warp) (c : Nat) : (w.tick c).wg = w.wg := rfl
@[simp] theorem Warp.tick_wid (w : Warp) (c : Nat) : (w.tick c).wid = w.wid := rfl
@[simp] theorem Warp.tick_role (w : Warp) (c : Nat) : (w.tick c).role = w.role := rfl
@[simp] theorem Warp.tick_core (w : Warp) (c : Nat) : (w.tick c).core = w.core := rfl
@[simp] theorem Warp.tick_slot (w : Warp) (c : Nat) : (w.tick c).slot = w.slot := rfl
@[simp] theorem Warp.tick_vregs (w : Warp) (c : Nat) : (w.tick c).vregs = w.vregs := rfl
@[simp] theorem Warp.tick_uregs (w : Warp) (c : Nat) : (w.tick c).uregs = w.uregs := rfl
@[simp] theorem Warp.tick_preds (w : Warp) (c : Nat) : (w.tick c).preds = w.preds := rfl
@[simp] theorem Warp.tick_bound (w : Warp) (c : Nat) : (w.tick c).bound = w.bound := rfl
@[simp] theorem Warp.tick_dly (w : Warp) (c : Nat) : (w.tick c).dly = w.dly := rfl
@[simp] theorem Warp.tick_swPark (w : Warp) (c : Nat) : (w.tick c).swPark = w.swPark := rfl
@[simp] theorem Warp.tick_flights (w : Warp) (c : Nat) : (w.tick c).flights = w.flights := rfl
@[simp] theorem Warp.tick_pair (w : Warp) (c : Nat) : (w.tick c).pair = w.pair := rfl
@[simp] theorem Warp.tick_starve (w : Warp) (c : Nat) : (w.tick c).starve = w.starve := rfl
@[simp] theorem Warp.tick_first (w : Warp) (c : Nat) : (w.tick c).first = w.first := rfl
@[simp] theorem Warp.tick_replay (w : Warp) (c : Nat) : (w.tick c).replay = w.replay := rfl
@[simp] theorem Warp.tick_drawn (w : Warp) (c : Nat) : (w.tick c).drawn = w.drawn := rfl
@[simp] theorem Warp.tick_handler (w : Warp) (c : Nat) : (w.tick c).handler = w.handler := rfl
@[simp] theorem Warp.tick_asks (w : Warp) (c : Nat) : (w.tick c).asks = w.asks := rfl
@[simp] theorem Warp.tick_pendingFault (w : Warp) (c : Nat) : (w.tick c).pendingFault = w.pendingFault := rfl
@[simp] theorem Warp.tick_owes (w : Warp) (c : Nat) : (w.tick c).owes = w.owes := rfl
@[simp] theorem Warp.tick_away (w : Warp) (c : Nat) : (w.tick c).away = w.away := rfl
@[simp] theorem Warp.tick_goal (w : Warp) (c : Nat) : (w.tick c).goal = w.goal := rfl
@[simp] theorem Warp.tick_ctx (w : Warp) (c : Nat) : (w.tick c).ctx = w.ctx := rfl
@[simp] theorem Warp.tick_lanes (w : Warp) (c : Nat) : (w.tick c).lanes = w.lanes := rfl

end Sys2Proof.Machine
end

