-- ==== Sys2Proof/Laws/Issue.lean ====
section
/-! SUPPORT. What the shared operations of an issue can do: the decode checks, the lanes, the ways an issue ends, the faults that it
takes, and the results that it leaves. -/
namespace Sys2Proof.Machine

/-! ### The checks before the effect -/

/-- An issue whose checks pass is its effect. -/
theorem issued_of_issues {s : State} {i : Instr} {f : Fields} {e : Env} {s1 : State} (h : Issues s i f e s1)
    (body : Env → State → State) : issued i f s body = .next (body e s1) := by
  obtain ⟨c, w, hc, hw, hd, rfl, rfl⟩ := h
  simp [issued, hc, hw, hd]

/-- An issue that fails a check faults in all its lanes. -/
theorem issued_of_issuesBadly {s : State} {i : Instr} {f : Fields} {code : Nat} {e : Env} {s1 : State}
    (h : IssuesBadly s i f code e s1) (body : Env → State → State) : issued i f s body = .next (e.faultAll s1 code) := by
  obtain ⟨c, w, hc, hw, hd, rfl, rfl⟩ := h
  simp [issued, hc, hw, hd]

/-- While an agent issues, an instruction answers a next state. -/
theorem issued_next (s : State) (i : Instr) (f : Fields) (body : Env → State → State) (c : Issue) (w : Warp)
    (hc : s.cur = some c) (hw : aget s.warps c.key = some w) : ∃ t, issued i f s body = .next t := by
  simp only [issued, hc, hw]
  split <;> exact ⟨_, rfl⟩

/-- With no agent issuing, an instruction faults in the model's own way. -/
theorem issued_no_issuer (s : State) (i : Instr) (f : Fields) (body : Env → State → State) (h : s.cur = none) :
    issued i f s body = .fault .noIssuer := by
  simp [issued, h]

/-- What an issue reads: the key of the agent, and the fields of the word. -/
theorem issues_env {s : State} {i : Instr} {f : Fields} {e : Env} {s1 : State} (h : Issues s i f e s1) :
    e.f = f ∧ ∃ c, s.cur = some c ∧ e.key = c.key ∧ e.lanes = c.lanes ∧ e.pc = c.pc ∧ e.paired = c.paired ∧
      ∃ w, aget s.warps c.key = some w ∧ e.w0 = c.warp w := by
  obtain ⟨c, w, hc, hw, -, rfl, rfl⟩ := h
  exact ⟨rfl, c, hc, rfl, rfl, rfl, rfl, w, hw, rfl⟩

/-- The state in which an effect begins: the issuing warp in its cycle, and nothing else but the free number. -/
theorem issues_base {s : State} {i : Instr} {f : Fields} {e : Env} {s1 : State} (h : Issues s i f e s1) :
    s1 = { s.setWarp e.key e.w with freeN := s.freeN + 1 } := by
  obtain ⟨c, w, -, -, -, rfl, rfl⟩ := h
  rfl

/-! ### Lists by position -/

@[simp] theorem length_mapFrom {α β : Type} (n : Nat) (g : Nat → α → β) (l : List α) : (mapFrom n g l).length = l.length := by
  induction l generalizing n with
  | nil => rfl
  | cons a l ih => simp [mapFrom, ih]

theorem getElem?_mapFrom {α β : Type} (n : Nat) (g : Nat → α → β) (l : List α) (i : Nat) :
    (mapFrom n g l)[i]? = l[i]?.map (g (n + i)) := by
  induction l generalizing n i with
  | nil => simp [mapFrom]
  | cons a l ih =>
    cases i with
    | zero => simp [mapFrom]
    | succ i => simp [mapFrom, ih, Nat.add_assoc, Nat.add_comm 1 i]

@[simp] theorem length_modAt {α : Type} (l : List α) (n : Nat) (g : α → α) : (modAt l n g).length = l.length := by
  simp [modAt]

theorem getElem?_modAt {α : Type} (l : List α) (n i : Nat) (g : α → α) :
    (modAt l n g)[i]? = if i = n then l[i]?.map g else l[i]? := by
  simp only [modAt, getElem?_mapFrom, Nat.zero_add]
  split <;> simp

theorem length_zipWith3 {α β γ δ : Type} (g : α → β → γ → δ) (as : List α) (bs : List β) (cs : List γ)
    (hb : bs.length = as.length) (hc : cs.length = as.length) : (zipWith3 g as bs cs).length = as.length := by
  induction as generalizing bs cs with
  | nil => simp [zipWith3]
  | cons a as ih =>
    match bs, cs, hb, hc with
    | b :: bs, c :: cs, hb, hc =>
      simp only [zipWith3, List.length_cons] at *
      rw [ih bs cs (by omega) (by omega)]

/-! ### Lanes -/

@[simp] theorem mem_lanesOf (m : LaneMask) (l : Nat) : l ∈ lanesOf m ↔ l < 32 ∧ m.getLsbD l = true := by
  simp [lanesOf, allLanes]

theorem getLsbD_maskOf (ls : List Nat) (l : Nat) (h : l < 32) : (maskOf ls).getLsbD l = decide (l ∈ ls) := by
  have key : ∀ (ls : List Nat) (m : LaneMask), (ls.foldl (fun (m : LaneMask) l => m ||| ((1 : LaneMask) <<< l)) m).getLsbD l =
      (m.getLsbD l || decide (l ∈ ls)) := by
    intro ls
    induction ls with
    | nil => simp
    | cons a ls ih =>
      intro m
      simp only [List.foldl_cons, ih, BitVec.getLsbD_or, BitVec.getLsbD_shiftLeft, List.mem_cons]
      by_cases e : l = a
      · subst e; simp [h]
      · by_cases q : l < a
        · simp [e, q]
        · have : l - a ≠ 0 := by omega
          simp [e, h, q, this]
  simpa [maskOf] using key ls 0

@[simp] theorem lanes_updLanes (w : Warp) (m : LaneMask) (g : Nat → Lane → Lane) (l : Nat) :
    (w.updLanes m g).lanes[l]? = w.lanes[l]?.map fun x => if m.getLsbD l then g l x else x := by
  simp [Warp.updLanes, getElem?_mapFrom]

@[simp] theorem length_updLanes (w : Warp) (m : LaneMask) (g : Nat → Lane → Lane) :
    (w.updLanes m g).lanes.length = w.lanes.length := by
  simp [Warp.updLanes]

/-- No lane taken: there is no leading lane. -/
theorem leading_of_taking (e : Env) (h : e.taking = 0) : e.leading = none := by
  simp only [Env.leading, List.head?_eq_none_iff]
  have : lanesOf (0 : LaneMask) = [] := rfl
  rw [h]; exact this

/-- A lane taken: the leading lane is the lowest. -/
theorem leading_spec (e : Env) (h : e.taking ≠ 0) :
    ∃ l, e.leading = some l ∧ l < 32 ∧ e.taking.getLsbD l = true ∧ ∀ k < l, e.taking.getLsbD k = false := by
  have hne : lanesOf e.taking ≠ [] := by
    intro h0
    apply h
    apply BitVec.eq_of_getLsbD_eq
    intro i hi
    have : i ∉ lanesOf e.taking := by simp [h0]
    simp only [mem_lanesOf, not_and, Bool.not_eq_true] at this
    simpa using this hi
  cases hl : lanesOf e.taking with
  | nil => exact absurd hl hne
  | cons l ls =>
    have hm : l ∈ lanesOf e.taking := by simp [hl]
    rw [mem_lanesOf] at hm
    refine ⟨l, by simp [Env.leading, hl], hm.1, hm.2, ?_⟩
    intro k hk
    refine Bool.eq_false_iff.2 fun hc => ?_
    have hk' : k ∈ lanesOf e.taking := by rw [mem_lanesOf]; exact ⟨by omega, hc⟩
    have sorted : (lanesOf e.taking).Pairwise (· < ·) :=
      List.Pairwise.sublist List.filter_sublist (List.pairwise_lt_range (n := 32))
    rw [hl, List.pairwise_cons] at sorted
    rw [hl] at hk'
    rcases List.mem_cons.1 hk' with rfl | q
    · omega
    · have := sorted.1 k q; omega

/-- The issuing lanes in RUN move to the next word. -/
theorem lanesGo_advance (e : Env) (w : Warp) (h : w.lanes = e.w.lanes) : e.Advanced (w.advance e.lanes) := by
  refine ⟨by simp [Warp.advance, h], fun l x hx => ?_⟩
  simp only [Warp.advance, lanes_updLanes, h, hx, Option.map_some, Option.some.injEq]
  by_cases a : e.lanes.getLsbD l <;> by_cases b : x.isRun <;> simp [a, b]

/-! ### How an issue ends -/

/-- Only an entry for the float flags holds float flags. -/
theorem flagBits_of_name {o : OldReg} (h : o.name.1 ≠ 3) : o.flagBits = 0 := by
  cases o <;> simp_all [OldReg.name, OldReg.flagBits]

/-- A switch marker orders results without dropping a float flag. -/
theorem allFlags_ordered (w : Warp) : w.ordered.allFlags = w.allFlags := by
  have key : ∀ (rs : List Recent) (seen : List (Nat × Nat)) (a : BitVec 5),
      (keepRecent (fun r => r.due == Recent.never && r.old.flagBits == 0) seen rs).foldl (fun a r => a ||| r.old.flagBits) a =
        rs.foldl (fun a r => a ||| r.old.flagBits) a := by
    intro rs
    induction rs with
    | nil => intros; rfl
    | cons r rs ih =>
      intro seen a
      have drop : r.old.flagBits = 0 → rs.foldl (fun a r => a ||| r.old.flagBits) a =
          (r :: rs).foldl (fun a r => a ||| r.old.flagBits) a := by intro h; simp [h]
      simp only [keepRecent]
      split
      · rename_i q; rw [ih]; exact drop (by simpa using (by simpa using q : _ ∧ _).2)
      · split
        · rename_i q
          rw [ih]; refine drop (flagBits_of_name ?_)
          intro h; simp [h] at q
        · simp only [List.foldl_cons]; exact ih _ _
  simpa [Warp.allFlags, Warp.ordered] using key w.recent [] w.fstat

theorem pending_ordered (w : Warp) : w.ordered.pending = w.pending := rfl

/-- What the delay and the switch marker of a word leave of a warp. -/
theorem settle_spec (e : Env) (w : Warp) :
    (e.settle w).lanes = w.lanes ∧ (e.settle w).vregs = w.vregs ∧ (e.settle w).uregs = w.uregs ∧ (e.settle w).preds = w.preds ∧
      (e.settle w).bound = w.bound ∧ (e.settle w).flights = w.flights ∧ (e.settle w).allFlags = w.allFlags ∧
      e.settle w = { w with dly := if e.paired then max w.dly e.f.dly.toNat else e.f.dly.toNat, recent := (e.settle w).recent,
                            swPark := if e.f.sw then !w.flights.isEmpty else w.swPark } := by
  unfold Env.settle
  by_cases h : e.f.sw <;> by_cases k : w.flights.isEmpty <;>
    simp_all [Warp.ordered, Warp.allFlags] <;>
    exact allFlags_ordered w

/-- An issue that only moves its lanes on. -/
theorem quiet_done (e : Env) : e.Quiet (e.settle (e.w.advance e.lanes)) := by
  obtain ⟨h1, h2, h3, h4, h5, h6, h7, h8⟩ := settle_spec e (e.w.advance e.lanes)
  refine ⟨?_, ?_, ⟨h2, h3, h4, h5⟩, ?_, ?_⟩
  · unfold Env.Settled; rw [h1, h2, h3, h4, h5, h6, h8]; simp [Warp.advance, Warp.updLanes]
  · have := lanesGo_advance e e.w rfl
    unfold Env.Advanced Env.LanesGo at *; rw [h1]; exact this
  · simp only [Warp.pending, h6]; rfl
  · rw [h7]; simp [Warp.allFlags, Warp.advance, Warp.updLanes]

theorem done_eq_after (e : Env) (s : State) (w : Warp) : e.done s w = e.after s (e.settle (w.advance e.lanes)) := rfl

theorem doneAt_eq_after (e : Env) (s : State) (w : Warp) : e.doneAt s w = e.after s (e.settle w) := rfl

/-- A held issue: its lanes in RUN go to HOLD, and nothing else of the warp changes. -/
theorem heldBy_holds (e : Env) (s : State) (h : Hold) : e.holds s h = e.after s (e.w0.hold e.lanes h) ∧
    e.HeldBy (e.w0.hold e.lanes h) h := by
  refine ⟨rfl, rfl, by simp [Warp.hold], fun l x hx => ?_⟩
  simp only [Warp.hold, lanes_updLanes, hx, Option.map_some, Option.some.injEq]
  by_cases a : e.lanes.getLsbD l <;> by_cases b : x.isRun <;> simp [a, b]

@[simp] theorem done_mem (e : Env) (s : State) (w : Warp) : (e.done s w).mem = s.mem := rfl
@[simp] theorem doneAt_mem (e : Env) (s : State) (w : Warp) : (e.doneAt s w).mem = s.mem := rfl
@[simp] theorem holds_mem (e : Env) (s : State) (h : Hold) : (e.holds s h).mem = s.mem := rfl

/-- Only the issuing warp of an ended issue differs. -/
theorem after_warps (e : Env) (s : State) (w' : Warp) (k : Nat) :
    aget (e.after s w').warps k = if k = e.key then some w' else aget s.warps k := aget_aset s.warps e.key k w'

/-! ### Faults -/

@[simp] theorem takeFaults_nil (s : State) (key : Nat) (pc : Word) (kind : Nat) (tcode : BitVec 16) (w : Warp)
    (h : aget s.warps key = some w) : takeFaults s key pc kind tcode [] = s.setWarp key w := by
  have post : ∀ (cs : List Nat) (s : State),
      cs.foldl (fun s c => postOne s key pc kind tcode ([] : List LaneFault) c) s = s := by
    intro cs
    induction cs with
    | nil => simp
    | cons c cs ih =>
      intro s
      have : postOne s key pc kind tcode [] c = s := by unfold postOne; simp
      simp [this, ih]
  simp [takeFaults, h, post]

theorem postOne_mem (s : State) (key : Nat) (pc : Word) (kind : Nat) (tcode : BitVec 16) (fs : List LaneFault) (c : Nat) :
    (postOne s key pc kind tcode fs c).mem = s.mem := by
  unfold postOne
  split <;> simp

theorem takeFaults_mem (s : State) (key : Nat) (pc : Word) (kind : Nat) (tcode : BitVec 16) (fs : List LaneFault) :
    (takeFaults s key pc kind tcode fs).mem = s.mem := by
  have post : ∀ (cs : List Nat) (s : State) (out : List LaneFault),
      (cs.foldl (fun s c => postOne s key pc kind tcode out c) s).mem = s.mem := by
    intro cs
    induction cs with
    | nil => simp
    | cons c cs ih => intro s out; simp [ih, postOne_mem]
  unfold takeFaults
  split
  · rfl
  · simp [post]

@[simp] theorem faultAll_mem (e : Env) (s : State) (c : Nat) : (e.faultAll s c).mem = s.mem := by
  simp [Env.faultAll, takeFaults_mem]

/-! ### Results -/

theorem allFlags_put (w : Warp) (rw_ : RegWrite) : (w.put rw_).allFlags = w.allFlags := by
  cases rw_ with
  | q n mask val => simp only [Warp.put]; split <;> rfl
  | _ => rfl

@[simp] theorem flights_put (w : Warp) (rw_ : RegWrite) : (w.put rw_).flights = w.flights := by
  cases rw_ with
  | q n mask val => simp only [Warp.put]; split <;> rfl
  | _ => rfl

@[simp] theorem lanes_put (w : Warp) (rw_ : RegWrite) : (w.put rw_).lanes = w.lanes := by
  cases rw_ with
  | q n mask val => simp only [Warp.put]; split <;> rfl
  | _ => rfl

/-- A change of the fates of what is outstanding changes nothing that a reader sees. -/
theorem pending_refate (w : Warp) (name : Nat × Nat) (which : Flight → Bool) (g : Fate → Fate) :
    (w.refate name which g).pending = w.pending := by
  simp only [Warp.pending, Warp.refate, List.map_map]
  refine List.map_congr_left fun x _ => ?_
  simp only [Function.comp]
  split
  · simp only [Prod.mk.injEq, true_and, List.map_map]
    refine List.map_congr_left fun p _ => ?_
    simp only [Function.comp]; split <;> rfl
  · rfl

/-- A later write of a register marks what is outstanding for it, and changes nothing that a reader sees. -/
theorem pending_contest (w : Warp) (name : Nat × Nat) : (w.contest name).pending = w.pending :=
  pending_refate w name _ _

theorem unbind_eq (w : Warp) (rw_ : RegWrite) : w.unbind rw_ = { w with bound := (w.unbind rw_).bound } := by
  cases rw_ <;> rfl

/-- What a new outstanding result does to those before it: their fates and the bindings change, nothing else. -/
theorem aim_spec (w : Warp) (free : Nat) (paired : Bool) (rw_ : RegWrite) :
    let v := w.aim free paired rw_
    v.lanes = w.lanes ∧ v.vregs = w.vregs ∧ v.uregs = w.uregs ∧ v.preds = w.preds ∧ v.recent = w.recent ∧
      v.fstat = w.fstat ∧ v.pending = w.pending := by
  simp only [Warp.aim]
  rw [unbind_eq]
  split
  · split
    · exact ⟨rfl, rfl, rfl, rfl, rfl, rfl, pending_refate w rw_.name (fun g => g.born == w.clk) fun _ => Fate.lost⟩
    · exact ⟨rfl, rfl, rfl, rfl, rfl, rfl, rfl⟩
  · exact ⟨rfl, rfl, rfl, rfl, rfl, rfl, pending_contest w rw_.name⟩

/-- An outstanding result leaves the registers as they are. -/
theorem fly_spec (w : Warp) (id free : Nat) (ws : List RegWrite) (fl : BitVec 5) (paired : Bool) (tile : Option (Nat × TileAct)) :
    let w' := w.fly id free ws fl paired tile
    w'.lanes = w.lanes ∧ w'.vregs = w.vregs ∧ w'.uregs = w.uregs ∧ w'.preds = w.preds ∧ w'.recent = w.recent ∧
      w'.fstat = w.fstat ∧ w'.pending = w.pending ++ [(id, fl, ws.filter fun x => !x.nothing)] := by
  have key : ∀ (rws : List RegWrite) (w : Warp),
      let v := rws.foldl (fun w rw => w.aim free paired rw) w
      v.lanes = w.lanes ∧ v.vregs = w.vregs ∧ v.uregs = w.uregs ∧ v.preds = w.preds ∧ v.recent = w.recent ∧
        v.fstat = w.fstat ∧ v.pending = w.pending := by
    intro rws
    induction rws with
    | nil => intro w; exact ⟨rfl, rfl, rfl, rfl, rfl, rfl, rfl⟩
    | cons r rws ih =>
      intro w
      obtain ⟨h1, h2, h3, h4, h5, h6, h7⟩ := ih (w.aim free paired r)
      obtain ⟨k1, k2, k3, k4, k5, k6, k7⟩ := aim_spec w free paired r
      exact ⟨h1.trans k1, h2.trans k2, h3.trans k3, h4.trans k4, h5.trans k5, h6.trans k6, h7.trans k7⟩
  obtain ⟨h1, h2, h3, h4, h5, h6, h7⟩ := key (ws.filter fun x => !x.nothing) w
  refine ⟨h1, h2, h3, h4, h5, h6, ?_⟩
  simp only [Warp.fly, Warp.pending, List.map_append, List.map_cons, List.map_nil, List.map_map]
  have h8 : ∀ v : Warp, (v.flights.map fun g => (g.id, g.flags, g.writes.map Prod.fst)) = v.pending := fun _ => rfl
  rw [h8, h7]
  simp [Function.comp_def, Warp.pending]

/-! ### Agents -/

theorem on_live (s t : State) (pkg : Nat) (h : s.live pkg = true) : s.on pkg t = .next t := by simp [State.on, h]

theorem on_dead (s t : State) (pkg : Nat) (h : s.live pkg = false) : s.on pkg t = .next s := by simp [State.on, h]

/-- What a fetch that finds a sector anew can do (R285): nothing, or one unit becomes what the bytes found make of it. -/
theorem State.matSector_cases (s : State) (gid idx k : Nat) :
    s.matSector gid idx k = s ∨ ∃ g m g', s.mopAt gid idx = some (g, m) ∧ m.fed = false ∧ s.matSector gid idx k = s.setGroup gid g' := by
  unfold State.matSector
  split
  · exact .inl rfl
  · split
    · exact .inl rfl
    · exact .inr ⟨_, _, _, by assumption, by simp_all, rfl⟩

/-- A first write of a byte outside the homeless space never waits. -/
theorem ownLine_ok {s : State} {w : Who} {dup : Bool} {k : Nat} (h : isHomeless k = false) : ∃ t, s.ownLine w dup k = .ok t := by
  unfold State.ownLine
  split
  · exact ⟨_, rfl⟩
  · split
    · exact ⟨_, rfl⟩
    · simp only [h]; exact ⟨_, rfl⟩

theorem mem_of_mem_sectorsOf {vas : List Nat} {va : Nat} (h : va ∈ sectorsOf vas) : va ∈ vas := by
  obtain ⟨_, _, hf⟩ := List.mem_filterMap.1 h
  exact List.mem_of_find?_eq_some hf

/-- The lines of an access outside the homeless space are obtained at once. -/
theorem claim_ok {s : State} {w : Who} {ls : Lines} {swz : Nat} {vas : List Nat}
    (h : ∀ va ∈ vas, isHomeless (keyOf ls swz va) = false) : ∃ t, s.claim w ls swz vas = .ok t := by
  unfold State.claim
  have h' : ∀ va ∈ sectorsOf vas, isHomeless (keyOf ls swz va) = false := fun va hv => h va (mem_of_mem_sectorsOf hv)
  generalize sectorsOf vas = l at h'
  induction l generalizing s with
  | nil => exact ⟨s, rfl⟩
  | cons va l ih =>
    have hr : ∀ x ∈ l, isHomeless (keyOf ls swz x) = false := fun x hx => h' x (List.mem_cons_of_mem _ hx)
    simp only [List.foldlM_cons]
    split
    · exact ih hr
    · obtain ⟨t, ht⟩ := ownLine_ok (s := s) (w := w) (dup := (leafAt ls va).elim false Leaf.dup) (h' va (List.mem_cons_self ..))
      simp only [ht]
      exact ih hr

end Sys2Proof.Machine
end

