-- ==== Sys2Proof/Laws/PerInstr.lean ====
section
/-! SUPPORT. For each instruction: what stands in its word decodes to it. -/
namespace Sys2Proof.Laws.Encoding
open Sys2Proof

/-- A well-formed instruction has fields, its opcode fits the word, and the decoder reads that opcode with those fields as that
instruction (R44, R66); the steps that are no instruction words are not well-formed. -/
def Statement (i : Instr) : Prop :=
  wf i = true → ∃ f, fieldsOf i = some f ∧ opcodeOf i < 2 ^ 11 ∧ mkInstr (opcodeOf i) f = some i

/-- The selector that a row of the table has, where MOD selects between rows. -/
theorem ok_of_wf (i : Instr) (sp : OpSpec) (f : Fields) (hs : opSpec i = some sp) (hf : fieldsOf i = some f) (h : wf i = true) :
    sp.ok f = true := by
  simp only [wf, wfFor, hs, hf, Bool.or_eq_true, Bool.and_eq_true] at h
  rcases h with h | h
  · exact h.1.1.2
  · exact h.1.1.2

theorem event (i : Instr) (h : opSpec i = none) : Statement i := by
  intro hw
  simp [wf, wfFor, h] at hw

theorem word (i : Instr) (f : Fields) (h1 : fieldsOf i = some f) (h2 : (opcodeOf i).blt (2 ^ 11) = true)
    (h3 : mkInstr (opcodeOf i) f = some i) : Statement i := fun _ => ⟨f, h1, by simpa [Nat.blt_eq] using h2, h3⟩

theorem nop (f : Fields) : Statement (.nop f) := word _ f rfl rfl rfl
theorem bra (f : Fields) : Statement (.bra f) := word _ f rfl rfl rfl
theorem brx (f : Fields) : Statement (.brx f) := word _ f rfl rfl rfl
theorem call (f : Fields) : Statement (.call f) := word _ f rfl rfl rfl
theorem callx (f : Fields) : Statement (.callx f) := word _ f rfl rfl rfl
theorem ret (f : Fields) : Statement (.ret f) := word _ f rfl rfl rfl
theorem exit (f : Fields) : Statement (.exit f) := word _ f rfl rfl rfl
theorem reform (f : Fields) : Statement (.reform f) := word _ f rfl rfl rfl
theorem yield (f : Fields) : Statement (.yield f) := word _ f rfl rfl rfl
theorem sleep (f : Fields) : Statement (.sleep f) := word _ f rfl rfl rfl
theorem trap (f : Fields) : Statement (.trap f) := word _ f rfl rfl rfl
theorem brk (f : Fields) : Statement (.brk f) := word _ f rfl rfl rfl
theorem sadd (f : Fields) : Statement (.sadd f) := word _ f rfl rfl rfl
theorem ssub (f : Fields) : Statement (.ssub f) := word _ f rfl rfl rfl
theorem smul (f : Fields) : Statement (.smul f) := word _ f rfl rfl rfl
theorem smulh (f : Fields) : Statement (.smulh f) := word _ f rfl rfl rfl
theorem sdiv (f : Fields) : Statement (.sdiv f) := word _ f rfl rfl rfl
theorem srem (f : Fields) : Statement (.srem f) := word _ f rfl rfl rfl
theorem smin (f : Fields) : Statement (.smin f) := word _ f rfl rfl rfl
theorem smax (f : Fields) : Statement (.smax f) := word _ f rfl rfl rfl
theorem sand (f : Fields) : Statement (.sand f) := word _ f rfl rfl rfl
theorem sor (f : Fields) : Statement (.sor f) := word _ f rfl rfl rfl
theorem sxor (f : Fields) : Statement (.sxor f) := word _ f rfl rfl rfl
theorem sshl (f : Fields) : Statement (.sshl f) := word _ f rfl rfl rfl
theorem sshr (f : Fields) : Statement (.sshr f) := word _ f rfl rfl rfl
theorem ssra (f : Fields) : Statement (.ssra f) := word _ f rfl rfl rfl
theorem smov (f : Fields) : Statement (.smov f) := word _ f rfl rfl rfl
theorem smovh (f : Fields) : Statement (.smovh f) := word _ f rfl rfl rfl
theorem scmp (f : Fields) : Statement (.scmp f) := word _ f rfl rfl rfl
theorem ssel (f : Fields) : Statement (.ssel f) := word _ f rfl rfl rfl
theorem sbfx (f : Fields) : Statement (.sbfx f) := word _ f rfl rfl rfl
theorem spopc (f : Fields) : Statement (.spopc f) := word _ f rfl rfl rfl
theorem sclz (f : Fields) : Statement (.sclz f) := word _ f rfl rfl rfl
theorem vadd (f : Fields) : Statement (.vadd f) := word _ f rfl rfl rfl
theorem vsub (f : Fields) : Statement (.vsub f) := word _ f rfl rfl rfl
theorem vmul (f : Fields) : Statement (.vmul f) := word _ f rfl rfl rfl
theorem vmulh (f : Fields) : Statement (.vmulh f) := word _ f rfl rfl rfl
theorem vmad (f : Fields) : Statement (.vmad f) := word _ f rfl rfl rfl
theorem vmadw (f : Fields) : Statement (.vmadw f) := word _ f rfl rfl rfl
theorem vdot (f : Fields) : Statement (.vdot f) := word _ f rfl rfl rfl
theorem vabsd (f : Fields) : Statement (.vabsd f) := word _ f rfl rfl rfl
theorem vmin (f : Fields) : Statement (.vmin f) := word _ f rfl rfl rfl
theorem vmax (f : Fields) : Statement (.vmax f) := word _ f rfl rfl rfl
theorem vabs (f : Fields) : Statement (.vabs f) := word _ f rfl rfl rfl
theorem vneg (f : Fields) : Statement (.vneg f) := word _ f rfl rfl rfl
theorem vand (f : Fields) : Statement (.vand f) := word _ f rfl rfl rfl
theorem vor (f : Fields) : Statement (.vor f) := word _ f rfl rfl rfl
theorem vxor (f : Fields) : Statement (.vxor f) := word _ f rfl rfl rfl
theorem vnot (f : Fields) : Statement (.vnot f) := word _ f rfl rfl rfl
theorem vlop3 (f : Fields) : Statement (.vlop3 f) := word _ f rfl rfl rfl
theorem vshl (f : Fields) : Statement (.vshl f) := word _ f rfl rfl rfl
theorem vshr (f : Fields) : Statement (.vshr f) := word _ f rfl rfl rfl
theorem vsra (f : Fields) : Statement (.vsra f) := word _ f rfl rfl rfl
theorem vrotl (f : Fields) : Statement (.vrotl f) := word _ f rfl rfl rfl
theorem vbfx (f : Fields) : Statement (.vbfx f) := word _ f rfl rfl rfl
theorem vbfi (f : Fields) : Statement (.vbfi f) := word _ f rfl rfl rfl
theorem vpopc (f : Fields) : Statement (.vpopc f) := word _ f rfl rfl rfl
theorem vclz (f : Fields) : Statement (.vclz f) := word _ f rfl rfl rfl
theorem vcmp (f : Fields) : Statement (.vcmp f) := word _ f rfl rfl rfl
theorem vsel (f : Fields) : Statement (.vsel f) := word _ f rfl rfl rfl
theorem vmov (f : Fields) : Statement (.vmov f) := word _ f rfl rfl rfl
theorem vmovi (f : Fields) : Statement (.vmovi f) := word _ f rfl rfl rfl
theorem vfadd (f : Fields) : Statement (.vfadd f) := word _ f rfl rfl rfl
theorem vfsub (f : Fields) : Statement (.vfsub f) := word _ f rfl rfl rfl
theorem vfmul (f : Fields) : Statement (.vfmul f) := word _ f rfl rfl rfl
theorem vfma (f : Fields) : Statement (.vfma f) := word _ f rfl rfl rfl
theorem vfmin (f : Fields) : Statement (.vfmin f) := word _ f rfl rfl rfl
theorem vfmax (f : Fields) : Statement (.vfmax f) := word _ f rfl rfl rfl
theorem vfabs (f : Fields) : Statement (.vfabs f) := word _ f rfl rfl rfl
theorem vfneg (f : Fields) : Statement (.vfneg f) := word _ f rfl rfl rfl
theorem vfcmp (f : Fields) : Statement (.vfcmp f) := word _ f rfl rfl rfl
theorem vfclass (f : Fields) : Statement (.vfclass f) := word _ f rfl rfl rfl
theorem vfscale (f : Fields) : Statement (.vfscale f) := word _ f rfl rfl rfl
theorem vfrnd (f : Fields) : Statement (.vfrnd f) := word _ f rfl rfl rfl
theorem vfclamp (f : Fields) : Statement (.vfclamp f) := word _ f rfl rfl rfl
theorem vfdot2 (f : Fields) : Statement (.vfdot2 f) := word _ f rfl rfl rfl
theorem vcvt (f : Fields) : Statement (.vcvt f) := word _ f rfl rfl rfl
theorem vtag (f : Fields) : Statement (.vtag f) := word _ f rfl rfl rfl
theorem vtagq (f : Fields) : Statement (.vtagq f) := word _ f rfl rfl rfl
theorem vpack (f : Fields) : Statement (.vpack f) := word _ f rfl rfl rfl
theorem vunpack (f : Fields) : Statement (.vunpack f) := word _ f rfl rfl rfl
theorem vgen (f : Fields) : Statement (.vgen f) := word _ f rfl rfl rfl
theorem vbsc (f : Fields) : Statement (.vbsc f) := word _ f rfl rfl rfl
theorem vexp2 (f : Fields) : Statement (.vexp2 f) := word _ f rfl rfl rfl
theorem vexp (f : Fields) : Statement (.vexp f) := word _ f rfl rfl rfl
theorem vlog2 (f : Fields) : Statement (.vlog2 f) := word _ f rfl rfl rfl
theorem vln (f : Fields) : Statement (.vln f) := word _ f rfl rfl rfl
theorem vsin (f : Fields) : Statement (.vsin f) := word _ f rfl rfl rfl
theorem vcos (f : Fields) : Statement (.vcos f) := word _ f rfl rfl rfl
theorem vatan2 (f : Fields) : Statement (.vatan2 f) := word _ f rfl rfl rfl
theorem vtanh (f : Fields) : Statement (.vtanh f) := word _ f rfl rfl rfl
theorem vsigm (f : Fields) : Statement (.vsigm f) := word _ f rfl rfl rfl
theorem vsilu (f : Fields) : Statement (.vsilu f) := word _ f rfl rfl rfl
theorem vgelu (f : Fields) : Statement (.vgelu f) := word _ f rfl rfl rfl
theorem vsqrt (f : Fields) : Statement (.vsqrt f) := word _ f rfl rfl rfl
theorem vrsqrt (f : Fields) : Statement (.vrsqrt f) := word _ f rfl rfl rfl
theorem vrcp (f : Fields) : Statement (.vrcp f) := word _ f rfl rfl rfl
theorem vdiv (f : Fields) : Statement (.vdiv f) := word _ f rfl rfl rfl
theorem vred (f : Fields) : Statement (.vred f) := word _ f rfl rfl rfl
theorem vscan (f : Fields) : Statement (.vscan f) := word _ f rfl rfl rfl
theorem vshfl (f : Fields) : Statement (.vshfl f) := word _ f rfl rfl rfl
theorem vbcast (f : Fields) : Statement (.vbcast f) := word _ f rfl rfl rfl
theorem vperm (f : Fields) : Statement (.vperm f) := word _ f rfl rfl rfl
theorem vrotx (f : Fields) : Statement (.vrotx f) := word _ f rfl rfl rfl
theorem vvote (f : Fields) : Statement (.vvote f) := word _ f rfl rfl rfl
theorem vmatch (f : Fields) : Statement (.vmatch f) := word _ f rfl rfl rfl
theorem pand (f : Fields) : Statement (.pand f) := word _ f rfl rfl rfl
theorem por (f : Fields) : Statement (.por f) := word _ f rfl rfl rfl
theorem pxor (f : Fields) : Statement (.pxor f) := word _ f rfl rfl rfl
theorem pnot (f : Fields) : Statement (.pnot f) := word _ f rfl rfl rfl
theorem pmov (f : Fields) : Statement (.pmov f) := word _ f rfl rfl rfl
theorem ppopc (f : Fields) : Statement (.ppopc f) := word _ f rfl rfl rfl
theorem ld (f : Fields) : Statement (.ld f) := word _ f rfl rfl rfl
theorem st (f : Fields) : Statement (.st f) := word _ f rfl rfl rfl
theorem ldb (f : Fields) : Statement (.ldb f) := word _ f rfl rfl rfl
theorem stb (f : Fields) : Statement (.stb f) := word _ f rfl rfl rfl
theorem ldu (f : Fields) : Statement (.ldu f) := word _ f rfl rfl rfl
theorem stu (f : Fields) : Statement (.stu f) := word _ f rfl rfl rfl
theorem ldnf (f : Fields) : Statement (.ldnf f) := word _ f rfl rfl rfl
theorem pf (f : Fields) : Statement (.pf f) := word _ f rfl rfl rfl
theorem cflu (f : Fields) : Statement (.cflu f) := word _ f rfl rfl rfl
theorem cinv (f : Fields) : Statement (.cinv f) := word _ f rfl rfl rfl
theorem atom (f : Fields) : Statement (.atom f) := word _ f rfl rfl rfl
theorem acas (f : Fields) : Statement (.acas f) := word _ f rfl rfl rfl
theorem red (f : Fields) : Statement (.red f) := word _ f rfl rfl rfl
theorem atomu (f : Fields) : Statement (.atomu f) := word _ f rfl rfl rfl
theorem acasu (f : Fields) : Statement (.acasu f) := word _ f rfl rfl rfl
theorem fence (f : Fields) : Statement (.fence f) := word _ f rfl rfl rfl
theorem tdef (f : Fields) : Statement (.tdef f) := word _ f rfl rfl rfl
theorem tacq (f : Fields) : Statement (.tacq f) := word _ f rfl rfl rfl
theorem trdy (f : Fields) : Statement (.trdy f) := word _ f rfl rfl rfl
theorem trel (f : Fields) : Statement (.trel f) := word _ f rfl rfl rfl
theorem tstat (f : Fields) : Statement (.tstat f) := word _ f rfl rfl rfl
theorem acopyIn (f : Fields) : Statement (.acopyIn f) := by
  intro h
  have ok := ok_of_wf (.acopyIn f) _ f rfl rfl h
  have k : mdB f 0 = false := by simp at ok; simp [ok]
  refine word (.acopyIn f) f rfl rfl ?_ h
  show (if mdB f 0 then some (Instr.acopyOut f) else some (Instr.acopyIn f)) = some _
  simp [k]
theorem acopyOut (f : Fields) : Statement (.acopyOut f) := by
  intro h
  have ok := ok_of_wf (.acopyOut f) _ f rfl rfl h
  have k : mdB f 0 = true := by simp at ok; simp [ok]
  refine word (.acopyOut f) f rfl rfl ?_ h
  show (if mdB f 0 then some (Instr.acopyOut f) else some (Instr.acopyIn f)) = some _
  simp [k]
theorem acopygIn (f : Fields) : Statement (.acopygIn f) := by
  intro h
  have ok := ok_of_wf (.acopygIn f) _ f rfl rfl h
  have k : mdB f 0 = false := by simp at ok; simp [ok]
  refine word (.acopygIn f) f rfl rfl ?_ h
  show (if mdB f 0 then some (Instr.acopygOut f) else some (Instr.acopygIn f)) = some _
  simp [k]
theorem acopygOut (f : Fields) : Statement (.acopygOut f) := by
  intro h
  have ok := ok_of_wf (.acopygOut f) _ f rfl rfl h
  have k : mdB f 0 = true := by simp at ok; simp [ok]
  refine word (.acopygOut f) f rfl rfl ?_ h
  show (if mdB f 0 then some (Instr.acopygOut f) else some (Instr.acopygIn f)) = some _
  simp [k]
theorem waitz (f : Fields) : Statement (.waitz f) := word _ f rfl rfl rfl
theorem apf (f : Fields) : Statement (.apf f) := word _ f rfl rfl rfl
theorem aev (f : Fields) : Statement (.aev f) := word _ f rfl rfl rfl
theorem shopen (f : Fields) : Statement (.shopen f) := word _ f rfl rfl rfl
theorem publ (f : Fields) : Statement (.publ f) := word _ f rfl rfl rfl
theorem kvsum (f : Fields) : Statement (.kvsum f) := word _ f rfl rfl rfl
theorem mcfg (f : Fields) : Statement (.mcfg f) := word _ f rfl rfl rfl
theorem mldw (f : Fields) : Statement (.mldw f) := word _ f rfl rfl rfl
theorem mswap (f : Fields) : Statement (.mswap f) := word _ f rfl rfl rfl
theorem mmul (f : Fields) : Statement (.mmul f) := word _ f rfl rfl rfl
theorem mzero (f : Fields) : Statement (.mzero f) := word _ f rfl rfl rfl
theorem mrsum (f : Fields) : Statement (.mrsum f) := word _ f rfl rfl rfl
theorem mcsum (f : Fields) : Statement (.mcsum f) := word _ f rfl rfl rfl
theorem mload (f : Fields) : Statement (.mload f) := word _ f rfl rfl rfl
theorem mdrain (f : Fields) : Statement (.mdrain f) := word _ f rfl rfl rfl
theorem smxi (f : Fields) : Statement (.smxi f) := word _ f rfl rfl rfl
theorem smxu (f : Fields) : Statement (.smxu f) := word _ f rfl rfl rfl
theorem smxm (f : Fields) : Statement (.smxm f) := word _ f rfl rfl rfl
theorem smxf (f : Fields) : Statement (.smxf f) := word _ f rfl rfl rfl
theorem smxs (f : Fields) : Statement (.smxs f) := word _ f rfl rfl rfl
theorem smxl (f : Fields) : Statement (.smxl f) := word _ f rfl rfl rfl
theorem attn (f : Fields) : Statement (.attn f) := word _ f rfl rfl rfl
theorem conftTop (f : Fields) : Statement (.conftTop f) := by
  intro h
  have ok := ok_of_wf (.conftTop f) _ f rfl rfl h
  have k : mdB f 0 = false := by simp at ok; simp [ok]
  refine word (.conftTop f) f rfl rfl ?_ h
  show (if mdB f 0 then some (Instr.conftMrg f) else some (Instr.conftTop f)) = some _
  simp [k]
theorem conftMrg (f : Fields) : Statement (.conftMrg f) := by
  intro h
  have ok := ok_of_wf (.conftMrg f) _ f rfl rfl h
  have k : mdB f 0 = true := by simp at ok; simp [ok]
  refine word (.conftMrg f) f rfl rfl ?_ h
  show (if mdB f 0 then some (Instr.conftMrg f) else some (Instr.conftTop f)) = some _
  simp [k]
theorem bfq (f : Fields) : Statement (.bfq f) := word _ f rfl rfl rfl
theorem bar (f : Fields) : Statement (.bar f) := word _ f rfl rfl rfl
theorem barm (f : Fields) : Statement (.barm f) := word _ f rfl rfl rfl
theorem barv (f : Fields) : Statement (.barv f) := word _ f rfl rfl rfl
theorem wait (f : Fields) : Statement (.wait f) := word _ f rfl rfl rfl
theorem launch (f : Fields) : Statement (.launch f) := word _ f rfl rfl rfl
theorem migrate (f : Fields) : Statement (.migrate f) := word _ f rfl rfl rfl
theorem regdon (f : Fields) : Statement (.regdon f) := word _ f rfl rfl rfl
theorem pgrant (f : Fields) : Statement (.pgrant f) := word _ f rfl rfl rfl
theorem trapret (f : Fields) : Statement (.trapret f) := by
  intro h
  have ok := ok_of_wf (.trapret f) _ f rfl rfl h
  have k : mdN f 0 2 = 0 := by simp at ok; simp [ok]
  refine word (.trapret f) f rfl rfl ?_ h
  show (if mdN f 0 2 = 0 then some (Instr.trapret f) else if mdN f 0 2 = 1 then some (Instr.trapretSkip f)
      else if mdN f 0 2 = 2 then some (Instr.trapretKill f) else none) = some _
  simp [k]
theorem trapretSkip (f : Fields) : Statement (.trapretSkip f) := by
  intro h
  have ok := ok_of_wf (.trapretSkip f) _ f rfl rfl h
  have k : mdN f 0 2 = 1 := by simp at ok; simp [ok]
  refine word (.trapretSkip f) f rfl rfl ?_ h
  show (if mdN f 0 2 = 0 then some (Instr.trapret f) else if mdN f 0 2 = 1 then some (Instr.trapretSkip f)
      else if mdN f 0 2 = 2 then some (Instr.trapretKill f) else none) = some _
  simp [k]
theorem trapretKill (f : Fields) : Statement (.trapretKill f) := by
  intro h
  have ok := ok_of_wf (.trapretKill f) _ f rfl rfl h
  have k : mdN f 0 2 = 2 := by simp at ok; simp [ok]
  refine word (.trapretKill f) f rfl rfl ?_ h
  show (if mdN f 0 2 = 0 then some (Instr.trapret f) else if mdN f 0 2 = 1 then some (Instr.trapretSkip f)
      else if mdN f 0 2 = 2 then some (Instr.trapretKill f) else none) = some _
  simp [k]
theorem csrr (f : Fields) : Statement (.csrr f) := word _ f rfl rfl rfl
theorem csrw (f : Fields) : Statement (.csrw f) := word _ f rfl rfl rfl
theorem tlbinvAddr (f : Fields) : Statement (.tlbinvAddr f) := by
  intro h
  have ok := ok_of_wf (.tlbinvAddr f) _ f rfl rfl h
  have k : mdN f 3 2 = 0 := by simp at ok; simp [ok]
  refine word (.tlbinvAddr f) f rfl rfl ?_ h
  show (if mdN f 3 2 = 0 then some (Instr.tlbinvAddr f) else if mdN f 3 2 = 1 then some (Instr.tlbinvAsid f)
      else if mdN f 3 2 = 2 then some (Instr.tlbinvAll f) else none) = some _
  simp [k]
theorem tlbinvAsid (f : Fields) : Statement (.tlbinvAsid f) := by
  intro h
  have ok := ok_of_wf (.tlbinvAsid f) _ f rfl rfl h
  have k : mdN f 3 2 = 1 := by simp at ok; simp [ok]
  refine word (.tlbinvAsid f) f rfl rfl ?_ h
  show (if mdN f 3 2 = 0 then some (Instr.tlbinvAddr f) else if mdN f 3 2 = 1 then some (Instr.tlbinvAsid f)
      else if mdN f 3 2 = 2 then some (Instr.tlbinvAll f) else none) = some _
  simp [k]
theorem tlbinvAll (f : Fields) : Statement (.tlbinvAll f) := by
  intro h
  have ok := ok_of_wf (.tlbinvAll f) _ f rfl rfl h
  have k : mdN f 3 2 = 2 := by simp at ok; simp [ok]
  refine word (.tlbinvAll f) f rfl rfl ?_ h
  show (if mdN f 3 2 = 0 then some (Instr.tlbinvAddr f) else if mdN f 3 2 = 1 then some (Instr.tlbinvAsid f)
      else if mdN f 3 2 = 2 then some (Instr.tlbinvAll f) else none) = some _
  simp [k]
theorem pgref (f : Fields) : Statement (.pgref f) := word _ f rfl rfl rfl
theorem ptw (f : Fields) : Statement (.ptw f) := word _ f rfl rfl rfl
theorem vsave (f : Fields) : Statement (.vsave f) := word _ f rfl rfl rfl
theorem vrest (f : Fields) : Statement (.vrest f) := word _ f rfl rfl rfl
theorem accsv (f : Fields) : Statement (.accsv f) := word _ f rfl rfl rfl
theorem accrs (f : Fields) : Statement (.accrs f) := word _ f rfl rfl rfl
theorem tsv (f : Fields) : Statement (.tsv f) := word _ f rfl rfl rfl
theorem trs (f : Fields) : Statement (.trs f) := word _ f rfl rfl rfl
theorem pcsv (f : Fields) : Statement (.pcsv f) := word _ f rfl rfl rfl
theorem pcrs (f : Fields) : Statement (.pcrs f) := word _ f rfl rfl rfl
theorem lnkq (f : Fields) : Statement (.lnkq f) := word _ f rfl rfl rfl
theorem halt (f : Fields) : Statement (.halt f) := word _ f rfl rfl rfl
theorem delayExpiry (w : Nat) : Statement (.delayExpiry w) := event _ rfl
theorem sleepExpiry (w : Nat) (lanes : BitVec 32) : Statement (.sleepExpiry w lanes) := event _ rfl
theorem starvationCount (w : Nat) : Statement (.starvationCount w) := event _ rfl
theorem resultReturn (w : Nat) (idx : Nat) : Statement (.resultReturn w idx) := event _ rfl
theorem hoopAge (core : Nat) (hoop : Nat) : Statement (.hoopAge core hoop) := event _ rfl
theorem hoopDraw (core : Nat) (hoop : Nat) : Statement (.hoopDraw core hoop) := event _ rfl
theorem swapOut (gid : Nat) : Statement (.swapOut gid) := event _ rfl
theorem swapIn (gid : Nat) : Statement (.swapIn gid) := event _ rfl
theorem migrateLand (w : Nat) : Statement (.migrateLand w) := event _ rfl
theorem waitRecheck (w : Nat) : Statement (.waitRecheck w) := event _ rfl
theorem copyInLanded (id : Nat) : Statement (.copyInLanded id) := event _ rfl
theorem copyOutAccepted (id : Nat) : Statement (.copyOutAccepted id) := event _ rfl
theorem capCopyComplete (id : Nat) : Statement (.capCopyComplete id) := event _ rfl
theorem matrixComplete (gid : Nat) (idx : Nat) : Statement (.matrixComplete gid idx) := event _ rfl
theorem matrixFetchFault (gid : Nat) (idx : Nat) : Statement (.matrixFetchFault gid idx) := event _ rfl
theorem pageWalk (core : Nat) (asid : Nat) (ptbase : Nat) (va : BitVec 64) : Statement (.pageWalk core asid ptbase va) := event _ rfl
theorem intake (pkg : Nat) : Statement (.intake pkg) := event _ rfl
theorem lctailAppend (pkg : Nat) (chain : Nat) (val : BitVec 64) : Statement (.lctailAppend pkg chain val) := event _ rfl
theorem lcheadRetry (pkg : Nat) (chain : Nat) (val : BitVec 64) : Statement (.lcheadRetry pkg chain val) := event _ rfl
theorem lcheadDropOne (pkg : Nat) (chain : Nat) (val : BitVec 64) : Statement (.lcheadDropOne pkg chain val) := event _ rfl
theorem lcheadDropAll (pkg : Nat) (chain : Nat) (val : BitVec 64) : Statement (.lcheadDropAll pkg chain val) := event _ rfl
theorem dispatch (pkg : Nat) : Statement (.dispatch pkg) := event _ rfl
theorem stagingComplete (gid : Nat) (wg : Nat) : Statement (.stagingComplete gid wg) := event _ rfl
theorem launchComplete (lid : Nat) : Statement (.launchComplete lid) := event _ rfl
theorem bucketRefill (pkg : Nat) : Statement (.bucketRefill pkg) := event _ rfl
theorem preempt (gid : Nat) : Statement (.preempt gid) := event _ rfl
theorem migratedWarpReturn (w : Nat) : Statement (.migratedWarpReturn w) := event _ rfl
theorem preEmpted (gid : Nat) : Statement (.preEmpted gid) := event _ rfl
theorem hardwareSave (gid : Nat) : Statement (.hardwareSave gid) := event _ rfl
theorem programFaultDelivery (w : Nat) : Statement (.programFaultDelivery w) := event _ rfl
theorem workgroupFaultEnd (gid : Nat) : Statement (.workgroupFaultEnd gid) := event _ rfl
theorem serviceRingPost (die : Nat) : Statement (.serviceRingPost die) := event _ rfl
theorem storeError (pkg : Nat) (err : StoreErr) : Statement (.storeError pkg err) := event _ rfl
theorem powerWindow (die : Nat) : Statement (.powerWindow die) := event _ rfl
theorem thermalThrottle (die : Nat) (celsius : Int) : Statement (.thermalThrottle die celsius) := event _ rfl
theorem pwrctlWrite (pkg : Nat) (val : BitVec 64) : Statement (.pwrctlWrite pkg val) := event _ rfl
theorem flitReceive (link : Nat) (atB : Bool) (flit : Flit) (noise : List (Nat × Byte)) (badLanes : List Nat) : Statement (.flitReceive link atB flit noise badLanes) := event _ rfl
theorem nak (link : Nat) (atB : Bool) (seq : BitVec 12) : Statement (.nak link atB seq) := event _ rfl
theorem laneRetire (link : Nat) (lane : Nat) : Statement (.laneRetire link lane) := event _ rfl
theorem rateFallback (link : Nat) : Statement (.rateFallback link) := event _ rfl
theorem lnkctlRetrain (link : Nat) (val : BitVec 64) : Statement (.lnkctlRetrain link val) := event _ rfl
theorem trainingAttempt (link : Nat) (pass : Bool) : Statement (.trainingAttempt link pass) := event _ rfl
theorem hbmTemperature (die : Nat) (stk : Nat) (celsius : Int) (laneFault : Option Nat) : Statement (.hbmTemperature die stk celsius laneFault) := event _ rfl
theorem hbmWidthChange (die : Nat) (stk : Nat) (chan : Nat) : Statement (.hbmWidthChange die stk chan) := event _ rfl
theorem fabricPacketReceive (pkg : Nat) (pkt : Packet) (how : Arrival) : Statement (.fabricPacketReceive pkg pkt how) := event _ rfl
theorem fabricResend (pkg : Nat) (dst : Nat) (kind : PacketKind) (seq : Nat) : Statement (.fabricResend pkg dst kind seq) := event _ rfl
theorem readMiss (die : Nat) (line : Nat) : Statement (.readMiss die line) := event _ rfl
theorem writeGrant (die : Nat) (line : Nat) (asid : Nat) (dup : Bool) : Statement (.writeGrant die line asid dup) := event _ rfl
theorem injectionOffer (pkg : Nat) (src : Nat) (gpn : Nat) : Statement (.injectionOffer pkg src gpn) := event _ rfl
theorem l2WriteBack (die : Nat) (line : Nat) : Statement (.l2WriteBack die line) := event _ rfl
theorem firstWriteRetry (w : Nat) : Statement (.firstWriteRetry w) := event _ rfl
theorem amopDiscard (pkg : Nat) (gpn : Nat) : Statement (.amopDiscard pkg gpn) := event _ rfl
theorem amopPin (pkg : Nat) (gpn : Nat) : Statement (.amopPin pkg gpn) := event _ rfl
theorem amopUnpin (pkg : Nat) (gpn : Nat) : Statement (.amopUnpin pkg gpn) := event _ rfl
theorem amopLost (pkg : Nat) (lost : Nat) : Statement (.amopLost pkg lost) := event _ rfl
theorem dieReset (die : Nat) : Statement (.dieReset die) := event _ rfl
theorem snpinv (die : Nat) (addr : Nat) : Statement (.snpinv die addr) := event _ rfl
theorem snpdata (die : Nat) (addr : Nat) : Statement (.snpdata die addr) := event _ rfl
theorem hostRead (host : Nat) (pkg : Nat) (addr : Nat) (len : Nat) : Statement (.hostRead host pkg addr len) := event _ rfl
theorem hostWrite (host : Nat) (pkg : Nat) (addr : Nat) (bytes : List (BitVec 8)) : Statement (.hostWrite host pkg addr bytes) := event _ rfl
theorem biasopToDevice (pkg : Nat) (gpn : Nat) : Statement (.biasopToDevice pkg gpn) := event _ rfl
theorem biasopToHost (pkg : Nat) (host : Nat) (gpn : Nat) : Statement (.biasopToHost pkg host gpn) := event _ rfl
theorem backfillAccept (pkg : Nat) : Statement (.backfillAccept pkg) := event _ rfl
theorem batchAge (pkg : Nat) : Statement (.batchAge pkg) := event _ rfl
theorem batchEmit (pkg : Nat) : Statement (.batchEmit pkg) := event _ rfl
theorem bfcfgWrite (pkg : Nat) (val : BitVec 64) : Statement (.bfcfgWrite pkg val) := event _ rfl
theorem scrubCheck (die : Nat) : Statement (.scrubCheck die) := event _ rfl
theorem alarm (pkg : Nat) (sources : BitVec 4) : Statement (.alarm pkg sources) := event _ rfl
theorem alarmcfgWrite (pkg : Nat) (val : BitVec 64) : Statement (.alarmcfgWrite pkg val) := event _ rfl
theorem attcmd (pkg : Nat) : Statement (.attcmd pkg) := event _ rfl
theorem counterEvent (core : Nat) (idx : Nat) : Statement (.counterEvent core idx) := event _ rfl
theorem cntvalWrite (core : Nat) (idx : Nat) (val : BitVec 64) : Statement (.cntvalWrite core idx val) := event _ rfl
theorem bringUp (cfg : BootCfg) : Statement (.bringUp cfg) := event _ rfl
theorem registerWrite (pkg : Nat) (page : Nat) (off : Nat) (size : Nat) (val : BitVec 64) : Statement (.registerWrite pkg page off size val) := event _ rfl
theorem fabricPortLinkChange (pkg : Nat) (port : Nat) (up : Bool) : Statement (.fabricPortLinkChange pkg port up) := event _ rfl
theorem dieLeavesReset (die : Nat) : Statement (.dieLeavesReset die) := event _ rfl
theorem powerLoss (pkg : Nat) : Statement (.powerLoss pkg) := event _ rfl

end Sys2Proof.Laws.Encoding
end

