-- ==== Sys2Proof/Tests/Slice0.lean ====
section
/-! SUPPORT. Tests: words written out from the encoding tables, ill-formed terms, worked examples of the spec, and for each
statement with hypotheses a state and operands that meet them. Each test is one step on a small state. -/
open Sys2Proof Sys2Proof.Machine
namespace Sys2Proof.Tests
set_option Elab.async false

/-! ### Small states -/

/-- A word's fields with every bit zero. -/
def noFields : Fields :=
  { ga := ⟨false, 0⟩, gb := ⟨false, 0⟩, sw := false, dly := 0, ch := 0, d := 0, a := .v 0, b := .v 0, c := .v 0, e := 0,
    md := 0, imm := 0 }

/-- The unit of log entry 9: a user warp with key 0, a service warp with key 34, a sequencer with key 40. -/
def placed0 : State := State.reset.placed []

/-- The warp `key`, changed by `g`, issues with the lanes `lanes`. -/
def issuing (key : Nat) (lanes : LaneMask) (g : Warp → Warp) (s : State) : State :=
  { s with warps := amod s.warps key g, cur := some ⟨key, lanes, 0x10000, false⟩ }

def user (lanes : LaneMask) (g : Warp → Warp) : State := issuing 0 lanes g placed0
def service (g : Warp → Warp) : State := issuing 34 1 g placed0
def sequencer (g : Warp → Warp) : State := issuing 40 1 g placed0

/-- A warp with some uniform registers set. -/
def withU (xs : List (Nat × Word)) (w : Warp) : Warp :=
  xs.foldl (fun w x => { w with uregs := w.uregs.set x.1 x.2 }) w

/-- A warp with some vector registers set in every lane, or by lane. -/
def withV (n : Nat) (tag : BitVec 5) (g : Nat → Word) (w : Warp) : Warp :=
  { w with vregs := w.vregs.set n { tag := tag, shape := .general, lanes := (List.range 32).map g } }

def withQ (n : Nat) (g : Nat → PBits) (w : Warp) : Warp := { w with preds := w.preds.set n ((List.range 32).map g) }

def withMem (k : Nat) (bs : List Byte) (s : State) : State := { s with mem := memSetAll s.mem (atAddrs k bs) }

def nextOf (o : Out) : Option State := match o with | .next t => some t | _ => none
def warpOf (o : Out) (key : Nat) : Option Warp := (nextOf o).bind fun t => aget t.warps key

/-- The writes of the last result that a warp has outstanding. -/
def lastWrites (w : Warp) : List RegWrite := match w.flights.getLast? with | some g => g.writes.map Prod.fst | none => []

/-- Uniform register `n` of the issuing warp after an issue, when its outstanding results have returned. -/
def uAfter (o : Out) (key n : Nat) : Option Word :=
  (warpOf o key).map fun w => ((lastWrites w).foldl Warp.put w).u n
def vAfter (o : Out) (n l : Nat) : Option Word :=
  (warpOf o 0).map fun w => (((lastWrites w).foldl Warp.put w).v n).lanes.getD l 0
def tagAfter (o : Out) (n : Nat) : Option (BitVec 5) :=
  (warpOf o 0).map fun w => (((lastWrites w).foldl Warp.put w).v n).tag
def qAfter (o : Out) (n l : Nat) : Option PBits :=
  (warpOf o 0).map fun w => (((lastWrites w).foldl Warp.put w).q n).getD l 0
def flagsAfter (o : Out) : Option (BitVec 5) :=
  (warpOf o 0).map fun w => match w.flights.getLast? with | some g => g.flags | none => w.allFlags
def pcAfter (o : Out) (l : Nat) : Option Word := (warpOf o 0).map fun w => (w.lane l).pc
def stAfter (o : Out) (key l : Nat) : Option LaneSt := (warpOf o key).map fun w => (w.lane l).st
def byteAfter (o : Out) (k : Nat) : Option Byte := (nextOf o).map fun t => memGet t.mem k
def leAfter (o : Out) (k n : Nat) : Option Nat := (nextOf o).map fun t => t.le k n

/-! ### What a statement's hypotheses ask for -/

def theIssue (s : State) : Issue := s.cur.getD ⟨0, 0, 0, false⟩
def theWarp (s : State) : Warp := (aget s.warps (theIssue s).key).getD benchWarp
def envOf (s : State) (f : Fields) : Env := s.issueEnv (theIssue s) (theWarp s) f
def baseOf (s : State) : State := s.issueBase (theIssue s) (theWarp s)

def ready (s : State) (i : Instr) (f : Fields) : Bool :=
  s.cur.isSome && (aget s.warps (theIssue s).key).isSome && (decodeFault (theWarp s) i f).isNone

theorem issues_of_ready {s : State} {i : Instr} {f : Fields} (h : ready s i f = true) :
    Issues s i f (envOf s f) (baseOf s) := by
  simp only [ready, Bool.and_eq_true, Option.isSome_iff_exists, Option.isNone_iff_eq_none] at h
  obtain ⟨⟨⟨c, hc⟩, w, hw⟩, hd⟩ := h
  have h1 : theIssue s = c := by simp [theIssue, hc]
  have h2 : theWarp s = w := by simp [theWarp, hw]
  exact ⟨c, w, hc, h1 ▸ hw, h2 ▸ hd, by rw [envOf, h1, h2], by rw [baseOf, h1, h2]⟩

/-- The instruction issues in `s`, and what it reads meets `pre`. -/
def Meets (s : State) (mk : Fields → Instr) (f : Fields) (pre : Env → State → Prop) : Prop :=
  ∃ e s1, Issues s (mk f) f e s1 ∧ pre e s1

theorem meets {s : State} {mk : Fields → Instr} {f : Fields} {pre : Env → State → Prop} (h : ready s (mk f) f = true)
    (hp : pre (envOf s f) (baseOf s)) : Meets s mk f pre := ⟨_, _, issues_of_ready h, hp⟩

theorem all_meet {s : State} {xs : List ((Fields → Instr) × Fields)} {pre : Env → State → Prop}
    (h : ∀ p ∈ xs, ready s (p.1 p.2) p.2 = true ∧ pre (envOf s p.2) (baseOf s)) : ∀ p ∈ xs, Meets s p.1 p.2 pre :=
  fun p hp => meets (h p hp).1 (h p hp).2

theorem Meets.imp {s : State} {mk : Fields → Instr} {f : Fields} {p q : Env → State → Prop} (h : ∀ e s1, p e s1 → q e s1) :
    Meets s mk f p → Meets s mk f q := fun ⟨e, s1, hi, hp⟩ => ⟨e, s1, hi, h e s1 hp⟩

/-! ### Well-formed words: for each check a term that it refuses -/

def refused (xs : List Instr) : Bool := xs.all fun i => !wf i

/-- R65: a vector instruction in the sequencer, a matrix instruction in a warp, a privileged one in the sequencer. -/
theorem test_wf_agents :
    wfFor true (.vmov noFields) = false ∧ wfFor false (.mswap noFields) = false ∧ wfFor true (.halt noFields) = false ∧
      wfFor false (.vmov noFields) = true ∧ wfFor true (.mswap noFields) = true ∧ wfFor false (.halt noFields) = true := by decide

/-- R44: CH of an instruction that does not list it. -/
theorem test_wf_channel : refused [.nop { noFields with ch := 1 }] = true := by decide

/-- R52: D or E unused, of four registers, uniform, predicate, tile; a link register in the sequencer. -/
theorem test_wf_registers :
    refused [.nop { noFields with d := 1 }, .ldb { noFields with d := 6, a := .u 0, md := 9 },
      .sadd { noFields with d := 64, a := .u 0, b := .u 0 }, .scmp { noFields with d := 8, a := .u 0, b := .u 0 },
      .tacq { noFields with d := 64 }, .ssel { noFields with a := .u 0, b := .u 0, e := 8 }] = true ∧
    wfFor true (.call { noFields with d := 64 }) = false ∧ wfFor false (.call { noFields with d := 64 }) = true := by decide

/-- R49, R52: an unused source, a class that a position does not take, a predicate index of 8. -/
theorem test_wf_sources :
    refused [.nop { noFields with a := .u 0 }, .vnot { noFields with b := .v 1 }, .sadd { noFields with a := .v 0, b := .u 0 },
      .brx { noFields with a := .imm }, .vmov { noFields with a := .u 0 }, .ret { noFields with a := .sp 0 },
      .pnot { noFields with a := .v 8 }] = true := by decide

/-- R45, R62, R97: a MOD bit outside the entry's fields; FMT given beside a vector source, missing or reserved without one. -/
theorem test_wf_modifiers :
    refused [.nop { noFields with md := 1 }, .vmov { noFields with md := 0x20 }, .vadd { noFields with md := 0x20 },
      .vadd { noFields with a := .u 0, b := .u 0 }, .vadd { noFields with a := .u 0, b := .u 0, md := 0x14 * 32 },
      .vand { noFields with md := 0x14 * 32 }, .vmovi { noFields with a := .imm }] = true := by decide

/-- R50: IMM without a class-10 source or a purpose, or with bits outside its purpose. -/
theorem test_wf_immediates :
    refused [.nop { noFields with imm := 1 }, .sadd { noFields with a := .u 0, b := .u 0, imm := 1 },
      .trap { noFields with imm := 0x10000 }, .brx { noFields with a := .u 0, imm := 8 }, .vlop3 { noFields with imm := 0x100 },
      .sbfx { noFields with a := .u 0, b := .imm, c := .u 0, imm := 0x100 },
      .vshfl { noFields with b := .imm, imm := 0x20 }, .pmov { noFields with a := .imm, imm := 0x10000 }] = true := by decide

/-- R25, R93, R108, R128, R139, R147: codes of rounding, compares, iterations, reductions and votes. -/
theorem test_wf_codes :
    refused [.vfadd { noFields with md := 5 * 2 }, .scmp { noFields with a := .u 0, b := .u 0, md := 6 * 4 },
      .vcmp { noFields with md := 6 * 65536 }, .vfcmp { noFields with md := 8 * 65536 }, .vexp { noFields with md := 7 * 1024 },
      .vred { noFields with md := 1 * 16384 }, .vred { noFields with md := 2 * 16384 + 1 }, .vred { noFields with md := 2 },
      .vvote { noFields with md := 3 }, .vvote { noFields with e := 1 }, .vunpack { noFields with md := 0x10 * 32 }] = true := by
  decide

/-- R150, R156, R159 to R164: the checks of memory words. -/
theorem test_wf_memory :
    refused [.ld { noFields with a := .u 0 }, .ld { noFields with a := .u 0, md := 9 + 3 * 4096 },
      .ld { noFields with a := .u 0, md := 9 + 512 }, .ld { noFields with a := .u 0, md := 9 + 256 },
      .st { noFields with a := .u 0, md := 9 }, .st { noFields with a := .u 0, c := .u 0 },
      .stb { noFields with a := .u 0, c := .v 2 }, .ldu { noFields with a := .u 0, b := .u 0, md := 1 },
      .atom { noFields with a := .u 0, md := 5 }, .acas { noFields with a := .u 0, md := 3 },
      .red { noFields with a := .u 0, md := 9 + 4096 }, .cflu { noFields with a := .u 0, md := 6 * 512 },
      .fence { noFields with md := 6 * 512 }] = true := by decide

/-- R170 to R177, R183: the checks of tile and copy words. -/
theorem test_wf_tiles :
    refused [.tdef { noFields with a := .u 0 }, .tdef { noFields with a := .u 0, md := 0x0B },
      .tdef { noFields with a := .u 0, md := 9, imm := 0x100 }, .tdef { noFields with a := .u 0, md := 9, imm := 0x400000 },
      .acopyIn { noFields with a := .u 0, b := .u 0, e := 48 }, .acopyIn { noFields with a := .u 0, b := .u 0, md := 2, e := 47 },
      .acopyIn { noFields with a := .u 0, b := .u 0, md := 1 }, .acopyOut { noFields with a := .u 0, b := .u 0 },
      .waitz { noFields with a := .u 47 }, .publ { noFields with a := .u 0, b := .u 0, md := 6 }] = true := by decide

/-- R186, R190, R197, R199 to R204: the checks of matrix, softmax and attention words. -/
theorem test_wf_matrix :
    refused [.mcfg noFields, .mcfg { noFields with md := 0x11 + 0x11 * 32 + 1024 },
      .mcfg { noFields with md := 3 + 3 * 32 }, .mcfg { noFields with md := 0x11 + 0x11 * 32 + 3 * 4096 },
      .mzero { noFields with imm := 127 + 1 * 131072 }, .mzero { noFields with imm := 1023 * 128 },
      .mdrain { noFields with a := .u 0, b := .u 0, e := 1 }, .mdrain { noFields with a := .u 0, b := .u 0, md := 6 * 8 },
      .smxi { noFields with imm := 127 + 1 * 131072 }, .smxu { noFields with md := 1023 }, .smxu { noFields with md := 3 },
      .smxu { noFields with md := 4, e := 1 }, .smxm noFields, .smxm { noFields with md := 1023 * 128 },
      .attn { noFields with a := .u 0, b := .u 48 }, .attn { noFields with a := .u 0, md := 1, b := .u 47 },
      .attn { noFields with a := .u 0, d := 1 }] = true := by decide

/-- R209, R218, R221 to R228, R234: the checks of synchronization and system words. -/
theorem test_wf_system :
    refused [.bar { noFields with md := 4 }, .bar { noFields with md := 1, imm := 4 }, .barm { noFields with md := 2 },
      .barm { noFields with imm := 32 * 65536 }, .barv { noFields with a := .u 0, md := 6 },
      .wait { noFields with a := .u 0, b := .u 0, md := 6 }, .regdon { noFields with a := .u 0, md := 31 },
      .csrr { noFields with b := .u 0, imm := 0x15 }, .csrw { noFields with a := .u 0, b := .u 0, imm := 0x0D },
      .trapret { noFields with a := .u 0, b := .u 0, md := 1 }, .tlbinvAll { noFields with md := 8 },
      .tlbinvAddr { noFields with a := .u 0, b := .u 0, md := 6 }, .ptw { noFields with a := .u 0, b := .u 0, c := .u 0, md := 6 },
      .pgref { noFields with a := .u 0, b := .u 0, md := 6 }, .tsv { noFields with a := .u 0, e := 63, md := 1 },
      .lnkq { noFields with imm := 0x70 }] = true ∧
    wfFor true (.bar noFields) = false ∧ wfFor false (.bar noFields) = true := by decide

/-- R89: `%lane` is not uniform, and is one for the sequencer. -/
theorem test_wf_uniform_specials :
    wfFor false (.smov { noFields with a := .sp 1 }) = false ∧ wfFor true (.smov { noFields with a := .sp 1 }) = true ∧
      wfFor false (.smov { noFields with a := .sp 0 }) = true := by decide

/-- A step of another agent is no instruction word. -/
theorem test_wf_events : wf (.delayExpiry 0) = false := by decide

/-! ### Words of the spec's encodings, byte 0 first -/

def reads (bs : List Byte) (i : Instr) : Prop := (decode (bytesWord bs)).toOption = some i

/-- The encoding chapter's example: `(q1, !q2) vadd.sat v4, v5, s3 : sw, dly=3`. -/
theorem test_decode_vadd : reads [0x00, 0x09, 0x3D, 0x08, 0x0A, 0x06, 0, 0, 0x88, 0, 0, 0, 0, 0, 0, 0]
    (.vadd { noFields with ga := ⟨false, 1⟩, gb := ⟨true, 2⟩, sw := true, dly := 3, d := 4, a := .v 5, b := .u 3, md := 1 }) := by
  unfold reads; decide
/-- The example beside R83: `(q2) call v20, scale_rows`. -/
theorem test_decode_call : reads [0x03, 0x10, 0, 0x28, 0, 0, 0, 0, 0, 0, 0, 0, 0x30, 0, 0, 0]
    (.call { noFields with ga := ⟨false, 2⟩, d := 20, imm := 0x30 }) := by unfold reads; decide
/-- Hand-encoded by R44, R91: `sadd s5, s6, 3`. -/
theorem test_decode_sadd : reads [0x80, 0, 0, 0x0A, 0x0C, 0, 0, 0, 0x12, 0, 0, 0, 3, 0, 0, 0]
    (.sadd { noFields with d := 5, a := .u 6, b := .imm, imm := 3 }) := by unfold reads; decide
/-- Hand-encoded by R44, R108: `(!q2) vcmp.lt q3, v1, v2`. -/
theorem test_decode_vcmp : reads [0x8D, 0x51, 0, 0x06, 0x02, 0x04, 0, 0, 0, 0, 0, 1, 0, 0, 0, 0]
    (.vcmp { noFields with ga := ⟨true, 2⟩, d := 3, a := .v 1, b := .v 2, md := 0x20000 }) := by unfold reads; decide
/-- Hand-encoded by R44, R111: `vfma v8, v1, v2, v3` with RND 1. -/
theorem test_decode_vfma : reads [0x03, 0x02, 0, 0x10, 0x02, 0x04, 0x06, 0, 0, 0x01, 0, 0, 0, 0, 0, 0]
    (.vfma { noFields with d := 8, a := .v 1, b := .v 2, c := .v 3, md := 2 }) := by unfold reads; decide
/-- The example beside R119: `vcvt.f8e4m3.sat v6, v7, part 1`. -/
theorem test_decode_vcvt : reads [0x80, 0x02, 0, 0x0C, 0x0E, 0, 0, 0, 0x80, 0xC0, 0, 0, 1, 0, 0, 0]
    (.vcvt { noFields with d := 6, a := .v 7, md := 1 + 0x0C * 32, imm := 1 }) := by unfold reads; decide
/-- Hand-encoded by R44, R128: `vexp2 v9, v1 : sw` with 12 iterations. -/
theorem test_decode_vexp2 : reads [0x00, 0x03, 0x08, 0x12, 0x02, 0, 0, 0, 0, 0, 0x18, 0, 0, 0, 0, 0]
    (.vexp2 { noFields with sw := true, d := 9, a := .v 1, md := 12 * 1024 }) := by unfold reads; decide
/-- The example beside R140: `vred.fadd v12, v3, q5 : sw`. -/
theorem test_decode_vred : reads [0x40, 0x03, 0x08, 0x18, 0x06, 0, 0, 0x0A, 0, 0, 0, 1, 0, 0, 0, 0]
    (.vred { noFields with sw := true, d := 12, a := .v 3, e := 5, md := 8 * 16384 }) := by unfold reads; decide
/-- Hand-encoded by R44, R144: `vshfl.xor v4, v1, 5`. -/
theorem test_decode_vshfl : reads [0x80, 0x03, 0, 0x08, 0x02, 0, 0, 0, 0x90, 0x01, 0, 0, 5, 0, 0, 0]
    (.vshfl { noFields with d := 4, a := .v 1, b := .imm, md := 3, imm := 5 }) := by unfold reads; decide
/-- The example beside R158: `ld.i32.swz2.die.acq v10, [s4 + v2 + 0x40] : sw`. -/
theorem test_decode_ld : reads [0x00, 0x04, 0x08, 0x14, 0x08, 0x04, 0, 0, 0x02, 0x24, 0x0A, 0, 0x40, 0, 0, 0]
    (.ld { noFields with sw := true, d := 10, a := .u 4, b := .v 2, md := 8 + 2 * 32 + 2 * 512 + 1 * 4096, imm := 0x40 }) := by
  unfold reads; decide
/-- The examples of the handoff and attraction programs: an `ldu` with its absent B, a `cinv`. -/
theorem test_decode_ldu : reads [0x04, 0x04, 0x08, 0x0C, 0x06, 0, 0, 0, 0x9A, 0x04, 0x0D, 0, 0, 0, 0, 0]
    (.ldu { noFields with sw := true, d := 6, a := .u 3, b := .sp 0, md := 9 + 5 * 512 + 1 * 4096 }) := by unfold reads; decide
theorem test_decode_cinv : reads [0x09, 0x04, 0x08, 0, 0x18, 0x02, 0, 0, 0x02, 0, 0x03, 0, 0, 0, 0, 0]
    (.cinv { noFields with sw := true, a := .u 12, b := .v 1, md := 3 * 512 }) := by unfold reads; decide
/-- Hand-encoded by R44, R164, R165: `atom.min.u32` at scope 2 of `v7` into `v6`, at s4 + v0 + 8. -/
theorem test_decode_atom : reads [0x80, 0x04, 0, 0x0C, 0x08, 0, 0x0E, 0, 0x82, 0x03, 0x42, 0, 8, 0, 0, 0]
    (.atom { noFields with d := 6, a := .u 4, b := .v 0, c := .v 7, md := 7 + 2 * 512 + 2 * 16384, imm := 8 }) := by
  unfold reads; decide
/-- The example of the integer product program: `tdef t3`. -/
theorem test_decode_tdef : reads [0x00, 0x05, 0x08, 0x06, 0x08, 0, 0, 0, 0x02, 0x04, 0x04, 0, 3, 3, 0, 0]
    (.tdef { noFields with sw := true, d := 3, a := .u 4, md := 8 + 2 * 1024, imm := 0x0303 }) := by unfold reads; decide
/-- Hand-encoded by R44, R193: `mmul.zero t2` at row 3. -/
theorem test_decode_mmul : reads [0x83, 0x05, 0, 0, 0, 0, 0, 0x04, 0x80, 0, 0, 0, 3, 0, 0, 0]
    (.mmul { noFields with e := 2, md := 1, imm := 3 }) := by unfold reads; decide
/-- The matrix chapter's example: `smxu.pden t5, acc[0, 0], acc[0, 16]`; the `smxm` of the attention program. -/
theorem test_decode_smxu : reads [0x01, 0x06, 0, 0x0A, 0, 0, 0, 0, 0, 0x08, 0x02, 0x04, 0, 0, 0x06, 0x03]
    (.smxu { noFields with d := 5, md := 16 + 1 * 1024 + 2 ^ 19, imm := 0x03060000 }) := by unfold reads; decide
theorem test_decode_smxm : reads [0x02, 0x06, 0, 0, 0, 0, 0, 0, 0, 0x02, 0x04, 0, 0, 0x08, 0x06, 0x01]
    (.smxm { noFields with md := 0x804, imm := 0x01060800 }) := by unfold reads; decide
/-- The example beside R214: `wait.pod [s8], s20 : sw`; the `vsave` of the context save program. -/
theorem test_decode_wait : reads [0x83, 0x06, 0x08, 0, 0x10, 0x28, 0, 0, 0x0A, 0x02, 0, 0, 0, 0, 0, 0]
    (.wait { noFields with sw := true, a := .u 8, b := .u 20, md := 4 }) := by unfold reads; decide
theorem test_decode_vsave : reads [0x06, 0x07, 0x08, 0, 0x70, 0, 0, 0, 0x82, 0x07, 0, 0, 0x40, 0x06, 0, 0]
    (.vsave { noFields with sw := true, a := .u 56, c := .v 0, md := 15, imm := 0x640 }) := by unfold reads; decide

/-- R49, R66: a class-01 field of 64, a class-10 field that is not zero, a special code of 16, an unused opcode, group 0xF. -/
theorem test_decode_refuses :
    ([[0x80, 0, 0, 0, 0x80, 0, 0, 0, 0x02, 0, 0, 0, 0, 0, 0, 0], [0x80, 0, 0, 0, 0x02, 0, 0, 0, 0x04, 0, 0, 0, 0, 0, 0, 0],
      [0x80, 0, 0, 0, 0x20, 0, 0, 0, 0x06, 0, 0, 0, 0, 0, 0, 0], [0x0C, 0, 0, 0, 0, 0, 0, 0, 0, 0, 0, 0, 0, 0, 0, 0],
      [0x80, 0x07, 0, 0, 0, 0, 0, 0, 0, 0, 0, 0, 0, 0, 0, 0]].all
      fun bs => (decode (bytesWord bs)).toOption.isNone) = true := by decide

/-- What the host asks: the word fetched next is the one that runs. -/
theorem test_fetch_runs : (nextOf (step (State.reset.withFetchWord 128 0x00000003000000120000000C0A000080))).bind
    (fun t => (aget t.warps 0).map fun w => w.u 5) = some 3 := by decide

/-! ### Groups 0x0 and 0x1 -/

/-- s6 = 0x8000000000000000 and s7 = 0, as in the examples of R95. -/
def r95 : State := user 1 (withU [(6, 0x8000000000000000)])
/-- D s9, A s6, B immediate. -/
def opS6 (imm : BitVec 32) (md : BitVec 25) : Fields := { noFields with d := 9, a := .u 6, b := .imm, imm := imm, md := md }

/-- R95: the first examples: `sdiv s6, s7`, `sdiv s6, -1`, `sdiv.u s6, 3`, `srem s6, 3`. -/
theorem test_sdiv_by_zero :
    uAfter (exec (.sdiv { noFields with d := 9, a := .u 6, b := .u 7 }) r95) 0 9 = some 0xFFFFFFFFFFFFFFFF := by decide
theorem test_sdiv_overflow : uAfter (exec (.sdiv (opS6 0xFFFFFFFF 0)) r95) 0 9 = some 0x8000000000000000 := by decide
theorem test_sdiv_unsigned : uAfter (exec (.sdiv (opS6 3 1)) r95) 0 9 = some 0x2AAAAAAAAAAAAAAA := by decide
theorem test_srem_sign : uAfter (exec (.srem (opS6 3 0)) r95) 0 9 = some 0xFFFFFFFFFFFFFFFE := by decide
/-- R95: `ssub.sat s6, 1`. -/
theorem test_ssub_sat : uAfter (exec (.ssub (opS6 1 2)) r95) 0 9 = some 0x8000000000000000 := by decide
/-- R95: `smov 0x80000000` extends by sign; `smovh 0x12345678` of a register that holds 9. -/
theorem test_smov_sign :
    uAfter (exec (.smov { noFields with d := 9, a := .imm, imm := 0x80000000 }) r95) 0 9 = some 0xFFFFFFFF80000000 := by decide
theorem test_smovh : uAfter (exec (.smovh { noFields with d := 6, a := .imm, imm := 0x12345678 })
    (user 1 (withU [(6, 0x9ABCDEF0)]))) 0 6 = some 0x123456789ABCDEF0 := by decide
/-- R95: `sbfx s6, 60, 8` takes the four bits that there are, signed; `sclz s7` of zero. -/
theorem test_sbfx_top : uAfter (exec (.sbfx { noFields with d := 9, a := .u 6, b := .imm, c := .imm, imm := 0x083C }) r95) 0 9
    = some 0xFFFFFFFFFFFFFFF8 := by decide
theorem test_sclz_zero : uAfter (exec (.sclz { noFields with d := 9, a := .u 7 }) r95) 0 9 = some 0x40 := by decide
/-- R91: unsigned saturation of a sum, and the high half of a signed product. -/
theorem test_sadd_unsigned_sat : uAfter (exec (.sadd { noFields with d := 9, a := .u 6, b := .u 6, md := 3 }) r95) 0 9
    = some 0xFFFFFFFFFFFFFFFF := by decide
theorem test_smulh_signed : uAfter (exec (.smulh (opS6 2 0)) r95) 0 9 = some 0xFFFFFFFFFFFFFFFF := by decide
theorem test_ssra_all : uAfter (exec (.ssra (opS6 64 0)) r95) 0 9 = some 0xFFFFFFFFFFFFFFFF := by decide
theorem test_sshl_all : uAfter (exec (.sshl (opS6 64 0)) r95) 0 9 = some 0 := by decide
theorem test_smin_signed : uAfter (exec (.smin (opS6 1 0)) r95) 0 9 = some 0x8000000000000000 := by decide
theorem test_smax_unsigned : uAfter (exec (.smax (opS6 1 1)) r95) 0 9 = some 0x8000000000000000 := by decide
/-- R93: -2^63 is less than 1 as a signed number only. -/
theorem test_scmp_signed : qAfter (exec (.scmp { opS6 1 0 with d := 3, md := 2 * 4 }) r95) 3 0 = some 0xFFFF := by decide
theorem test_scmp_unsigned : qAfter (exec (.scmp { opS6 1 0 with d := 3, md := 2 * 4 + 1 }) r95) 3 0 = some 0 := by decide

/-- The uniform instructions of two sources issue with a taking lane and a register that is no bound counter; so do those of
one source and `ssel`. -/
def uniformForms : List ((Fields → Instr) × Fields) :=
  [Instr.sadd, .ssub, .smul, .smulh, .sdiv, .srem, .smin, .smax, .sand, .sor, .sxor, .sshl, .sshr, .ssra].map
    (fun mk => (mk, { noFields with d := 63, a := .u 63, b := .u 0 })) ++
  [Instr.smov, .smovh, .spopc, .sclz].map (fun mk => (mk, { noFields with d := 63, a := .u 63 })) ++
  [(Instr.ssel, { noFields with d := 63, e := 7, a := .u 63, b := .imm }),
   (Instr.sbfx, { noFields with d := 63, a := .u 63, b := .u 0, c := .u 1 })]

theorem wit_uniform : ∀ p ∈ uniformForms, Meets r95 p.1 p.2 fun e _ => e.taking ≠ 0 ∧ e.w.busy p.2.d.toNat = false :=
  fun p hp => meets ((by decide : ∀ p ∈ uniformForms, ready r95 (p.1 p.2) p.2 = true) p hp)
    ((by decide : ∀ p ∈ uniformForms, (envOf r95 p.2).taking ≠ 0 ∧ (envOf r95 p.2).w.busy p.2.d.toNat = false) p hp)

/-! ### Group 0x0 -/

/-- Lanes 0 and 1 issue; q1 takes lane 1 alone. -/
def pairSt (g : Warp → Warp) : State := user 3 fun w => g (withQ 1 (fun l => if l = 1 then 0xFFFF else 0) w)
def onQ1 : Fields := { noFields with ga := ⟨false, 1⟩ }

/-- R79: a taking lane goes 16 words back, the other one to the next word. -/
theorem test_bra_target : pcAfter (exec (.bra { onQ1 with imm := 0xFFFFFFF0 }) (pairSt id)) 1 = some 0xFF00 := by decide
theorem test_bra_other : pcAfter (exec (.bra { onQ1 with imm := 0xFFFFFFF0 }) (pairSt id)) 0 = some 0x10010 := by decide
/-- R80: each lane has its own target; a target that is no multiple of 16 parks its lane with ALIGN. -/
def brxSt : State := user 3 (withV 2 0x0B fun l => if l = 1 then 0x2008 else 0x2000)
theorem test_brx_lane : pcAfter (exec (.brx { noFields with a := .v 2 }) brxSt) 0 = some 0x2000 := by decide
theorem test_brx_align : (stAfter (exec (.brx { noFields with a := .v 2 }) brxSt) 0 1).map (fun x => match x with
    | .park c _ _ => c | _ => 0) = some 0x04 := by decide
/-- R83: `ret` takes no I64. -/
theorem test_ret_tag : (stAfter (exec (.ret { noFields with a := .v 2 }) (user 1 (withV 2 0x0A fun _ => 0x2000))) 0 0).map
    (fun x => match x with | .park c _ _ => c | _ => 0) = some 0x03 := by decide
/-- R82: the link is the next word. -/
theorem test_call_link : vAfter (exec (.call { noFields with d := 20, imm := 0x30 }) (user 1 id)) 20 0 = some 0x10010 := by decide
theorem test_callx_link : vAfter (exec (.callx { noFields with d := 20, a := .u 3 }) (user 1 (withU [(3, 0x4000)]))) 20 0
    = some 0x10010 := by decide
/-- R87: a sleeping lane's counter is past the instruction. -/
theorem test_sleep_holds : stAfter (exec (.sleep { noFields with a := .imm, imm := 5 }) (user 1 id)) 0 0 = some (.hold (.sleep 6)) := by
  decide
/-- R88: the number of a `trap`. -/
theorem test_trap_code : stAfter (exec (.trap { noFields with imm := 0xABCD }) (user 1 id)) 0 0 = some (.park 0x10 0xABCD 0) := by
  decide
theorem test_brk_code : stAfter (exec (.brk { noFields with imm := 7 }) (user 1 id)) 0 0 = some (.park 0x11 7 0) := by decide
/-- R84: an exit of every lane ends the warp. -/
theorem test_exit_ends : warpOf (exec (.exit noFields) (user 0xFFFFFFFF id)) 0 = none := by decide
/-- R85: a filed lane's thread stands in a hoop keyed by the next word. -/
theorem test_reform_files : (nextOf (exec (.reform noFields) (user 1 id))).map (fun t => (t.core 0).hoops.map Hoop.pc)
    = some [0x10010] := by decide

theorem wit_plain_control : (∀ p ∈ [((Instr.nop : Fields → Instr), noFields), (.yield, noFields), (.bra, onQ1)],
      Meets (pairSt id) p.1 p.2 fun _ _ => True) ∧
    Meets (pairSt id) .sleep { noFields with a := .imm } (fun e _ => e.sleepCount = 0) ∧
    Meets (pairSt (withU [(3, 2 ^ 40)])) .sleep { noFields with a := .u 3 } (fun e _ => e.sleepCount = 2 ^ 32 - 1) :=
  ⟨all_meet (by decide), meets (by decide) (by decide), meets (by decide) (by decide)⟩

/-- Highest and lowest canonical targets, one in a register of lanes, one in a uniform register. -/
theorem wit_register_branches :
    (∀ mk ∈ [Instr.brx, .ret], Meets (user 3 (withV 2 0x0B fun l => if l = 1 then 0x007FFFFFFFFFFFF0 else 0xFF80000000000000))
      mk { noFields with a := .v 2 } fun e _ => TargetsGood e ∧ (e.v 2).tag = 0x0B) ∧
    Meets (user 3 (withV 2 0x0A fun _ => 0x2000)) .brx { noFields with a := .v 2 } (fun e _ => TargetsGood e ∧ (e.v 2).tag = 0x0A) ∧
    Meets (user 3 (withU [(5, 0x2000)])) .callx { noFields with d := 3, a := .u 5 } (fun e _ => TargetsGood e) ∧
    Meets (sequencer (withU [(5, 0x2000)])) .ret { noFields with a := .u 5 } (fun e _ => TargetsGood e) := by
  refine ⟨?_, meets (by decide) (by unfold TargetsGood; decide), meets (by decide) (by unfold TargetsGood; decide),
    meets (by decide) (by unfold TargetsGood; decide)⟩
  intro mk h
  exact meets ((by decide : ∀ mk ∈ [Instr.brx, .ret], ready _ (mk { noFields with a := .v 2 }) { noFields with a := .v 2 } = true) mk h)
    (by unfold TargetsGood; decide)

theorem wit_calls : Meets (user 3 id) .call { noFields with d := 63 } (fun e _ => e.taking ≠ 0) ∧
    Meets (user 0 id) .call { noFields with d := 63 } (fun e _ => e.taking = 0) ∧
    Meets (sequencer id) .call { noFields with d := 20 } (fun e _ => e.isSeq = true ∧ e.taking ≠ 0 ∧ e.w.busy 20 = false) :=
  ⟨meets (by decide) (by decide), meets (by decide) (by decide), meets (by decide) (by decide)⟩

/-- A result outstanding for the user warp. -/
def flying (w : Warp) : Warp := { w with flights := [{ id := 9, born := 0, writes := [(.u 7 1, .sure)], flags := 0, tile := none }] }

theorem wit_exit : Meets (user 0xFFFFFFFF id) .exit noFields (fun e _ => e.taking ≠ 0 ∧ e.w.flights = [] ∧
      e.w.handler ≠ .preempt ∧ e.w.kind = .user ∧
      (∀ l x, e.w.lanes[l]? = some x → x.st = .exited ∨ e.waited.taking.getLsbD l = true) ∧ ∀ b ∈ e.w.bound, b.2 = 0) ∧
    Meets (user 1 fun w => { w with handler := .preempt }) .exit noFields
      (fun e _ => e.taking ≠ 0 ∧ e.w.flights = [] ∧ e.w.handler = .preempt) ∧
    Meets (user 1 flying) .exit noFields (fun e _ => e.taking ≠ 0 ∧ e.w.flights ≠ []) := by
  refine ⟨meets (by decide) ⟨by decide, by decide, by decide, by decide, fun l x h => .inr ?_, by decide⟩,
    meets (by decide) (by decide), meets (by decide) (by decide)⟩
  have hl : l < 32 := (List.getElem?_eq_some_iff.1 h).1
  exact (by decide : ∀ l < 32, (envOf (user 0xFFFFFFFF id) noFields).waited.taking.getLsbD l = true) l hl

/-- The launch's DONATE flag. -/
def withFlags (x : BitVec 16) (s : State) : State :=
  { s with launches := amod s.launches 1 fun l => { l with record := { l.record with flags := x } } }

theorem wit_reform : Meets (withFlags 4 (user 3 id)) .reform noFields
      (fun e s1 => (s1.recOf e.w).map LRec.donate = some true) ∧
    Meets (user 0 id) .reform noFields (fun e s1 => (s1.recOf e.w).map LRec.donate = some false ∧ e.taking = 0) ∧
    Meets (user 0xFFFFFFFF id) .reform noFields (fun e s1 => (s1.recOf e.w).map LRec.donate = some false ∧ e.taking ≠ 0 ∧
      e.w.flights = [] ∧ (∀ b ∈ e.w.bound, b.2 = 0) ∧
      (s1.core e.w.core).hoops.length + (lanesOf e.waited.taking).length ≤ 32) :=
  ⟨meets (by decide) (by decide), meets (by decide) (by decide), meets (by decide) (by decide)⟩

def trapForms : List ((Fields → Instr) × Fields) := [(.trap, { noFields with imm := 0xFFFF }), (.brk, noFields)]

theorem wit_traps : (∀ p ∈ trapForms,
      Meets (user 3 id) p.1 p.2 fun e _ => e.w.kind = .user) ∧
    (∀ p ∈ trapForms,
      Meets (service id) p.1 p.2 fun e _ => e.w.kind ≠ .user ∧ e.taking ≠ 0) :=
  ⟨all_meet (by decide), all_meet (by decide)⟩

/-- A bound counter above zero: the register writers' destination, and a source (R56). -/
def boundSt : State := user 1 fun w => { w with bound := [(48, 1)] }

def countedForms : List ((Fields → Instr) × Fields) := uniformForms.map fun p => (p.1, { p.2 with d := 48 })

theorem wit_bound_counter :
    (∀ p ∈ countedForms, Meets boundSt p.1 p.2 fun e _ => e.taking ≠ 0 ∧ e.w.busy p.2.d.toNat = true) ∧
    (let e := envOf boundSt noFields
     aget e.w.bound 48 = some 1 ∧ aget e.w.bound 63 = none ∧ e.w.recent = [] ∧ e.w.flights = []) := by
  refine ⟨fun p hp => ?_, by decide⟩
  exact meets ((by decide : ∀ p ∈ countedForms, ready boundSt (p.1 p.2) p.2 = true) p hp)
    ((by decide : ∀ p ∈ countedForms, (envOf boundSt p.2).taking ≠ 0 ∧ (envOf boundSt p.2).w.busy p.2.d.toNat = true) p hp)

/-! ### Groups 0x2 to 0x5 -/

/-- v1, v2 and v3 hold the same value in every lane, tagged `t`. -/
def vec (t : BitVec 5) (a b c : Word) : State :=
  user 0xFFFFFFFF fun w => withV 1 t (fun _ => a) (withV 2 t (fun _ => b) (withV 3 t (fun _ => c) w))
def v12 : Fields := { noFields with d := 4, a := .v 1, b := .v 2 }
def v123 : Fields := { v12 with c := .v 3 }

/-- The numbers chapter's example: I8 100 + 50 wraps to 0x96 and with SAT clamps to 0x7F. -/
theorem test_vadd_wraps : (vAfter (exec (.vadd v12) (vec 4 0x64 0x32 0)) 4 0) = some 0x96 := by decide
theorem test_vadd_sat : (vAfter (exec (.vadd { v12 with md := 1 }) (vec 4 0x64 0x32 0)) 4 31) = some 0x7F := by decide
/-- R104's example: `vdot.sat` of I8 and U8 into I32. -/
theorem test_vdot : vAfter (exec (.vdot { v123 with md := 1, d := 3 })
    (user 1 fun w => withV 1 4 (fun _ => 0x08070605FC03FE01) (withV 2 3 (fun _ => 0x040302010A0A0A0A)
      (withV 3 8 (fun _ => 0x64) w)))) 3 0 = some 0x0000004600000050 := by decide
/-- Hand-calculated from R102 on I32: products wrap, `vmulh` gives bits [63:32], `vabsd` an unsigned result. -/
theorem test_vmul_wraps : vAfter (exec (.vmul v12) (vec 8 0x80000000 2 0)) 4 0 = some 0 := by decide
theorem test_vmulh_high : vAfter (exec (.vmulh v12) (vec 8 0x80000000 2 0)) 4 0 = some 0xFFFFFFFF := by decide
theorem test_vmad : vAfter (exec (.vmad v123) (vec 8 3 4 5)) 4 0 = some 17 := by decide
theorem test_vmadw_high : vAfter (exec (.vmadw { v123 with md := 16 })
    (user 1 fun w => withV 1 7 (fun _ => 0xFFFFFFFF00000000) (withV 2 7 (fun _ => 0xFFFFFFFF00000000) (withV 3 9 (fun _ => 1) w)))) 4 0
    = some 0xFFFFFFFE00000002 := by decide
theorem test_vabsd_tag : tagAfter (exec (.vabsd v12) (vec 8 0x80000000 0x7FFFFFFF 0)) 4 = some 7 := by decide
theorem test_vabsd : vAfter (exec (.vabsd v12) (vec 8 0x80000000 0x7FFFFFFF 0)) 4 0 = some 0xFFFFFFFF := by decide
theorem test_vsub_address : tagAfter (exec (.vsub v12)
    (user 1 fun w => withV 1 0x0B (fun _ => 8) (withV 2 0x0A (fun _ => 9) w))) 4 = some 0x0B := by decide
theorem test_vmin_signed : vAfter (exec (.vmin v12) (vec 8 0x80000000 1 0)) 4 0 = some 0x80000000 := by decide
theorem test_vmax_unsigned : vAfter (exec (.vmax v12) (vec 7 0x80000000 1 0)) 4 0 = some 0x80000000 := by decide
theorem test_vabs_sat : vAfter (exec (.vabs { noFields with d := 4, a := .v 1, md := 1 }) (vec 4 0x80 0 0)) 4 0 = some 0x7F := by decide
theorem test_vneg_wraps : vAfter (exec (.vneg { noFields with d := 4, a := .v 1 }) (vec 4 0x8001 0 0)) 4 0 = some 0x80FF := by decide
/-- R106: lut 0xEA is (A AND B) OR C. -/
theorem test_vlop3 : vAfter (exec (.vlop3 { v123 with imm := 0xEA }) (vec 9 0xFF00 0xF0F0 0x000F)) 4 0 = some 0xF00F := by decide
theorem test_vand : vAfter (exec (.vand v12) (vec 9 0xFF00 0xF0F0 0)) 4 0 = some 0xF000 := by decide
theorem test_vnot_keeps_tag : tagAfter (exec (.vnot { noFields with d := 4, a := .v 1 }) (vec 0x12 0 0 0)) 4 = some 0x12 := by decide
/-- R107: counts of the full width, an arithmetic shift, a rotation. -/
theorem test_vshl_all : vAfter (exec (.vshl v12) (vec 8 0xFFFFFFFF 0x20 0)) 4 0 = some 0 := by decide
theorem test_vsra : vAfter (exec (.vsra v12) (vec 8 0x80000000 0x21 0)) 4 0 = some 0xFFFFFFFF := by decide
theorem test_vrotl : vAfter (exec (.vrotl v12) (vec 7 0x80000001 1 0)) 4 0 = some 3 := by decide
theorem test_vbfx_signed : vAfter (exec (.vbfx { noFields with d := 4, a := .v 1, b := .imm, c := .imm, imm := 0x0404 }) (vec 8 0xF0 0 0)) 4 0
    = some 0xFFFFFFFF := by decide
theorem test_vbfi : vAfter (exec (.vbfi { v12 with imm := 0x0404 }) (vec 7 0xFFFF 0 0)) 4 0 = some 0xFF0F := by decide
theorem test_vpopc : vAfter (exec (.vpopc { noFields with d := 4, a := .v 1 }) (vec 7 0xF0F00000001 0 0)) 4 0 = some 0x800000001 := by
  decide
theorem test_vclz_zero : vAfter (exec (.vclz { noFields with d := 4, a := .v 1 }) (vec 5 1 0 0)) 4 0 = some 0x001000100010000F := by
  decide
/-- R108: a compare on I32 writes bits 0 and 1 and clears the rest. -/
theorem test_vcmp : qAfter (exec (.vcmp { v12 with d := 3, md := 2 * 65536 })
    (user 1 fun w => withQ 3 (fun _ => 0xFFFF) (withV 1 8 (fun _ => 0x0000000280000000) (withV 2 8 (fun _ => 0x0000000100000001) w)))) 3 0
    = some 1 := by decide
theorem test_vsel : vAfter (exec (.vsel { v12 with e := 3 }) (user 1 fun w =>
    withQ 3 (fun _ => 2) (withV 1 8 (fun _ => 0x1111111122222222) (withV 2 8 (fun _ => 0x3333333344444444) w)))) 4 0
    = some 0x1111111144444444 := by decide
/-- R98, R110: an immediate in every sub-element of a 16-bit format. -/
theorem test_vmovi : vAfter (exec (.vmovi { noFields with d := 4, a := .imm, imm := 0xFFFF8001, md := 6 * 32 }) (user 1 id)) 4 0
    = some 0x8001800180018001 := by decide

/-- R114's example: `vfcmp.lt` of (NaN, 1.0) and (-0.0, +0.0). -/
def nanSt : State := user 1 fun w => withQ 2 (fun _ => 0xFFFF) (withV 1 0x12 (fun _ => 0x800000007FC00000) (withV 2 0x12 (fun _ => 0x3F800000) w))
theorem test_vfcmp_lt : qAfter (exec (.vfcmp { v12 with d := 2, md := 2 * 65536 }) nanSt) 2 0 = some 0 := by decide
theorem test_vfcmp_flags : flagsAfter (exec (.vfcmp { v12 with d := 2, md := 2 * 65536 }) nanSt) = some 1 := by decide
theorem test_vfcmp_ne : qAfter (exec (.vfcmp { v12 with d := 2, md := 1 * 65536 }) nanSt) 2 0 = some 1 := by decide
/-- IEEE 754 cases by R111 and R113: 1.5 + 2.25, 1 + 2^-24 to even, (1 + 2^-23)(1 - 2^-23) - 1 fused, 1 and a quiet NaN. -/
theorem test_vfadd : vAfter (exec (.vfadd v12) (vec 0x12 0x3FC00000 0x40100000 0)) 4 0 = some 0x40700000 := by decide
theorem test_vfadd_tie : flagsAfter (exec (.vfadd v12) (vec 0x12 0x3F800000 0x33800000 0)) = some 0x10 := by decide
theorem test_vfma_fused : vAfter (exec (.vfma v123) (vec 0x12 0x3F800001 0x3F7FFFFE 0xBF800000)) 4 0 = some 0xA8800000 := by decide
theorem test_vfmul_special : vAfter (exec (.vfmul v12) (vec 0x12 0x7F800000 0 0)) 4 0 = some 0x7FC00000 := by decide
theorem test_vfmin_number : vAfter (exec (.vfmin v12) (vec 0x12 0x3F800000 0x7FC00000 0)) 4 0 = some 0x3F800000 := by decide
theorem test_vfneg : vAfter (exec (.vfneg { noFields with d := 4, a := .v 1 }) (vec 0x12 0x7F800001 0 0)) 4 0
    = some 0x80000000FF800001 := by decide
theorem test_vfrnd : vAfter (exec (.vfrnd { noFields with d := 4, a := .v 1 }) (vec 0x12 0x40200000 0 0)) 4 0 = some 0x40000000 := by
  decide
theorem test_vfclass : qAfter (exec (.vfclass { noFields with d := 3, a := .v 1, imm := 0x3FF }) (vec 0x12 0 0 0)) 3 0 = some 3 := by
  decide
/-- The vector chapter's example, part 1 of an F32 register to E4M3 with SAT: 1000.0 and -1.0 give 0x7E and 0xB8. -/
theorem test_vcvt_part : vAfter (exec (.vcvt { noFields with d := 4, a := .v 1, md := 1 + 0x0C * 32, imm := 1 })
    (vec 0x12 0xBF800000447A0000 0 0)) 4 0 = some 0x00000000B87E0000 := by decide
/-- R23: 0.05 lies below the smallest L6 magnitude and above its half. -/
theorem test_vcvt_l6 : (vAfter (exec (.vcvt { noFields with d := 4, a := .v 1, md := 0x0E * 32 }) (vec 0x12 0x3D4CCCCD 0 0)) 4 0).map
    (fun x => x.extractLsb' 0 6) = some 0x11 := by decide +kernel
/-- R122, R123: the bits stay, the tag changes; shape and tag codes. -/
theorem test_vtag : tagAfter (exec (.vtag { noFields with d := 4, a := .v 1, md := 0x12 * 32 }) (vec 8 5 0 0)) 4 = some 0x12 := by decide
theorem test_vtagq : uAfter (exec (.vtagq { noFields with d := 9, a := .v 1 }) (vec 8 5 0 0)) 0 9 = some 8 := by decide
theorem test_vpack : vAfter (exec (.vpack { v12 with md := 0x11 * 32 }) (vec 0x12 0x400000003F800000 0xC0000000BF800000 0)) 4 0
    = some 0xC000BF8040003F80 := by decide +kernel
theorem test_vunpack : vAfter (exec (.vunpack { noFields with d := 4, e := 5, a := .v 1, md := 0x12 * 32 }) (vec 0x11 0xC000BF8040003F80 0 0)) 5 0
    = some 0xC0000000BF800000 := by decide

def one : Fields := { noFields with d := 4, a := .v 1 }

/-- The lane-wise integer and logic instructions on registers, on a register and an address, and on an immediate. -/
def intForms : List ((Fields → Instr) × Fields) :=
  [Instr.vadd, .vsub, .vmul, .vmulh, .vabsd, .vmin, .vmax, .vshl, .vshr, .vsra, .vrotl].flatMap fun mk =>
    [(mk, v12), (mk, { v12 with b := .imm, imm := 0xFFFFFFFF }), (mk, { v12 with a := .u 3, b := .sp 0, md := 8 * 32 })]

theorem wit_vector_integers :
    (∀ p ∈ intForms, Meets (vec 8 1 2 3) p.1 p.2 fun e _ => e.intOk (e.mixFmt [e.f.a, e.f.b]) [e.f.a, e.f.b] = true ∧
      e.valueFaults (e.mixFmt [e.f.a, e.f.b]) [e.f.a, e.f.b] = none) ∧
    Meets (vec 8 1 2 3) .vmad v123 (fun e _ => let xs := [e.f.a, e.f.b, e.f.c]
      e.intOk (e.mixFmt xs) xs = true ∧ e.valueFaults (e.mixFmt xs) xs = none) ∧
    Meets (vec 8 1 2 3) .vbfx { v12 with b := .imm, c := .imm, imm := 0x2000 } (fun e _ => let xs := [e.f.a, e.f.b, e.f.c]
      e.intOk (e.mixFmt xs) xs = true ∧
        e.valueFaults (e.mixFmt xs) (if e.f.a = .imm then xs else xs.filter (· ≠ .imm)) = none) ∧
    (∀ p ∈ [((Instr.vabs : Fields → Instr), one), (.vneg, one)], Meets (vec 8 1 2 3) p.1 p.2 fun e _ =>
      e.intOk (e.mixFmt [e.f.a]) [e.f.a] = true ∧ e.valueFaults (e.mixFmt [e.f.a]) [e.f.a] = none) :=
  ⟨all_meet (by decide), meets (by decide) (by decide), meets (by decide) (by decide), all_meet (by decide)⟩

theorem wit_widening :
    Meets (user 1 fun w => withV 1 7 (fun _ => 1) (withV 2 8 (fun _ => 2) (withV 3 0x0A (fun _ => 3) w))) .vmadw v123
      (fun e _ => e.wideOk 32 fun w => 2 * w) ∧
    Meets (user 1 fun w => withV 1 6 (fun _ => 1) (withV 2 5 (fun _ => 2) (withV 3 0x0A (fun _ => 3) w))) .vdot v123
      (fun e _ => e.wideOk 16 fun w => if w = 16 then 64 else 32) := by
  refine ⟨meets (by decide) ⟨by decide, by decide, by decide, by decide, ?_, by decide, by decide, by decide⟩,
    meets (by decide) ⟨by decide, by decide, by decide, by decide, ?_, by decide, by decide, by decide⟩⟩ <;>
    (intro t h; exact (Option.some.inj (h.symm.trans rfl) : t = 0x0A).trans (by decide))

theorem wit_vector_logic :
    (∀ p ∈ [((Instr.vand : Fields → Instr), v12), (.vor, v12), (.vxor, v12), (.vand, { v12 with a := .u 3, b := .imm, md := 0x12 * 32 })],
      Meets (vec 0x12 1 2 3) p.1 p.2 fun e _ => e.bitsOk (e.opFmt [e.f.a, e.f.b]) [e.f.a, e.f.b] = true ∧
        e.valueFaults (e.opFmt [e.f.a, e.f.b]) [e.f.a, e.f.b] = none) ∧
    Meets (vec 0x0E 1 2 3) .vnot one (fun e _ => e.bitsOk (e.opFmt [e.f.a]) [e.f.a] = true ∧
      e.valueFaults (e.opFmt [e.f.a]) [e.f.a] = none) ∧
    Meets (vec 9 1 2 3) .vlop3 { v123 with imm := 0xFF } (fun e _ => let xs := [e.f.a, e.f.b, e.f.c]
      e.bitsOk (e.opFmt xs) xs = true ∧ e.valueFaults (e.opFmt xs) xs = none) ∧
    Meets (vec 7 1 2 3) .vbfi { v12 with imm := 0x201F } (fun e _ => let xs := [e.f.a, e.f.b]
      fmtIntAddr (e.opFmt xs) = true ∧ e.sameTags xs = true ∧ e.valueFaults (e.opFmt xs) xs = none) ∧
    (∀ p ∈ [((Instr.vpopc : Fields → Instr), one), (.vclz, one)], Meets (vec 0x0B 1 2 3) p.1 p.2 fun e _ =>
      fmtIntAddr (e.opFmt [e.f.a]) = true ∧ e.valueFaults (e.opFmt [e.f.a]) [e.f.a] = none) :=
  ⟨all_meet (by decide), meets (by decide) (by decide), meets (by decide) (by decide), meets (by decide) (by decide),
    all_meet (by decide)⟩

theorem wit_compare_select_move :
    Meets (vec 8 1 2 3) .vcmp { v12 with d := 0, md := 5 * 65536 } (fun e _ => let xs := [e.f.a, e.f.b]
      e.intOk (e.mixFmt xs) xs = true ∧ e.valueFaults (e.mixFmt xs) xs = none) ∧
    Meets (vec 0x0C 1 2 3) .vsel { v12 with e := 7 } (fun e _ => let xs := [e.f.a, e.f.b]
      fmtCodeOk (e.opFmt xs) = true ∧ e.sameTags xs = true ∧ e.valueFaults (e.opFmt xs) xs = none) ∧
    Meets (vec 0x13 1 2 3) .vmov one (fun e _ => fmtCodeOk (e.opFmt [e.f.a]) = true ∧ e.valueFaults (e.opFmt [e.f.a]) [e.f.a] = none) ∧
    Meets (user 1 id) .vmovi { noFields with a := .imm, imm := 0x3F800000, md := 0x12 * 32 }
      (fun e _ => e.valueFaults (mdN e.f 5 5) [e.f.a] = none) :=
  ⟨meets (by decide) (by decide), meets (by decide) (by decide), meets (by decide) (by decide), meets (by decide) (by decide)⟩

def floatForms : List ((Fields → Instr) × Fields) :=
  [(.vfadd, v12), (.vfsub, v12), (.vfmul, v12), (.vfmin, v12), (.vfmax, v12), (.vfma, v123), (.vfclamp, v123)]

theorem wit_vector_floats :
    (∀ p ∈ floatForms, Meets (vec 0x10 1 2 3) p.1 p.2 fun e _ =>
      let xs := [e.f.a, e.f.b, e.f.c]
      fmtFloat16up (e.opFmt xs) = true ∧ e.sameTags [e.f.a, e.f.b] = true ∧ e.valueFaults (e.opFmt xs) xs = none) ∧
    (∀ p ∈ floatForms, Meets (vec 0x13 1 2 3) p.1 p.2 fun e _ =>
      let xs := [e.f.a, e.f.b, e.f.c]
      fmtFloat16up (e.opFmt xs) = true ∧ e.sameTags [e.f.a, e.f.b] = true ∧ e.valueFaults (e.opFmt xs) xs = none) ∧
    Meets (vec 0x10 1 2 3) .vfrnd { one with md := 4 * 2 } (fun e _ => fmtFloat16up (e.opFmt [e.f.a]) = true) ∧
    (∀ p ∈ [((Instr.vfabs : Fields → Instr), one), (.vfneg, one)], Meets (vec 0x0E 1 2 3) p.1 p.2 fun e _ =>
      (fmtFloat (e.opFmt [e.f.a]) || e.opFmt [e.f.a] == 0x0E) = true ∧ e.valueFaults (e.opFmt [e.f.a]) [e.f.a] = none) ∧
    Meets (user 1 fun w => withV 1 0x12 (fun _ => 1) (withV 2 8 (fun _ => 2) w)) .vfscale v12
      (fun e _ => fmtFloat (e.opFmt [e.f.a]) = true ∧ e.tagOf e.f.b = some (intFmt (fmtWidth (e.opFmt [e.f.a])) true) ∧
        e.valueFaults (intFmt (fmtWidth (e.opFmt [e.f.a])) true) [e.f.b] = none) ∧
    Meets (user 1 fun w => withV 1 0x0C (fun _ => 1) (withV 2 0x0F (fun _ => 0x80) w)) .vbsc v12
      (fun e _ => fmtFloat (e.opFmt [e.f.a]) = true ∧ e.tagOf e.f.b = some 0x0F ∧ e.valueFaults 0x0F [e.f.b] = none) ∧
    Meets (user 1 fun w => withV 1 0x0C (fun _ => 1) (withV 2 0x0C (fun _ => 2) (withV 3 0x12 (fun _ => 3) w))) .vfdot2
      { v123 with md := 16 } (fun e _ => e.opFmt [e.f.a, e.f.b, e.f.c] = 0x0C ∧ e.tagOf e.f.a = some 0x0C ∧
        e.tagOf e.f.b = some 0x0C ∧ e.tagOf e.f.c = some 0x12 ∧ e.valueFaults 0x0C [e.f.a, e.f.b] = none ∧
        e.valueFaults 0x12 [e.f.c] = none) :=
  ⟨all_meet (by decide), all_meet (by decide), meets (by decide) (by decide), all_meet (by decide), meets (by decide) (by decide),
    meets (by decide) (by decide), meets (by decide) (by decide)⟩

theorem wit_float_compare : (∀ p ∈ [((Instr.vfcmp : Fields → Instr), { v12 with d := 7, md := 7 * 65536 })],
      Meets (vec 0x0E 1 2 3) p.1 p.2 fun e _ => let xs := [e.f.a, e.f.b]
        (fmtFloat (e.opFmt xs) || e.opFmt xs == 0x0E) = true ∧ e.sameTags xs = true ∧ e.valueFaults (e.opFmt xs) xs = none) ∧
    Meets (vec 0x0D 1 2 3) .vfclass { one with d := 7, imm := 0x3FF } (fun e _ =>
      fmtFloat (e.opFmt [e.f.a]) = true ∧ e.valueFaults (e.opFmt [e.f.a]) [e.f.a] = none) :=
  ⟨all_meet (by decide), meets (by decide) (by decide)⟩

/-- The first and the last part, of a source with more and with fewer sub-elements than the result. -/
theorem wit_conversions :
    (∀ p ∈ [((Instr.vcvt : Fields → Instr), { one with md := 0x0C * 32, imm := 3 }), (.vcvt, { one with md := 0x0C * 32 }),
        (.vcvt, { one with md := 0x13 * 32, imm := 1 }), (.vcvt, { one with a := .u 3, md := 8 * 32 })],
      Meets (vec 0x12 1 2 3) p.1 p.2 fun e _ => let ts := (e.tagOf e.f.a).getD (mdN e.f 5 5)
        fmtConv ts = true ∧ fmtConv (mdN e.f 5 5) = true ∧
          immN e.f % 16 * min (nSub ts) (nSub (mdN e.f 5 5)) < max (nSub ts) (nSub (mdN e.f 5 5))) ∧
    Meets (vec 0x12 1 2 3) .vpack { v12 with md := 0x10 * 32 } (fun e _ => let ts := e.opFmt [e.f.a, e.f.b]
      fmtConv ts = true ∧ fmtConv (mdN e.f 5 5) = true ∧ ts ≠ 0x0E ∧ mdN e.f 5 5 ≠ 0x0E ∧ e.sameTags [e.f.a, e.f.b] = true ∧
        nSub (mdN e.f 5 5) = 2 * nSub ts) ∧
    Meets (vec 0x10 1 2 3) .vunpack { one with e := 5, md := 0x12 * 32 } (fun e _ => e.paired = false ∧ e.f.d ≠ e.f.e ∧
      fmtConv (e.opFmt [e.f.a]) = true ∧ fmtConv (mdN e.f 5 5) = true ∧ nSub (e.opFmt [e.f.a]) = 2 * nSub (mdN e.f 5 5)) ∧
    Meets (vec 0x10 1 2 3) .vtag { one with md := 0x13 * 32 } (fun e _ => e.f.a = .v 1 ∧ fmtCodeOk (e.v 1).tag.toNat = true ∧ e.taking ≠ 0) ∧
    Meets (vec 0x10 1 2 3) .vtagq { one with d := 63 } (fun e _ => e.f.a = .v 1 ∧ e.taking ≠ 0 ∧ e.w.busy e.f.d.toNat = false) ∧
    Meets (vec 0x10 1 2 3) .vgen one (fun e _ => fmtCodeOk (e.opFmt [e.f.a]) = true ∧ e.valueFaults (e.opFmt [e.f.a]) [e.f.a] = none) :=
  ⟨all_meet (by decide), meets (by decide) (by decide), meets (by decide) (by decide), meets (by decide) (by decide),
    meets (by decide) (by decide), meets (by decide) (by decide)⟩

/-- R124: a `vgen` that writes makes the shape general. -/
theorem test_vgen_shape : (warpOf (exec (.vgen one)
    (user 1 fun w => { w with vregs := w.vregs.set 1 { tag := 8, shape := .uniform, lanes := List.replicate 32 5 } })) 0).map
    (fun w => (w.v 4).shape) = some .general := by decide

/-! ### Groups 0x6 and 0x7 -/

/-- R131's example: `vexp2` of 3.0 and of -150.0, under nearest-even and upward. -/
def exp2St : State := user 1 (withV 1 0x12 fun _ => 0xC316000040400000)
theorem test_vexp2_special : vAfter (exec (.vexp2 { one with md := 16 * 1024 }) exp2St) 4 0 = some 0x41000000 := by decide
theorem test_vexp2_flags : flagsAfter (exec (.vexp2 { one with md := 16 * 1024 }) exp2St) = some 0x18 := by decide
theorem test_vexp2_up : vAfter (exec (.vexp2 { one with md := 16 * 1024 + 3 * 2 }) exp2St) 4 0 = some 0x0000000141000000 := by decide
/-- R131's table: the square root of -1, 1/0, log2 8, cos 0, 6/0; R136: the square root of 4. -/
theorem test_vsqrt : vAfter (exec (.vsqrt one) (vec 0x12 0xBF80000040800000 0 0)) 4 0 = some 0x7FC0000040000000 := by decide
theorem test_vrcp_zero : flagsAfter (exec (.vrcp one) (vec 0x12 0 0 0)) = some 2 := by decide
theorem test_vlog2 : vAfter (exec (.vlog2 one) (vec 0x12 0x3F80000041000000 0 0)) 4 0 = some 0x40400000 := by decide
theorem test_vcos_zero : vAfter (exec (.vcos one) (vec 0x12 0 0 0)) 4 0 = some 0x3F8000003F800000 := by decide
theorem test_vdiv : vAfter (exec (.vdiv v12) (vec 0x12 0xC0C0000040C00000 0 0)) 4 0 = some 0xFF8000007F800000 := by decide

def transForms : List ((Fields → Instr) × Fields) :=
  [Instr.vexp2, .vexp, .vlog2, .vln, .vsin, .vcos, .vtanh, .vsigm, .vsilu, .vgelu, .vsqrt, .vrsqrt, .vrcp].map fun mk => (mk, one)

theorem wit_transcendental :
    (∀ p ∈ transForms, Meets (vec 0x10 1 2 3) p.1 p.2 fun e _ => let t := e.opFmt [e.f.a]
      fmtFloat16up t = true ∧ e.sameTags [e.f.a] = true ∧ e.valueFaults t [e.f.a] = none) ∧
    (∀ p ∈ [((Instr.vatan2 : Fields → Instr), v12), (.vdiv, { v12 with md := 48 * 1024 })], Meets (vec 0x13 1 2 3) p.1 p.2 fun e _ =>
      let t := e.opFmt [e.f.a]
      fmtFloat16up t = true ∧ e.sameTags [e.f.a, e.f.b] = true ∧ e.valueFaults t [e.f.a, e.f.b] = none) :=
  ⟨all_meet (by decide), all_meet (by decide)⟩

/-- The lane chapter's example: `(q1) vscan.add` with 1 and 2 in every lane and q1 clear in lane 1. -/
def scanSt : State := user 0xFFFFFFFF fun w =>
  withQ 1 (fun l => if l = 1 then 0 else 0xFFFF) (withV 8 8 (fun _ => 0x0000000200000001) w)
def scanF : Fields := { onQ1 with d := 9, a := .v 8, e := 4 }
theorem test_vscan_lane1 : vAfter (exec (.vscan scanF) scanSt) 9 1 = some 0x0000000300000003 := by decide
theorem test_vscan_lane31 : vAfter (exec (.vscan scanF) scanSt) 9 31 = some 0x0000005D0000005B := by decide
theorem test_vred_sum : vAfter (exec (.vred scanF) scanSt) 9 1 = some 0x0000005D0000005D := by decide
theorem test_vred_any : qAfter (exec (.vred scanF) scanSt) 4 31 = some 0xFFFF := by decide
/-- R144's example: lane 6 takes lane 7's sub-elements 1, 2, 3 and 0. -/
theorem test_vshfl_xor : vAfter (exec (.vshfl { noFields with d := 5, a := .v 4, b := .imm, imm := 0x0101, md := 3 })
    (user 0xFFFF (withV 4 6 fun l => if l = 7 then 0x0004000300020001 else 0))) 5 6 = some 0x0001000400030002 := by decide
/-- R145, R146, hand-calculated: position 9 of I32 is lane 4's upper half; a rotation by one; a permutation. -/
def laneNo : State := user 0xFFFFFFFF fun w => withV 1 8 (fun l => BitVec.ofNat 64 (2 * l + (2 * l + 1) * 2 ^ 32)) (withV 2 3 (fun _ => 0x0001) w)
theorem test_vbcast : vAfter (exec (.vbcast { one with b := .imm, imm := 9 }) laneNo) 4 31 = some 0x0000000900000009 := by decide
theorem test_vrotx : vAfter (exec (.vrotx { one with b := .imm, imm := 1 }) laneNo) 4 31 = some 0x000000000000003F := by decide
theorem test_vperm : vAfter (exec (.vperm { v12 with d := 5 }) laneNo) 5 3 = some 0x0000000600000007 := by decide
/-- R147, R148: votes with a ballot; the lanes of one value, the lowest in bits [63:32]. -/
def voteSt : State := user 7 fun w => withQ 3 (fun l => if l = 1 then 1 else 0) (withV 1 8 (fun l => if l = 1 then 5 else 6) w)
theorem test_vvote_any : qAfter (exec (.vvote { noFields with d := 4, e := 9, a := .v 3, md := 4 }) voteSt) 4 2 = some 0xFFFF := by decide
theorem test_vvote_ballot : uAfter (exec (.vvote { noFields with d := 4, e := 9, a := .v 3, md := 4 }) voteSt) 0 9 = some 2 := by decide
theorem test_vmatch : vAfter (exec (.vmatch { one with e := 4 }) voteSt) 4 2 = some 0x0000000000000005 := by decide
theorem test_vmatch_all : qAfter (exec (.vmatch { one with e := 4 }) voteSt) 4 2 = some 0 := by decide
/-- R149: bits of A under the guard. -/
theorem test_pand : qAfter (exec (.pand { noFields with d := 5, a := .v 3, b := .v 0 }) voteSt) 5 1 = some 1 := by decide
theorem test_pnot : qAfter (exec (.pnot { noFields with d := 5, a := .v 3 }) voteSt) 5 1 = some 0xFFFE := by decide
theorem test_ppopc : uAfter (exec (.ppopc { noFields with d := 9, a := .v 0 }) voteSt) 0 9 = some 48 := by decide

theorem wit_lane_moves :
    (∀ p ∈ [((Instr.vred : Fields → Instr), { one with md := 1 }), (.vscan, { one with md := 6 * 16384 })], Meets (vec 8 1 2 3) p.1 p.2
      fun e _ => oprFmt (modOpr e.f) (e.opFmt [e.f.a]) = true ∧ e.valueFaults (e.opFmt [e.f.a]) [e.f.a] = none) ∧
    Meets (user 0 id) .vred { one with md := 0 } (fun e _ => e.taking = 0) ∧
    (∀ p ∈ [((Instr.vshfl : Fields → Instr), v12), (.vshfl, { one with b := .imm, imm := 0xF1F }), (.vbcast, { one with b := .u 63 }),
        (.vbcast, { one with b := .imm, imm := 0xFFFFFFFF }), (.vrotx, { one with b := .sp 0 })],
      Meets (vec 8 1 2 3) p.1 p.2 fun e _ => fmtCodeOk (e.opFmt [e.f.a]) = true ∧
        e.valueFaults (e.opFmt [e.f.a]) ([e.f.b].filter (· ≠ .imm)) = none) ∧
    Meets (user 1 fun w => withV 1 1 (fun _ => 1) (withV 2 1 (fun _ => 2) w)) .vperm v12
      (fun e _ => e.opFmt [e.f.a] = 1 ∧ e.tagOf e.f.b = some 1) := by
  refine ⟨all_meet (by decide), ?_, all_meet (by decide), meets (by decide) (by decide)⟩
  exact meets (by decide) (by decide)

theorem wit_votes :
    (∀ p ∈ [((Instr.vvote : Fields → Instr), { noFields with d := 4, e := 63, a := .v 3, md := 6 }), (.vvote, { noFields with a := .v 0 })],
      Meets voteSt p.1 p.2 fun e _ => e.taking ≠ 0 ∧ e.w.busy e.f.e.toNat = false) ∧
    Meets voteSt .vmatch { one with e := 7 } (fun e _ => e.f.a = .v 1 ∧ fmtCodeOk (e.v 1).tag.toNat = true ∧ e.taking ≠ 0 ∧
      e.paired = false) ∧
    (∀ p ∈ [((Instr.pand : Fields → Instr), { noFields with d := 7, a := .v 7, b := .v 1 }), (.por, { noFields with d := 0, a := .v 7 }),
        (.pxor, noFields), (.pnot, noFields), (.pmov, { noFields with d := 7, a := .imm, imm := 0xFFFF }), (.pmov, { noFields with a := .u 3 })],
      Meets voteSt p.1 p.2 fun _ _ => True) ∧
    Meets voteSt .ppopc { noFields with d := 63, a := .v 3 } (fun e _ => e.w.busy e.f.d.toNat = false) :=
  ⟨all_meet (by decide), meets (by decide) (by decide), all_meet (by decide), meets (by decide) (by decide)⟩

/-! ### Groups 0x8 and 0x9 -/

/-- The lines of an access that passes its checks. -/
def linesAt (s : State) (w : Who) (a : Acc) (vas : List Nat) : Lines :=
  match s.transAll w a vas with | .inr ls => ls | .inl _ => []

theorem inMemory_of {ls : Lines} {vas : List Nat} (h : (vas.all fun va => !isMmio ls va) = true) : inMemory ls vas := by
  intro va hva
  have := List.all_eq_true.1 h va hva
  cases hp : placeOf ls va with
  | mem k => exact ⟨k, rfl⟩
  | mmio p g o => simp [isMmio, hp] at this

theorem noChecksum_of {ls : Lines} (h : (ls.all fun x => match x.2.2 with | some l => !l.ckv | none => true) = true) :
    noChecksum ls := by
  intro x hx l hl
  simpa [hl] using List.all_eq_true.1 h x hx

/-- Package 0 with sets of 4 ways and a page at every way free, and a capacity tier. -/
def booted (s : State) : State := { s with pkgs := [(0, { Pkg.reset with ways := 4, nsets := 16, capBytes := 2 ^ 36, bootStep := 7 })] }

/-- s4 is the aperture of core 0, s5 an address of the 128 MiB page; v2 holds 8 l, v7 holds l + 1. -/
def memWarp (w : Warp) : Warp :=
  withV 7 8 (fun l => BitVec.ofNat 64 (l + 1)) (withV 2 0x0A (fun l => BitVec.ofNat 64 (8 * l)) (withU [(4, 0xFFFFFFFFF0000000), (5, 0x200000)] w))
def memSt : State := booted (user 0xFFFFFFFF memWarp)
/-- Only lane 3 issues. -/
def memLane : State := booted (user 8 memWarp)

/-- R151's example: lane 3 at offset 0xC40 with swizzle mode 2 reads bank 1, at 0xC20. -/
theorem test_ld_swizzle : vAfter (exec (.ld { noFields with d := 10, a := .u 4, b := .v 2, md := 8 + 2 * 32, imm := 0xC28 })
    (withMem (spadKey 0 0xC20) [0x2A, 0, 0, 0, 0x2B] memLane)) 10 3 = some 0x0000002B0000002A := by decide
/-- A lane whose address has no translation parks with XLATE, the others load. -/
def holeSt : State := booted (user 0xFFFFFFFF fun w => withV 2 0x0A (fun l => if l = 31 then 0x8000000 else 0x200000) w)
theorem test_ld_xlate : (stAfter (exec (.ld { noFields with d := 10, a := .sp 0, b := .v 2, md := 8 }) holeSt) 0 31).map
    (fun x => match x with | .park c _ _ => c | _ => 0) = some 0x05 := by decide +kernel
/-- R154: ALIGN of a 32-bit element. -/
theorem test_ld_align : (stAfter (exec (.ld { noFields with d := 10, a := .u 5, b := .sp 0, md := 8, imm := 2 }) memLane) 0 3).map
    (fun x => match x with | .park c _ _ => c | _ => 0) = some 0x04 := by decide
/-- R160: the fourth register of an `ldb` starts 24 bytes on. -/
theorem test_ldb_fourth : vAfter (exec (.ldb { noFields with d := 12, a := .u 4, b := .sp 0, md := 9 })
    (withMem (spadKey 0 24) [7] memLane)) 15 3 = some 7 := by decide
/-- R162: a lane that does not translate reads zero and clears its bits of E. -/
theorem test_ldnf_zero : qAfter (exec (.ldnf { noFields with d := 10, e := 3, a := .sp 0, b := .v 2, md := 8 }) holeSt) 3 31 = some 0 := by
  decide +kernel
/-- R150, R159: BLK spreads the lanes 8 bytes apart; the highest lane writes a shared byte last. -/
theorem test_st_block : byteAfter (exec (.st { noFields with a := .u 4, b := .sp 0, c := .v 7, md := 256 }) memSt) (spadKey 0 248) = some 32 := by
  decide +kernel
theorem test_st_last_lane : byteAfter (exec (.st { noFields with a := .u 4, b := .sp 0, c := .v 7 }) memSt) (spadKey 0 0) = some 32 := by
  decide +kernel
/-- R161: an I8 of 0x80 extends by sign; a `stu` of 16 bits stores two bytes. -/
theorem test_ldu_sign : uAfter (exec (.ldu { noFields with d := 9, a := .u 4, b := .sp 0, md := 4 }) (withMem (spadKey 0 0) [0x80] memLane)) 0 9
    = some 0xFFFFFFFFFFFFFF80 := by decide
theorem test_stu_half : leAfter (exec (.stu { noFields with a := .u 4, b := .sp 0, c := .u 4, md := 5 })
    (withMem (spadKey 0 2) [9] memLane)) (spadKey 0 0) 4 = some 0x00090000 := by decide
/-- R165's example: lanes 0 to 3 each add 1 to a word that holds 10. -/
def addSt : State := withMem (spadKey 0 0) [10] (booted (user 15 memWarp))
def addF : Fields := { noFields with d := 8, a := .u 4, b := .sp 0, md := 8 }
theorem test_atom_word : leAfter (exec (.atom { addF with c := .v 3 }) (withMem (spadKey 0 0) [10]
    (booted (user 15 fun w => withV 3 8 (fun _ => 1) (memWarp w))))) (spadKey 0 0) 4 = some 14 := by decide
theorem test_red_sub : leAfter (exec (.red { noFields with a := .u 4, b := .sp 0, c := .v 7, md := 8 + 1 * 16384 }) addSt) (spadKey 0 0) 4
    = some 0 := by decide
/-- R165, R167: a swap happens only where the element equals C; `atomu` delivers what the element held. -/
theorem test_acas_swaps : leAfter (exec (.acas { noFields with d := 8, e := 7, a := .u 4, b := .sp 0, c := .v 3, md := 8 })
    (withMem (spadKey 0 0) [10] (booted (user 8 fun w => withV 3 8 (fun _ => 10) (memWarp w))))) (spadKey 0 0) 4 = some 4 := by decide
theorem test_atomu_old : uAfter (exec (.atomu { noFields with d := 9, a := .u 4, b := .sp 0, c := .u 3, md := 9 + 7 * 16384 }) addSt) 0 9 = some 10 := by
  decide
theorem test_acasu_keeps : leAfter (exec (.acasu { noFields with d := 9, e := 4, a := .u 4, b := .sp 0, c := .u 3, md := 9 }) addSt) (spadKey 0 0) 8
    = some 10 := by decide

theorem open_of {e : Env} {s : State} {n : Nat} (h : (s.pkg (pkgOfCore e.w.core)).stalled (s.bucketOf e.w) = false) :
    e.bucketOpen s n := fun _ => h

/-- No link has gone down, no package has lost its power, and no page is LOST. -/
theorem connected_of {s : State} (h : s.links = [] ∧ s.dead = [] ∧ s.dir = []) : s.connected :=
  ⟨fun k => by simp [State.link, h.1, Link.reset], h.2.1, fun g => by simp [State.dirEnt, h.2.2, DirEnt.reset]⟩

theorem wit_connected : memSt.connected ∧ memLane.connected := ⟨connected_of (by decide), connected_of (by decide)⟩

/-- An access of a lane passes its checks and stays in memory. -/
def laneGood (s : State) (w : Who) (a : Acc) (size : Nat) (x : LaneAcc) : Bool :=
  let vas := x.offs.map (vaAdd x.va)
  let ls := linesAt s w a vas
  x.va % size == 0 && decide (s.transAll w a vas = .inr ls) && !s.anyReset w ls a.wr && (vas.all fun va => !isMmio ls va) &&
    ls.all fun x => match x.2.2 with | some l => !l.ckv | none => true

theorem grants_of {s : State} {w : Who} {a : Acc} {size : Nat} {x : LaneAcc} (h : laneGood s w a size x = true) :
    let ls := linesAt s w a (x.offs.map (vaAdd x.va))
    s.grants w a size x ls ∧ inMemory ls (x.offs.map (vaAdd x.va)) ∧ noChecksum ls := by
  simp only [laneGood, Bool.and_eq_true, beq_iff_eq, decide_eq_true_eq, Bool.not_eq_true'] at h
  obtain ⟨⟨⟨⟨h1, h2⟩, h3⟩, h4⟩, h5⟩ := h
  exact ⟨⟨h1, h2, h3⟩, inMemory_of h4, noChecksum_of h5⟩

/-- The base address has a tag that an address may have. -/
def baseGood (e : Env) : Bool :=
  match e.f.b with
  | .v n => (e.v n.toNat).tag.toNat == 0x0B || (7 ≤ (e.v n.toNat).tag.toNat && (e.v n.toNat).tag.toNat ≤ 0x0A)
  | _ => true

theorem baseOk_of {e : Env} (h : baseGood e = true) : e.baseOk := by
  intro n hn
  simpa [baseGood, hn] using h

/-- 256 registers, so that the last four can be named; lanes 0 and 31 issue. -/
def wideSt : State := booted (user 0x80000001 fun w => memWarp { w with vregs := List.replicate 256 VReg.void })

def loadAcc (f : Fields) : Acc := { Acc.load with types := fmtTypes (mdN f 0 5) }
def storeAcc (t : Nat) : Acc := { Acc.store with types := fmtTypes t }

/-- What the statements about loads ask for, in which every lane passes. -/
def LoadPre (regs : Nat) (e : Env) (s1 : State) : Prop :=
  e.baseOk ∧ e.bucketOpen s1 (nSub (mdN e.f 0 5)) ∧ e.someActive (nSub (mdN e.f 0 5)) ∧ e.laneAccs s1 (mdN e.f 0 5) regs ≠ [] ∧
    s1.connected ∧ ∀ x ∈ e.laneAccs s1 (mdN e.f 0 5) regs, ∃ ls, s1.grants (e.who s1) (loadAcc e.f) (elSize (mdN e.f 0 5)) x ls ∧
      inMemory ls (x.offs.map (vaAdd x.va))

theorem loadPre_of {regs : Nat} {e : Env} {s1 : State} (h1 : baseGood e = true) (h2 : (s1.pkg (pkgOfCore e.w.core)).stalled (s1.bucketOf e.w) = false ∧ s1.links = [] ∧ s1.dead = [] ∧ s1.dir = [])
    (h3 : e.laneAccs s1 (mdN e.f 0 5) regs ≠ []) (h0 : e.someActive (nSub (mdN e.f 0 5)))
    (h4 : ∀ x ∈ e.laneAccs s1 (mdN e.f 0 5) regs, laneGood s1 (e.who s1) (loadAcc e.f) (elSize (mdN e.f 0 5)) x = true) :
    LoadPre regs e s1 :=
  ⟨baseOk_of h1, open_of h2.1, h0, h3, connected_of h2.2, fun x hx => ⟨_, (grants_of (h4 x hx)).1, (grants_of (h4 x hx)).2.1⟩⟩

/-- The last registers, the L6 format under BLK, and the last 8 bytes of the allocation. -/
theorem wit_loads :
    Meets wideSt .ld { noFields with d := 255, a := .u 4, b := .v 2, md := 8, imm := 0xFF00 } (LoadPre 1) ∧
    Meets wideSt .ld { noFields with a := .u 4, b := .sp 0, md := 0x0E + 256 } (LoadPre 1) ∧
    Meets wideSt .ldb { noFields with d := 252, a := .u 5, b := .sp 0, md := 9 + 256 } (LoadPre 4) ∧
    Meets wideSt .ldnf { noFields with d := 255, e := 7, a := .u 5, b := .v 2, md := 8 } (LoadPre 1) :=
  ⟨meets (by decide +kernel) (loadPre_of (by decide) (by decide) (by decide) ⟨0, by decide⟩ (by decide +kernel)),
   meets (by decide +kernel) (loadPre_of (by decide) (by decide) (by decide) ⟨0, by decide⟩ (by decide +kernel)),
   meets (by decide +kernel) (loadPre_of (by decide) (by decide) (by decide) ⟨0, by decide⟩ (by decide +kernel)),
   meets (by decide +kernel) (loadPre_of (by decide) (by decide) (by decide) ⟨0, by decide⟩ (by decide +kernel))⟩

/-- Lanes that fail: ALIGN in lane 1, XLATE in lane 31; a lane that passes beside them. -/
def mixedSt : State := booted (user 0x80000003 fun w => withV 2 0x0A (fun l => if l = 31 then 0x8000000 else 0x200000 + BitVec.ofNat 64 l) w)
theorem wit_load_faults : ∀ p ∈ [((Instr.ld : Fields → Instr), { noFields with a := .sp 0, b := .v 2, md := 8 }),
      (.ldb, { noFields with a := .sp 0, b := .v 2, md := 8 })], Meets mixedSt p.1 p.2 fun e s1 =>
    let xs := e.laneAccs s1 8 1
    (e.v 2).tag.toNat = 0x0A ∧ (s1.pkg (pkgOfCore e.w.core)).stalled (s1.bucketOf e.w) = false ∧
      xs.map (fun x => x.va % elSize 8) = [0, 1, 0] ∧
      xs.map (fun x => (s1.transAll (e.who s1) (loadAcc e.f) (x.offs.map (vaAdd x.va))).isLeft) = [false, false, true] ∧
      xs.all (fun x => !s1.anyReset (e.who s1) (linesAt s1 (e.who s1) (loadAcc e.f) (x.offs.map (vaAdd x.va)))) = true :=
  all_meet (by decide +kernel)

/-- A first write that finds its place. -/
def succeeds {α : Type} (x : Try α) : Bool := match x with | .ok _ => true | .error _ => false

theorem ok_of_succeeds {α : Type} {x : Try α} (h : succeeds x = true) : ∃ a, x = .ok a := by
  cases x with
  | ok a => exact ⟨a, rfl⟩
  | error w => cases h

/-- What the statements about vector stores ask for. -/
def StorePre (regs : Nat) (e : Env) (s1 : State) : Prop :=
  e.baseOk ∧ e.bucketOpen s1 (nSub e.storeFmt) ∧ (regs = 4 → e.quadTags = true) ∧ e.storeFmt ≠ 0 ∧
    e.valueFault e.storeFmt e.f.c = none ∧ s1.connected ∧
    ∃ xs : List (LaneAcc × Lines), xs ≠ [] ∧ xs.map Prod.fst = e.laneAccs s1 e.storeFmt regs ∧
      (∀ x ∈ xs, s1.grants (e.who s1) (storeAcc e.storeFmt) (elSize e.storeFmt) x.1 x.2 ∧
        inMemory x.2 (x.1.offs.map (vaAdd x.1.va)) ∧ noChecksum x.2) ∧
      ∃ s2, (e.claimLanes s1 xs s1).map (e.putLanes s1 e.storeFmt xs) = .ok s2

theorem storePre_of {regs : Nat} {e : Env} {s1 : State} (h1 : baseGood e = true) (h2 : (s1.pkg (pkgOfCore e.w.core)).stalled (s1.bucketOf e.w) = false ∧ s1.links = [] ∧ s1.dead = [] ∧ s1.dir = [])
    (h3 : (regs = 4 → e.quadTags = true) ∧ e.storeFmt ≠ 0 ∧ e.valueFault e.storeFmt e.f.c = none)
    (h4 : e.laneAccs s1 e.storeFmt regs ≠ [])
    (h5 : ∀ x ∈ e.laneAccs s1 e.storeFmt regs, laneGood s1 (e.who s1) (storeAcc e.storeFmt) (elSize e.storeFmt) x = true)
    (h6 : let xs := (e.laneAccs s1 e.storeFmt regs).map fun x =>
        (x, linesAt s1 (e.who s1) (storeAcc e.storeFmt) (x.offs.map (vaAdd x.va)))
      succeeds ((e.claimLanes s1 xs s1).map (e.putLanes s1 e.storeFmt xs)) = true) : StorePre regs e s1 := by
  refine ⟨baseOk_of h1, open_of h2.1, h3.1, h3.2.1, h3.2.2, connected_of h2.2, _, ?_, ?_, ?_, ok_of_succeeds h6⟩
  · simpa using h4
  · simp [Function.comp_def]
  · intro x hx
    obtain ⟨y, hy, rfl⟩ := List.mem_map.1 hx
    exact grants_of (h5 y hy)

/-- A first write of a homeless page, an immediate in a scratchpad, and four registers in blocks. -/
theorem wit_stores :
    Meets memLane .st { noFields with a := .u 5, b := .v 2, c := .v 7 } (StorePre 1) ∧
    Meets wideSt .st { noFields with a := .u 4, b := .sp 0, c := .u 63, md := 3 + 256 } (StorePre 1) ∧
    Meets (booted (user 0x80000001 fun w => withV 4 8 (fun _ => 1) (withV 5 8 (fun _ => 2) (withV 6 8 (fun _ => 3) (memWarp w)))))
      .stb { noFields with a := .u 4, b := .sp 0, c := .v 4, md := 256 } (StorePre 4) :=
  ⟨meets (by decide +kernel) (storePre_of (by decide) (by decide) (by decide) (by decide) (by decide +kernel) (by decide +kernel)),
   meets (by decide +kernel) (storePre_of (by decide) (by decide) (by decide) (by decide) (by decide +kernel) (by decide +kernel)),
   meets (by decide +kernel) (storePre_of (by decide) (by decide) (by decide) (by decide) (by decide +kernel) (by decide +kernel))⟩

/-- The scratchpad form: its keys stand in scratchpads that the die reaches, and its pages are not GLOBAL. -/
theorem wit_scratchpad_stores : ∀ p ∈ [((Instr.st : Fields → Instr), { noFields with a := .u 4, b := .v 2, c := .v 7, md := 3 * 32 })],
    Meets wideSt p.1 p.2 fun e s1 => (e.laneAccs s1 e.storeFmt 1).all fun x =>
      let ls := linesAt s1 (e.who s1) (storeAcc e.storeFmt) (x.offs.map (vaAdd x.va))
      x.offs.all fun i => (match placeOf ls (vaAdd x.va i) with | .mem k => isSpadKey k | _ => false) &&
        isSpadKey (keyOf ls 3 (vaAdd x.va i)) && s1.reaches (e.who s1).die (keyOf ls 3 (vaAdd x.va i)) &&
        ls.all fun l => match l.2.2 with | some y => y.type != tGLOBAL | none => true := all_meet (by decide +kernel)

/-- The element of a uniform access passes its checks and stays in memory. -/
def oneGood (s : State) (w : Who) (a : Acc) (va n : Nat) : Bool := laneGood s w a n { lane := 0, va := va, offs := List.range n }

theorem grantsOne_of {s : State} {w : Who} {a : Acc} {va n : Nat} (h : oneGood s w a va n = true) :
    let ls := linesAt s w a (vaRange va n)
    s.grantsOne w a va n ls ∧ inMemory ls (vaRange va n) ∧ noChecksum ls := grants_of h

def LduPre (e : Env) (s1 : State) : Prop :=
  ∃ l, e.leading = some l ∧ e.w.busy e.f.d.toNat = false ∧ e.bucketOpen s1 ∧
    ∃ ls, s1.grantsOne (e.who s1) (loadAcc e.f) (e.va s1 0 l) (fmtWidth (mdN e.f 0 5) / 8) ls ∧
      inMemory ls (vaRange (e.va s1 0 l) (fmtWidth (mdN e.f 0 5) / 8))

/-- One byte and eight, the last element of the allocation, in a warp and in the sequencer. -/
theorem wit_ldu :
    Meets memLane .ldu { noFields with d := 63, a := .u 4, b := .sp 0, md := 9, imm := 0xFFF8 } LduPre ∧
    Meets memLane .ldu { noFields with d := 0, a := .u 5, b := .u 0, md := 4 } LduPre ∧
    Meets (booted (sequencer (withU [(5, 0x200000)]))) .ldu { noFields with d := 1, a := .u 5, b := .u 0, md := 8 } LduPre :=
  ⟨meets (by decide) ⟨3, by decide, by decide, open_of (by decide), _, (grantsOne_of (by decide +kernel)).1, (grantsOne_of (by decide +kernel)).2.1⟩,
   meets (by decide) ⟨3, by decide, by decide, open_of (by decide), _, (grantsOne_of (by decide +kernel)).1, (grantsOne_of (by decide +kernel)).2.1⟩,
   meets (by decide) ⟨0, by decide, by decide, open_of (by decide), _, (grantsOne_of (by decide +kernel)).1, (grantsOne_of (by decide +kernel)).2.1⟩⟩

def StuPre (e : Env) (s1 : State) : Prop :=
  ∃ l, e.leading = some l ∧ e.bucketOpen s1 ∧ e.valueFault (mdN e.f 0 5) e.f.c = none ∧
    let n := fmtWidth (mdN e.f 0 5) / 8
    let va := e.va s1 0 l
    ∃ ls, s1.grantsOne (e.who s1) (storeAcc (mdN e.f 0 5)) va n ls ∧ inMemory ls (vaRange va n) ∧ noChecksum ls ∧
      s1.storeBad (e.who s1) (keyOf ls (mdN e.f 5 3) va) = none ∧
      ∃ s2, s1.storeNum (e.who s1) ls (mdN e.f 5 3) 0 va n (e.el s1 (mdN e.f 0 5) e.f.c l 0) = .ok s2

theorem wit_stu :
    Meets memLane .stu { noFields with a := .u 4, b := .sp 0, c := .u 5, md := 9, imm := 0xFFF8 } StuPre ∧
    Meets memLane .stu { noFields with a := .u 5, b := .u 0, c := .u 4, md := 3 } StuPre :=
  ⟨meets (by decide) ⟨3, by decide, open_of (by decide), by decide, _, (grantsOne_of (by decide +kernel)).1,
      (grantsOne_of (by decide +kernel)).2.1, (grantsOne_of (by decide +kernel)).2.2, by decide +kernel,
      ok_of_succeeds (by decide +kernel)⟩,
   meets (by decide) ⟨3, by decide, open_of (by decide), by decide, _, (grantsOne_of (by decide +kernel)).1,
      (grantsOne_of (by decide +kernel)).2.1, (grantsOne_of (by decide +kernel)).2.2, by decide +kernel,
      ok_of_succeeds (by decide +kernel)⟩⟩

/-- No L2 holds a line, so that none is dirty. -/
theorem undirty_of {s : State} (h : (s.dies.all fun x => x.2.l2.isEmpty) = true) : ∀ d l, s.dirtyIn d l = true → s.backHeld l = false := by
  intro d l hd
  have e : (s.die d).l2 = [] := by
    unfold State.die
    generalize s.dies = m at h
    induction m with
    | nil => rfl
    | cons x m ih =>
      obtain ⟨k, v⟩ := x
      simp only [List.all_cons, Bool.and_eq_true, List.isEmpty_iff] at h
      simp only [aget]
      split
      · exact h.1
      · exact ih h.2
  simp [State.dirtyIn, e] at hd

theorem wit_cache : (∀ p ∈ [((Instr.pf : Fields → Instr), { noFields with a := .u 5, b := .v 2 }), (.cflu, { noFields with a := .u 5, b := .v 2, md := 5 * 512 }),
      (.cinv, { noFields with a := .sp 0, b := .v 2, md := 3 * 512 })], Meets memSt p.1 p.2 fun e s1 =>
    baseGood e = true ∧ (s1.pkg (pkgOfCore e.w.core)).stalled (s1.bucketOf e.w) = false ∧ ∀ d l, s1.dirtyIn d l = true → s1.backHeld l = false) ∧
    Meets memSt .fence noFields (fun e s1 => (s1.pkg (pkgOfCore e.w.core)).stalled (s1.bucketOf e.w) = false) ∧
    (∀ p ∈ [((Instr.pf : Fields → Instr), { noFields with a := .u 5, b := .v 2 }), (.cflu, { noFields with a := .u 5, b := .v 2, md := 5 * 512 }),
      (.cinv, { noFields with a := .sp 0, b := .v 2, md := 3 * 512 })],
      Meets { memSt with pkgs := [(0, { Pkg.reset with buckets := List.replicate 16 ⟨0, 1, -1⟩ })] } p.1 p.2 fun e s1 =>
        baseGood e = true ∧ e.taking ≠ 0 ∧ s1.bucketOf e.w = 0 ∧ ((s1.pkg (pkgOfCore e.w.core)).buckets[0]?.map fun b => (b.rate != 0, b.level)) = some (true, -1)) :=
  ⟨fun p hp => (all_meet (pre := fun e s1 => baseGood e = true ∧ (s1.pkg (pkgOfCore e.w.core)).stalled (s1.bucketOf e.w) = false ∧
      (s1.dies.all fun x => x.2.l2.isEmpty) = true) (by decide) p hp).imp fun _ _ h => ⟨h.1, h.2.1, undirty_of h.2.2⟩,
    meets (by decide) (by decide), all_meet (by decide)⟩

/-- What the statements about atomics ask for, at the address of the lane that acts. -/
def AtomPre (op : Option Nat) (vector : Bool) (e : Env) (s1 : State) : Prop :=
  ∃ l, (if vector then lanesOf e.taking = [l] else e.leading = some l) ∧ e.bucketOpen s1 ∧
    let t := mdN e.f 0 5
    let n := fmtWidth t / 8
    let va := e.va s1 0 l
    e.valueFault t e.f.c = none ∧
    ∃ ls, s1.grantsOne (e.who s1) Acc.atomic va n ls ∧ noChecksum ls ∧ s1.storeBad (e.who s1) (keyOf ls (mdN e.f 5 3) va) = none ∧
      ∃ r, ((if vector then s1.claimAt (e.who s1) ls (mdN e.f 5 3) (vaRange va n) else .ok s1).bind fun s0 =>
        s0.atomStep (e.who s1) ls (mdN e.f 5 3) va n fun m => atomNew op t m (e.el s1 t e.f.c l 0)
          (if vector then e.el s1 t (.v e.f.e) l 0 else (e.u e.f.e.toNat).toNat % 2 ^ fmtWidth t)) = .ok r

theorem wit_atomics :
    Meets memLane .atom { noFields with d := 9, a := .u 5, b := .v 2, c := .v 7, md := 8 } (AtomPre (some 0) true) ∧
    Meets memLane .acas { noFields with d := 9, e := 7, a := .u 4, b := .sp 0, c := .v 7, md := 8 } (AtomPre none true) ∧
    Meets memLane .red { noFields with a := .u 4, b := .sp 0, c := .u 4, md := 0x13 + 10 * 16384 } (AtomPre (some 10) true) ∧
    Meets memSt .atomu { noFields with d := 63, a := .u 4, b := .sp 0, c := .u 4, md := 5 + 6 * 16384 } (AtomPre (some 6) false) ∧
    Meets memSt .acasu { noFields with d := 63, e := 63, a := .u 4, b := .sp 0, c := .u 4, md := 9, imm := 0xFFF8 } (AtomPre none false) := by
  refine ⟨?_, ?_, ?_, ?_, ?_⟩
  all_goals first
    | exact meets (by decide) ⟨3, by decide, open_of (by decide), by decide, _, (grantsOne_of (by decide +kernel)).1,
      (grantsOne_of (by decide +kernel)).2.2, by decide +kernel, ok_of_succeeds (by decide +kernel)⟩
    | exact meets (by decide) ⟨0, by decide, open_of (by decide), by decide, _, (grantsOne_of (by decide +kernel)).1,
      (grantsOne_of (by decide +kernel)).2.2, by decide +kernel, ok_of_succeeds (by decide +kernel)⟩

/-- R165, R63: the two sides of a signed comparison; ADDR compares as I64. -/
theorem wit_atomic_operations : ¬ toInt 0x0A 1 < toInt 0x0A (2 ^ 64 - 1) ∧ toInt 9 1 < toInt 9 (2 ^ 64 - 1) ∧
    2 ^ 64 - 1 < 2 ^ fmtWidth 0x0B := by decide

/-- A page at `va` whose translation stands in the TLB of core 0 for ASID 1: leaf `lo`, `hi` (R328, R332). -/
def mapped (va : Nat) (lo hi : Word) (s : State) : State :=
  { s with cores := aset s.cores 0 { s.core 0 with tlb := { asid := 1, base := va, bits := 16, lo := lo, hi := hi, vsel := false } :: (s.core 0).tlb } }

/-- Register page 0 at 0x9000000. -/
def mmioSt : State := mapped 0x9000000 0x12F 0 (booted (user 1 (withU [(5, 0x9000000), (6, 0xABCDEF0123456789)])))

theorem wit_register_pages : (∀ p ∈ [((Instr.ldu : Fields → Instr), { noFields with d := 9, a := .u 5, b := .sp 0, md := 9, imm := 0x5200 }),
      (.stu, { noFields with a := .u 5, b := .sp 0, c := .u 6, md := 9, imm := 0x5200 })], Meets mmioSt p.1 p.2 fun e s1 =>
    e.leading = some 0 ∧ e.va s1 0 0 = 0x9005200 ∧ s1.reachesPage (e.who s1).die 0 = true ∧
      [loadAcc e.f, storeAcc 9].all (fun a => (s1.transAll (e.who s1) a (vaRange 0x9005200 8)).isRight &&
        !s1.anyReset (e.who s1) (linesAt s1 (e.who s1) a (vaRange 0x9005200 8)) a.wr &&
        placeOf (linesAt s1 (e.who s1) a (vaRange 0x9005200 8)) 0x9005200 == .mmio 0 0 0x5200) = true) := all_meet (by decide +kernel)

/-- R323, R325: CTXTAB keeps its writable bits. -/
theorem test_stu_register : (nextOf (exec (.stu { noFields with a := .u 5, b := .sp 0, c := .u 6, md := 9, imm := 0x5200 }) mmioSt)).map
    (fun t => (t.pkg 0).ctxtab) = some 0x00CDEF0123400000 := by decide +kernel

/-! ### Group 0xA -/

def withTile (n : Nat) (t : Tile) (s : State) : State := { s with groups := amod s.groups 1 fun g => { g with tiles := g.tiles.set n t } }

/-- A tile of two rows of 32 bytes, a pitch of 64, at the start of the allocation. -/
def smallTile (st : BitVec 2) (fmt : BitVec 5) : Tile :=
  { Tile.void with defd := true, state := st, fmt := fmt, rows := 1, pitch := 1 }

/-- Tile `n` of the unit once the results of the issuing warp have returned (R237). -/
def tileAfter (o : Out) (n : Nat) : Option Tile := (nextOf o).map fun t => (t.resultsIn 0).tile 1 n

/-- R171: the fields of a definition, R172: what `tstat` reads of it, hand-calculated. -/
def tdefF : Fields := { noFields with d := 3, a := .u 8, md := 8 + 3 * 32 + 0 * 1024, imm := 0x0707 }
def tdefSt : State := user 1 (withU [(8, 0xFF00)])
theorem test_tdef_fields : (tileAfter (exec (.tdef tdefF) tdefSt) 3).map (fun t => (t.swz, t.rowBytes, t.base)) = some (3, 256, 0xFF) := by
  decide
theorem test_tstat : uAfter (exec (.tstat { noFields with d := 9, e := 2 }) (withTile 2 { smallTile 2 8 with nanCol := 1, psn := true } (user 1 id))) 0 9
    = some (2 + 4 + 8 + 32 + 8 * 256 + 1 * 8192) := by decide
theorem test_tacq_filling : (tileAfter (exec (.tacq { noFields with d := 2 }) (withTile 2 (smallTile 0 8) (user 1 id))) 2).map Tile.state
    = some 1 := by decide
theorem test_trdy_ready : (tileAfter (exec (.trdy { noFields with d := 2 }) (withTile 2 (smallTile 1 8) (user 1 id))) 2).map Tile.state
    = some 2 := by decide
theorem test_trel_empty : (tileAfter (exec (.trel { noFields with d := 2 }) (withTile 2 { smallTile 2 8 with psn := true } (user 1 id))) 2).map
    (fun t => (t.state, t.psn)) = some (0, false) := by decide
/-- R237: a change of an entry is outstanding from its issue on; until its result returns the entry reads as before. -/
theorem test_tacq_outstanding : (nextOf (exec (.tacq { noFields with d := 2 }) (withTile 2 (smallTile 0 8) (user 1 id)))).map
    (fun t => (t.tile 1 2).state) = some 0 := by decide
/-- R169: an index beyond the reservation. -/
theorem test_tacq_beyond : (stAfter (exec (.tacq { noFields with d := 4 }) (user 1 id)) 0 0).map (fun x => match x with
    | .park c _ _ => c | _ => 0) = some 0x0C := by decide
/-- R177: a counter above zero holds. -/
theorem test_waitz_holds : stAfter (exec (.waitz { noFields with a := .u 48 }) boundSt) 0 0 = some (.hold .waitz) := by decide

/-- Copies between tile 2 and 0x200000, rows 32 bytes apart; the rows' addresses of `acopyg` stand at 0x300000. -/
def copySt (st : BitVec 2) : State :=
  withMem 0x300000 (leBytes 8 0x200000 ++ leBytes 8 0x200040) (withTile 2 (smallTile st 8)
    (booted (user 1 fun w => withU [(5, 0x200000), (6, 32), (7, 0x300000)] { w with bound := [(48, 65534)] })))
def copyF (out : BitVec 25) : Fields := { noFields with d := 2, e := 48, a := .u 5, b := .u 6, md := 2 + out }
theorem test_acopy_counts : (warpOf (exec (.acopyIn (copyF 0)) (copySt 0)) 0).map (fun w => aget w.bound 48) = some (some 65535) := by decide +kernel
theorem test_acopy_drains : (nextOf (exec (.acopyOut (copyF 1)) (copySt 2))).map (fun t => (t.tile 1 2).state) = some 3 := by decide +kernel
theorem test_acopyg_sectors : (nextOf (exec (.acopygIn { copyF 0 with a := .u 7, b := .u 0 }) (copySt 0))).map
    (fun t => t.copies.flatMap fun c => c.2.sectors.map Sector.va) = some [0x200000, 0x200040] := by decide +kernel
/-- R184: CRC-32C of the digits 1 to 9. -/
theorem test_crc32c : crc32c [0x31, 0x32, 0x33, 0x34, 0x35, 0x36, 0x37, 0x38, 0x39] = 0xE3069283 := by decide +kernel
/-- R328's example: the fork's alias entry. -/
theorem test_leaf_fields : let l : Leaf := { lo := 0x0000000408000C2F, hi := 0x0200000000000000, level := 0, vsel := false }
    l.frame = 0x102 ∧ wbits l.lo 10 16 = 3 ∧ l.cow = true ∧ l.rd = true ∧ l.wr = true ∧ l.usr = true ∧ l.ex = false := by decide

/-- The table grants what an instruction asks of it. -/
def grantsGood (e : Env) (s1 : State) (xs : List Ask) : Bool :=
  (xs.all fun x => (s1.tile e.w.gid x.1).state.toNat == min x.2 2 && (x.2 != 3 || !s1.referenced e.w.gid x.1)
    && !s1.changing e.w.gid x.1) && !e.loses s1 xs

theorem tableGrants_of {e : Env} {s1 : State} {xs : List Ask} (h : grantsGood e s1 xs = true) : e.tableGrants s1 xs := by
  simp only [grantsGood, Bool.and_eq_true, List.all_eq_true, beq_iff_eq, Bool.or_eq_true, bne_iff_ne, Bool.not_eq_true'] at h
  exact ⟨fun x hx => ⟨(h.1 x hx).1.1, fun h3 => (h.1 x hx).1.2.resolve_left (absurd h3), (h.1 x hx).2⟩, h.2⟩

/-- The tile instructions with a state that they are granted in, and what they ask. -/
def tileForms : List ((Fields → Instr) × BitVec 2 × Nat) := [(.tacq, 0, 0), (.trdy, 1, 1), (.trel, 2, 3)]

/-- A change of tile 3's entry is outstanding. -/
def changeSt (a : TileAct) : State :=
  user 1 fun w => { w with flights := [{ id := 9, born := 0, writes := [], flags := 0, tile := some (3, a) }] }

/-- A tile in an extent that ends at the last byte of the allocation; tiles in each state; a counter of zero and above. -/
theorem wit_tiles :
    Meets tdefSt .tdef tdefF (fun e s1 => e.taking ≠ 0 ∧ (s1.pkg 0).stalled (s1.bucketOf e.w) = false ∧
      e.tileFault s1 e.f.d.toNat false = none ∧ grantsGood e s1 [(e.f.d.toNat, 0)] = true ∧
      e.addrPart s1 e.f.a (e.leading.getD 0) % 256 = 0 ∧
      s1.tileFits e.w (e.f.md.extractLsb' 8 2).toNat (e.addrPart s1 e.f.a (e.leading.getD 0)) ((e.f.md.extractLsb' 10 8).toNat + 1)
        (32 * ((e.f.imm.extractLsb' 0 8).toNat + 1)) (32 * ((e.f.imm.extractLsb' 8 8).toNat + 1)) = true) ∧
    (∀ p ∈ tileForms, Meets (withTile 3 (smallTile p.2.1 8) (sequencer id)) p.1 { noFields with d := 3 } fun e s1 =>
      e.taking ≠ 0 ∧ e.isSeq = true ∧ e.tileFault s1 3 true = none ∧ grantsGood e s1 [(3, p.2.2)] = true) ∧
    (∀ p ∈ tileForms, Meets (withTile 3 (smallTile 3 8) (sequencer id)) p.1 { noFields with d := 3 } fun e s1 =>
      e.taking ≠ 0 ∧ e.isSeq = true ∧ e.tileFault s1 3 true = none ∧ (s1.tile e.w.gid 3).state.toNat ≠ min p.2.2 2) ∧
    (∀ a ∈ [TileAct.define (smallTile 0 8), .enter 0, .enter 2],
      ((aget (changeSt a).warps 0).bind fun w => w.flights[0]?.bind Flight.tile) = some (3, a) ∧
      (aget (changeSt a).warps 0).map (fun w => (w.lanes.any fun l => l.st != .exited, w.kind == .user,
        (changeSt a).awaited w 9)) = some (true, true, false) ∧
      (aget (changeSt a).groups 1).map (fun g => (g.tiles.length, decide (g.phase = .stopped))) = some (4, false)) ∧
    Meets (user 1 id) .tstat { noFields with d := 63, e := 3 } (fun e s1 => e.taking ≠ 0 ∧ (s1.pkg 0).stalled (s1.bucketOf e.w) = false ∧
      e.tileFault s1 3 false = none ∧ e.w.busy 63 = false) ∧
    Meets (user 1 id) .waitz { noFields with a := .u 63 } (fun e _ => e.taking ≠ 0 ∧ e.w.busy 63 = false) ∧
    Meets boundSt .waitz { noFields with a := .u 48 } (fun e _ => e.taking ≠ 0 ∧ e.w.busy 48 = true) := by
  refine ⟨meets (by decide) (by decide), fun p hp => ?_, fun p hp => ?_, by decide, meets (by decide) (by decide),
    meets (by decide) (by decide), meets (by decide) (by decide)⟩ <;>
  · simp only [tileForms, List.mem_cons, List.not_mem_nil, or_false] at hp
    rcases hp with rfl | rfl | rfl <;> exact meets (by decide) (by decide)

/-- What the statement about copies asks for: the tile's state, aligned rows, translations, room in the counter. -/
def copyGood (isOut gather : Bool) (e : Env) (s1 : State) : Bool :=
  match aget s1.groups e.w.gid, e.leading with
  | some g, some l =>
    let n := e.f.d.toNat
    let t := s1.tile e.w.gid n
    let va := e.vaA s1
    let b := e.addrPart s1 e.f.b l
    let who := e.who s1
    let ta := { Acc.load with cores := some g.cores_ }
    let lt := linesAt s1 who ta (vaRange va (8 * t.nRows))
    let rows := (List.range t.nRows).map fun i => if gather then s1.numberAt lt 0 (vaAdd va (8 * i)) 8 + b else va + i * b
    let s2 := if gather then (s1.getBytes who lt 0 (vaRange va (8 * t.nRows))).2 else s1
    let ca := if isOut then Acc.copyOut g.cores_ else Acc.copyIn g.cores_
    (e.tileFault s1 n true).isNone && grantsGood e s1 [(n, if isOut then 3 else 0)] && !t.psn &&
      (if gather then va % 8 == 0 && (s1.transAll who ta (vaRange va (8 * t.nRows))).isRight && !s1.anyReset who lt
       else va % 32 == 0 && b % 32 == 0) &&
      rows.all (fun r => r % 32 == 0 && r < 2 ^ 64) && (s2.transAll (e.who s2) ca ((g.sectors t rows).map Sector.va)).isRight &&
      (match aget e.w.bound e.f.e.toNat with | some k => k < 65535 | none => true)
  | _, _ => false

theorem wit_copies :
    Meets (copySt 0) .acopyIn (copyF 0) (fun e s1 => (s1.pkg 0).stalled (s1.bucketOf e.w) = false ∧ copyGood false false e s1 = true) ∧
    Meets (copySt 2) .acopyOut (copyF 1) (fun e s1 => (s1.pkg 0).stalled (s1.bucketOf e.w) = false ∧ copyGood true false e s1 = true) ∧
    Meets (copySt 0) .acopygIn { copyF 0 with a := .u 7, b := .u 0 } (fun e s1 => copyGood false true e s1 = true) ∧
    Meets (copySt 2) .acopygOut { copyF 1 with a := .u 7, b := .u 6 } (fun e s1 => copyGood true true e s1 = true) :=
  ⟨meets (by decide) (by decide +kernel), meets (by decide) (by decide +kernel), meets (by decide) (by decide +kernel),
    meets (by decide) (by decide +kernel)⟩

/-- s5 a page of the capacity tier, s6 one of the homeless space, s7 a length, s8 a barrier object. -/
def engineSt (len : Word) : State :=
  mapped 0x9000000 0x6F 0 (booted (user 1 (withU [(5, 0x9000000), (6, 0x200000), (7, len), (8, 0x300000)])))

theorem wit_engines : ∀ len ∈ [(0 : Word), 65536], ∀ p ∈ [((Instr.apf : Fields → Instr), true), (.aev, false)],
    let f : Fields := { noFields with e := 8, a := .u 6, b := .u 5, c := .u 7 }
    Meets (engineSt len) p.1 f fun e s1 =>
      let ends (a : Nat) : List Nat := if len = 0 then [] else [a, vaAdd a (len.toNat - 65536)]
      e.leading = some 0 ∧ (s1.pkg 0).stalled (s1.bucketOf e.w) = false ∧
        (s1.transAll { e.who s1 with apf := p.2 } (Acc.engineDst p.2) (ends (e.addrPart s1 (if p.2 then f.a else f.b) 0))).isRight = true ∧
        (s1.transAll { e.who s1 with apf := p.2 } (Acc.engineSrc p.2 false)
          (ends (e.addrPart s1 (if p.2 then f.b else f.a) 0))).isRight = true ∧
        (s1.transAll { e.who s1 with apf := p.2 } Acc.barrier [0x300000]).isRight = true := by
  intro len hl p hp
  simp only [List.mem_cons, List.not_mem_nil, or_false] at hl hp
  rcases hl with rfl | rfl <;> rcases hp with rfl | rfl <;> exact meets (by decide) (by decide +kernel)

/-- Page 0x8000000 has frame 0x102 and a shadow frame, in a level-0 table; `hi` holds further bits. -/
def shadowSt (hi : Nat) : State :=
  withMem 0x110010 (leBytes 8 (1 + 0x118000 / 2 ^ 15 * 2 ^ 25)) (withMem 0x118000 (leBytes 8 (0x102 * 2 ^ 26 + 0x2F) ++ leBytes 8 (2 ^ 32 + hi))
    (booted (user 1 (withU [(5, 0x8000000), (6, 65536)]))))

theorem wit_shadows :
    Meets (shadowSt 0) .shopen { noFields with a := .u 5, b := .u 6 } (fun e s1 => e.leading = some 0 ∧
      (s1.pkg 0).stalled (s1.bucketOf e.w) = false ∧ s1.copies = [] ∧ s1.checkShadows (e.who s1) 0x8000000 65536 = none ∧
      s1.walk 0 0x100000 0x8000000 = .leaf 0x118000 0 0x40800002F 0x100000000) ∧
    Meets (shadowSt (2 ^ 59)) .publ { noFields with a := .u 5, b := .u 6 } (fun e s1 => e.leading = some 0 ∧
      (s1.pkg 0).stalled (s1.bucketOf e.w) = false ∧ s1.checkShadows (e.who s1) 0x8000000 65536 = none ∧
      (e.who s1).die = 0 ∧ (e.who s1).ptbase = 0x100000) ∧
    Meets (shadowSt (2 ^ 60)) .kvsum { noFields with d := 63, a := .u 5 } (fun e s1 => e.leading = some 0 ∧
      (s1.pkg 0).stalled (s1.bucketOf e.w) = false ∧ s1.copies = [] ∧ e.w.busy 63 = false ∧
      s1.walk 0 0x100000 0x8000000 = .leaf 0x118000 0 0x40800002F 0x1000000100000000 ∧
      (match s1.trans (e.who s1) { rd := true, types := 1 } 0x8000000 with | .at _ (some x) => x.cke | _ => false) = true ∧
      (s1.transAll (e.who s1) { rd := true, line := true, types := 1 } (pageLineVas 0x8000000)).isRight = true ∧
      s1.anyReset (e.who s1) (linesAt s1 (e.who s1) { rd := true, line := true, types := 1 } (pageLineVas 0x8000000)) = false ∧
      s1.links = [] ∧ s1.dead = [] ∧ s1.dir = []) :=
  ⟨meets (by decide) (by decide +kernel), meets (by decide) (by decide +kernel), meets (by decide) (by decide +kernel)⟩

/-- The flip of a page whose shadow received every sector finds its places. -/
def publishSt : State :=
  let s := shadowSt (2 ^ 59)
  { s with dir := [(0x102, { DirEnt.reset with mask := BitVec.allOnes 2048, opened := true })],
           publs := [(5, { warp := 0, who := s.who benchWarp, pages := pagesOfRange 0x8000000 65536 })] }
theorem wit_publish : (aget publishSt.publs 5).map Publish.pages = some [0x8000000] ∧ publishSt.copies = [] ∧
    publishSt.mayTry (Trier.publish 5).key = true ∧
    publishSt.walk 0 0x100000 0x8000000 = .leaf 0x118000 0 0x40800002F 0x0800000100000000 ∧
    (aget publishSt.publs 5).map (fun p => (p.who.die, p.who.ptbase)) = some (0, 0x100000) ∧
    succeeds (publishSt.publishPage (publishSt.who benchWarp) 0x8000000) = true := by decide +kernel
/-- R181: `shopen` sets SOPEN in the leaf. -/
theorem test_shopen_leaf : leAfter (exec (.shopen { noFields with a := .u 5, b := .u 6 }) (shadowSt 0)) 0x118008 8 = some 0x0800000100000000 := by
  decide +kernel
/-- R179, R180: the engine's transfer stands in the machine until it completes. -/
theorem test_apf_starts : (nextOf (exec (.apf { noFields with e := 8, a := .u 6, b := .u 5, c := .u 7 }) (engineSt 65536))).map
    (fun t => t.engines.map fun x => (x.2.dst, x.2.src, x.2.len)) = some [(0x200000, 0x9000000, 65536)] := by decide +kernel

/-! ### Groups 0xB and 0xC -/

def withUnit (h : Group → Group) (s : State) : State := { s with groups := amod s.groups 1 h }
def withCfg (c : MatCfg) (g : Group) : Group := { g with cfg := c }
def withCore (h : MatCore → MatCore) (g : Group) : Group := g.modCore 0 h

/-- What a matrix instruction meets before its own checks. -/
def matGood (e : Env) (s1 : State) (foot : Foot) (srcs : List Nat) (dst : Option Nat) : Bool :=
  e.taking != 0 && ((dst.toList ++ srcs).all fun n => (e.tileFault s1 n true).isNone) &&
    grantsGood e s1 (srcs.map (fun n => (n, 2)) ++ dst.toList.map fun d => (d, 0)) &&
    (srcs.all fun n => !((s1.unit e).tiles.getD n Tile.void).psn) &&
    (s1.unit e).mops.all fun m => !m.bars foot

theorem matReady_of {e : Env} {s1 : State} {foot : Foot} {srcs : List Nat} {dst : Option Nat}
    (h : matGood e s1 foot srcs dst = true) : e.matReady s1 foot srcs dst := by
  simp only [matGood, Bool.and_eq_true, List.all_eq_true, bne_iff_ne, Option.isNone_iff_eq_none, Bool.not_eq_true'] at h
  obtain ⟨⟨⟨⟨h1, h2⟩, h3⟩, h4⟩, h5⟩ := h
  exact ⟨h1, h2, tableGrants_of h3, h4, h5⟩

/-- AFMT and WFMT I8 with 32-bit wrapping elements; L6; BF16; E4M3. -/
def cfgI8 : MatCfg := 4 + 4 * 32 + 2 * 1024
def cfgL6 : MatCfg := 0x0E + 0x0E * 32 + 1 * 1024
def cfgBF16 : MatCfg := 0x10 + 0x10 * 32
def cfgE4M3 : MatCfg := 0x0C + 0x0C * 32

/-- A plane of one column with the weights 3 and −5. -/
def onePlane : Plane :=
  { valid := true, half := 0, k := 2, n := 1, special := 0, scale := [], w := [(0, 3), (128, BitVec.ofInt 16 (-5))] }

/-- The sequencer issues for a unit with a configuration and a plane; tile 2 is READY with two rows 10 20 and 1 255. -/
def matSt (c : MatCfg) (fmt : BitVec 5) : State :=
  withMem (spadKey 0 64) [1, 255] (withMem (spadKey 0 0) [10, 20]
    (withTile 2 (smallTile 2 fmt) (withUnit (fun g => withCore (fun m => { m with plane0 := onePlane }) (withCfg c g)) (booted (sequencer id)))))

def elAfter (o : Out) (r c : Nat) : Option Int := (nextOf o).map fun t => (((aget t.groups 1).map fun g => (g.el r c).v.toInt).getD 0)

/-- R193 on integers: U8 activations by their tag, signed weights; the second row in row 5. -/
def mmulF : Fields := { noFields with e := 2, imm := 4 + 3 * 128 }
theorem test_mmul_exact : elAfter (exec (.mmul mmulF) (matSt cfgI8 3)) 4 3 = some (-70) := by decide
theorem test_mmul_row : elAfter (exec (.mmul mmulF) (matSt cfgI8 3)) 5 3 = some (-1272) := by decide
/-- R285: after the issue the first row's bytes become 11 20; a fetch that finds the sector anew gives 11 · 3 − 20 · 5. -/
def mmulRaced : State := withMem (spadKey 0 0) [11, 20] ((nextOf (exec (.mmul mmulF) (matSt cfgI8 3))).getD (matSt cfgI8 3))
theorem test_fetch_raced : (elAfter (.next mmulRaced) 4 3, elAfter (perform mmulRaced (.move (.matSector 1 0 (spadKey 0 0 / 32)))) 4 3)
    = (some (-70), some (-67)) := by decide +kernel
/-- R285: an `mmul` that has issued and not fetched its tile, and the unit before it. -/
theorem wit_fetch_raced :
    ((aget mmulRaced.groups 1).bind fun g => (aget (matSt cfgI8 3).groups 1).bind fun w => g.mops[0]?.map fun m =>
      (m.granted && !m.fed && decide (m.instr = .mmul mmulF) && decide (m.src = [2]) && decide (m.was = (w.cores, w.rows))
        && decide (g.phase = .running) && isSpadKey (32 * (spadKey 0 0 / 32)) && decide (w.cfg = g.cfg) && decide (w.tiles = g.tiles)
        && decide (w.wgs = g.wgs) && (List.range g.width).all fun k => decide (bitsN (immN mmulF) 7 8 + (w.mc k).planeCols ≤ 256)))
      = some true := by decide +kernel
/-- R282: the flag of row 1 of a BF16 tile whose second row holds a NaN comes with the end of the fetch. -/
theorem test_flag_at_fetch : (nextOf (exec (.mmul mmulF) (withMem (spadKey 0 64) [0xC0, 0x7F] (matSt cfgBF16 0x10)))).map
    (fun t => [t, t.occupancyEnd 1 0].map fun u => (aget u.groups 1).map fun g => (g.tiles.getD 2 Tile.void).nanRow) =
      some [some 0, some 2] := by decide +kernel
/-- R40: mode 3 clamps. -/
theorem test_add_clamps : addByForm 3 (BitVec.ofInt 96 2147483000) (.i 1000) = BitVec.ofInt 96 2147483647 := by decide
theorem test_add_wraps : addByForm 2 (BitVec.ofInt 96 2147483647) (.i 1) = BitVec.ofInt 96 (-2147483648) := by decide
/-- R35's example: the product of 0x05 and 0x1E without scales and with scales of sum −38. -/
theorem test_l6_product : l6Prod 0x05 0x1E 0 = 0x1AE89F9960000 := by decide
theorem test_l6_scaled : l6Prod 0x05 0x1E (-38) = 0x9837F05200 := by decide
theorem test_mcfg_invalidates : (nextOf (exec (.mcfg { noFields with md := 396 }) (matSt cfgI8 3))).map
    (fun t => ((aget t.groups 1).map fun g => (g.cfg, (g.mc 0).plane0.valid))) = some (some (396, false)) := by decide
theorem test_mldw_other : (nextOf (exec (.mldw { noFields with e := 2, imm := 1 + 1 * 128 }) (matSt cfgI8 3))).map
    (fun t => ((aget t.groups 1).map fun g => ((g.mc 0).plane1.weight cfgI8 1 1, (g.mc 0).active))) = some (some (.i 255, false)) := by decide
theorem test_mswap_turns : (nextOf (exec (.mswap noFields) (matSt cfgI8 3))).map
    (fun t => (aget t.groups 1).map fun g => (g.mc 0).active) = some (some true) := by decide
/-- R194, R196, R195. -/
theorem test_mload_el : elAfter (exec (.mload { noFields with e := 2 }) (withMem (spadKey 0 4) [0xFE, 0xFF, 0xFF, 0xFF] (matSt cfgI8 8))) 0 1
    = some (-2) := by decide
theorem test_mzero_el : elAfter (exec (.mzero noFields) (withUnit (withCore fun m => { m with acc := [(3, ⟨7, false⟩), (4, ⟨7, false⟩)] })
    (matSt cfgI8 3))) 0 3 = some 0 := by decide
theorem test_mrsum : (nextOf (exec (.mrsum { noFields with e := 2, imm := 1 + 1 * 128 }) (matSt cfgI8 3))).map
    (fun t => (aget t.groups 1).map fun g => (g.row 2).rowsum) = some (some 256) := by decide
theorem test_mcsum : (nextOf (exec (.mcsum { noFields with e := 2, imm := 1 + 1 * 128 }) (matSt cfgI8 4))).map
    (fun t => (aget t.groups 1).map fun g => aget (g.mc 0).colsum 1) = some (some (some 19)) := by decide

/-- A destination tile 3, EMPTY. -/
def drainSt (c : MatCfg) (src dst : BitVec 5) : State := withTile 3 { smallTile 0 dst with base := 1 } (matSt c src)
/-- R197: a drained element of −70 in I8, hand-calculated: 0xBA. -/
theorem test_mdrain_byte : (nextOf (exec (.mdrain { noFields with d := 3, a := .u 0, b := .u 0 })
    (withUnit (withCore fun m => { m with acc := [(1, ⟨BitVec.ofInt 96 (-70), false⟩)] }) (drainSt cfgI8 3 4)))).map
    (fun t => (aget t.groups 1).map fun g => (g.mops.map fun m => m.out.find? fun p => p.1 == spadKey 0 0x101))
      = some (some [some (spadKey 0 0x101, 0xBA)]) := by decide

/-- R190 to R192: a configuration of one core, tiles at their whole width, a wide load over two planes, a swap. -/
theorem wit_configuration :
    Meets (matSt cfgI8 3) .mcfg { noFields with md := 396 } (fun e s1 =>
      matGood e s1 { rows := (0, 128), cols := [(0, 1024)], rowSt := true, rd := 7, wr := 7 } [] none = true ∧ (s1.unit e).mops = [] ∧
      ∃ r, s1.recOf e.w = some r ∧ MatCfg.width 396 ≤ r.coop) ∧
    (∀ p ∈ [((31 : Nat), (0 : BitVec 8)), (127, 3), (255, 7)],
      Meets (withTile 2 { smallTile 2 4 with rowb := p.2, pitch := 7, rows := 127 } (matSt cfgI8 4)) .mldw
        { noFields with e := 2, imm := 127 + BitVec.ofNat 32 p.1 * 128 } fun e s1 =>
        let g := s1.unit e
        let t := g.tiles.getD 2 Tile.void
        matGood e s1 (planeFoot 4 (if 128 < p.1 + 1 then 3 else orBits ((List.range g.width).map fun c => (g.mc c).otherBit)))
            (g.withScale 2) none = true ∧ roleOk t.tag g.cfg.wfmt = true ∧ g.scaleFault 2 1 (p.1 + 1) = none ∧
          p.1 + 1 ≤ 256 * g.width ∧ 128 ≤ t.nRows ∧ p.1 + 1 ≤ t.perRow ∧ g.mops = []) ∧
    Meets (matSt cfgI8 3) .mswap noFields (fun e s1 => matGood e s1 (planeFoot 4 4) [] none = true ∧ (s1.unit e).mops = []) ∧
    (let g := (matSt cfgL6 0x0E).unit (envOf (matSt cfgL6 0x0E) noFields)
     let t := g.tiles.getD 2 Tile.void
     roleOk t.tag g.cfg.wfmt = true ∧ isI8 g.cfg.wfmt = g.cfg.isInt ∧ (g.cfg.wfmt = 0x0E ↔ g.cfg.isL6 = true) ∧ fmtWidth t.tag ≤ 16) := by
  refine ⟨meets (by decide) ⟨by decide, by decide, benchRecord, by decide, by decide⟩, fun p hp => ?_,
    meets (by decide) (by decide), by decide⟩
  simp only [List.mem_cons, List.not_mem_nil, or_false] at hp
  rcases hp with rfl | rfl | rfl <;> exact meets (by decide) (by decide)

/-- R193 to R197: products in each mode's formats, sums, a region at the last row and column, a drain with corrections and a
bias tile. -/
theorem wit_products :
    (∀ p ∈ [(cfgI8, (3 : BitVec 5)), (cfgL6, 0x0E), (cfgBF16, 0x10)],
      Meets (matSt p.1 p.2) .mmul { noFields with e := 2, imm := 126 + 255 * 128 } fun e s1 =>
        let g := s1.unit e
        let t := g.tiles.getD 2 Tile.void
        let foot : Foot := { rows := (126, 126 + t.nRows), rowSt := false, wr := 0,
                             rd := 4 ||| orBits ((List.range g.width).map fun k => (g.mc k).readBits),
                             cols := (List.range g.width).map fun k => (256 * k + 255, 256 * k + 256) }
        matGood e s1 foot (g.withScale 2) none = true ∧ e.grantFree s1 ∧ roleOk t.tag g.cfg.afmt = true ∧
          g.scaleFault 2 t.nRows 1 = none ∧ 126 + t.nRows ≤ 128 ∧
          ∀ k < g.width, (g.mc k).activeP.valid = true ∧ (g.mc k).activeP.half ≠ 2 ∧ 255 + (g.mc k).planeCols ≤ 256 ∧
            (g.mc k).activeP.k ≤ t.perRow) ∧
    Meets (matSt cfgI8 3) .mzero { noFields with imm := 127 + 252 * 128 } (fun e s1 =>
      matGood e s1 (regionFoot e.f false) [] none = true ∧ colN e.f + ncN e.f ≤ 256 * (s1.unit e).width) ∧
    Meets (matSt cfgI8 8) .mload { noFields with e := 2, imm := 126 + 248 * 128 + 1 * 2 ^ 17 + 1 * 2 ^ 24 } (fun e s1 =>
      let t := (s1.unit e).tiles.getD 2 Tile.void
      matGood e s1 (regionFoot e.f false) [2] none = true ∧ mloadTag (s1.unit e).cfg t.tag = true ∧ t.scl = false ∧ nrN e.f ≤ t.nRows ∧
        ncN e.f ≤ t.perRow ∧ colN e.f + ncN e.f ≤ 256 * (s1.unit e).width) ∧
    Meets (matSt cfgI8 3) .mrsum { noFields with e := 2, imm := 126 + 31 * 128, md := 1 } (fun e s1 =>
      let t := (s1.unit e).tiles.getD 2 Tile.void
      matGood e s1 (sumFoot [(126, 126 + t.nRows)] []) [2] none = true ∧ (s1.unit e).cfg.isInt = true ∧ isI8 t.tag = true ∧ t.scl = false ∧ 126 + t.nRows ≤ 128 ∧ 32 ≤ t.perRow) ∧
    Meets (matSt cfgI8 4) .mcsum { noFields with e := 2, imm := 1 + 31 * 128 + 224 * 2 ^ 17, md := 1 } (fun e s1 =>
      let g := s1.unit e
      let t := g.tiles.getD 2 Tile.void
      matGood e s1 (sumFoot [] (sumCols g.width 32 224)) [2] none = true ∧ g.cfg.isInt = true ∧ isI8 t.tag = true ∧ t.scl = false ∧ 32 ≤ 256 * g.width ∧ 2 ≤ t.nRows ∧ 32 ≤ t.perRow ∧
        ∀ c < g.width, 224 + coreCols 32 c ≤ 256) ∧
    Meets (withTile 2 { smallTile 2 8 with rows := 2 } (drainSt cfgI8 8 4)) .mdrain
      { noFields with d := 3, e := 2, a := .u 5, b := .u 6, md := 6, imm := 1 * 2 ^ 17 + 1 * 2 ^ 24 } (fun e s1 =>
      let g := s1.unit e
      let td := g.tiles.getD 3 Tile.void
      let te := g.tiles.getD 2 Tile.void
      matGood e s1 (drainFoot e.f) [2] (some 3) = true ∧ g.cfg.isInt = true ∧ 3 ≤ td.tag ∧ td.tag ≤ 8 ∧ te.scl = false ∧ te.tag = 8 ∧ 3 ≤ te.nRows ∧
        ncN e.f ≤ te.perRow ∧ nrN e.f ≤ td.nRows ∧ ncN e.f ≤ td.perRow ∧ colN e.f + ncN e.f ≤ 256 * g.width) ∧
    Meets (drainSt cfgBF16 0x10 0x12) .mdrain { noFields with d := 3, a := .u 5, b := .u 6 } (fun e s1 =>
      let g := s1.unit e
      let td := g.tiles.getD 3 Tile.void
      matGood e s1 (drainFoot e.f) [] (some 3) = true ∧ g.cfg.isInt = false ∧ drainFloatTag td.tag = true ∧ mdB e.f 1 = false ∧
        nrN e.f ≤ td.nRows ∧ ncN e.f ≤ td.perRow ∧ colN e.f + ncN e.f ≤ 256 * g.width) := by
  refine ⟨fun p hp => ?_, meets (by decide) (by decide), meets (by decide) (by decide),
    meets (by decide) (by decide), meets (by decide) (by decide),
    meets (by decide) (by decide), meets (by decide) (by decide)⟩
  simp only [List.mem_cons, List.not_mem_nil, or_false] at hp
  rcases hp with rfl | rfl | rfl <;> exact meets (by decide) (by unfold Env.grantFree; decide)

/-! #### Softmax: R200's worked row, with m 3, l 2.5, the scores 5, 1, 4, −7 and the outputs 8, −4, 12, 0 -/

def afOf (n : Bool) (m : Nat) : BitVec 96 := roundAF (.fin n m 0)
def exRow : RowState := { m := 0x40400000, l := roundAF (.fin false 5 (-1)), nan := false, empty := true, rowsum := 9 }
def exScores : List (AccEl × Bool) := [5, 1, 4].map (fun m => (⟨afOf false m, false⟩, false)) ++ [(⟨afOf true 7, false⟩, false)]
theorem test_smxu_probabilities : (smxRow exRow exScores 0x0C false).pd = [0x38, 0x18, 0x30, 0] := by decide
theorem test_smxu_sum : ((smxRow exRow exScores 0x0C false).st.l, (smxRow exRow exScores 0x0C false).st.m)
    = (roundAF (.fin false 8961 (-12)), 0x40A00000) := by decide
theorem test_smxu_sum_of_rounded : (smxRow exRow exScores 0x0C true).st.l = roundAF (.fin false 35 (-4)) := by decide
theorem test_smxu_outputs : [afOf false 8, afOf true 4, afOf false 12, 0].map (fun v => ((smxRow exRow exScores 0x0C false).scaleEl ⟨v, false⟩).v)
    = [afOf false 2, afOf true 1, afOf false 3, 0] := by decide

/-- Rows 0 and 1 in these states; the elements of row 0 stand at columns 0 to 3. -/
def softSt (dst : BitVec 5) : State :=
  withUnit (fun g => (withCore (fun m => { m with acc := mapFrom 0 (fun j x => (j, x.1)) exScores }) g).modRow 0 fun _ => exRow) (drainSt cfgE4M3 3 dst)
theorem test_smxi_row : (nextOf (exec (.smxi noFields) (softSt 0x12))).map (fun t => (aget t.groups 1).map fun g => g.row 0)
    = some (some { m := 0xFF800000, l := 0, nan := false, empty := false, rowsum := 9 }) := by decide
theorem test_smxu_state : (nextOf (exec (.smxu { noFields with d := 3, md := 8 }) (softSt 0x0C))).map
    (fun t => (aget t.groups 1).map fun g => (g.row 0).l) = some (some (roundAF (.fin false 8961 (-12)))) := by decide
/-- R201, hand-calculated: row 1 has m −infinity and l 0, so its factor is 0 and row 0 stays as it is. -/
theorem test_smxm_keeps : (nextOf (exec (.smxm { noFields with md := 1 + 8 * 128 }) (withUnit (fun g => g.modRow 1 fun r => { r with m := negInf32 }) (softSt 0x12)))).map
    (fun t => (aget t.groups 1).map fun g => ((g.row 0).m, (g.row 0).l, (g.el 0 0).v)) = some (some (0x40400000, exRow.l, afOf false 5)) := by decide +kernel
/-- R202: 5 divided by 2.5 is 2. -/
theorem test_smxf_quotient : finishEl 0x12 false exRow ⟨afOf false 5, false⟩ = 0x40000000 := by decide
theorem test_smxf_empty : (nextOf (exec (.smxf { noFields with d := 3 }) (softSt 0x12))).map (fun t => (aget t.groups 1).map fun g => (g.row 0).empty)
    = some (some false) := by decide

theorem wit_softmax :
    Meets (softSt 0x12) .smxi { noFields with imm := 127 } (fun e s1 =>
      matGood e s1 { rows := (127, 128), cols := [], rowSt := true, rd := 0, wr := 0 } [] none = true) ∧
    (∀ msk ∈ [(0 : BitVec 25), 1], Meets (softSt 0x0C) .smxu { noFields with d := 3, e := if msk = 1 then 2 else 0, md := 8 + msk * 2 ^ 18 + 2 ^ 19, imm := 1 * 2 ^ 17 }
      fun e s1 =>
        let g := s1.unit e
        let f := e.f
        let srcs := if f.md.getLsbD 18 then [2] else []
        let td := g.tiles.getD 3 Tile.void
        let te := g.tiles.getD f.e.toNat Tile.void
        let foot : Foot := { rows := (rowN f, rowN f + nrN f), rowSt := true, rd := 0, wr := 0,
                             cols := [(colN f, colN f + ncN f), (ocolN f, ocolN f + oncN f)] }
        matGood e s1 foot srcs (some 3) = true ∧ e.grantFree s1 ∧ g.cfg.mode = 0 ∧ drainFloatTag td.tag = true ∧
          (f.md.getLsbD 18 = true → te.scl = false ∧ te.tag = 3 ∧ nrN f ≤ te.nRows ∧ ncN f ≤ te.perRow) ∧ nrN f ≤ td.nRows ∧ ncN f ≤ td.perRow ∧
          colN f + ncN f ≤ 256 * g.width ∧ ocolN f + oncN f ≤ 256 * g.width) ∧
    Meets (softSt 0x12) .smxm { noFields with md := 1 + 8 * 128 } (fun e s1 =>
      matGood e s1 { rows := (0, 2), rowSt := true, rd := 0, wr := 0, cols := [(0, 4), (8, 12)] } [] none = true ∧ (s1.unit e).cfg.mode = 0 ∧
        colN e.f + ncN e.f ≤ 256 * (s1.unit e).width ∧ 8 + ncN e.f ≤ 256 * (s1.unit e).width) ∧
    Meets (softSt 0x12) .smxf { noFields with d := 3, md := 1, imm := 1 * 2 ^ 17 } (fun e s1 =>
      let td := (s1.unit e).tiles.getD 3 Tile.void
      matGood e s1 (regionFoot e.f true) [] (some 3) = true ∧ (s1.unit e).cfg.mode = 0 ∧ drainFloatTag td.tag = true ∧ nrN e.f ≤ td.nRows ∧
        ncN e.f ≤ td.perRow ∧ colN e.f + ncN e.f ≤ 256 * (s1.unit e).width) := by
  refine ⟨meets (by decide) (by decide), fun p hp => ?_,
    meets (by decide) (by decide), meets (by decide) (by decide)⟩
  simp only [List.mem_cons, List.not_mem_nil, or_false] at hp
  rcases hp with rfl | rfl <;> exact meets (by decide) (by unfold Env.grantFree; decide)

/-- s5 a page of memory. -/
def recordSt : State := withUnit (fun g => (withCore (fun m => { m with acc := mapFrom 0 (fun j x => (j, x.1)) exScores }) g).modRow 0 fun _ => exRow)
  (withTile 2 (smallTile 2 0x10) (withUnit (withCfg cfgBF16) (booted (sequencer (withU [(5, 0x200000), (6, 0x300000)])))))

/-- R203, R290: a record's M, FLAGS (EMPTY is bit 0) and L come back as they were stored. -/
theorem test_record_bytes : (match aget recordSt.groups 1 with
    | some g => ((g.recordBytes 0 0 4 true).take 4, loadRecord { exRow with m := 0, l := 0 } (g.recordBytes 0 0 4 true))
    | none => ([], exRow)) = ([0, 0, 0x40, 0x40], exRow) := by decide
def smxsF : Fields := { noFields with a := .u 5, md := 1 }
/-- What an `smxs` has taken in when it has issued, and the state in which it may complete. -/
def smxsSt : State := (nextOf (exec (.smxs smxsF) recordSt)).getD recordSt
def smxlSt : State := (nextOf (exec (.smxl smxsF) (withMem 0x200000 [1, 2, 3, 4] recordSt))).getD recordSt
theorem test_smxs_takes : ((aget smxsSt.groups 1).bind fun g => g.mops.getLast?.map fun m => (m.left.length, m.left.take 4))
    = some (32, [(0x200000, 0), (0x200001, 0), (0x200002, 0x40), (0x200003, 0x40)]) := by decide +kernel
theorem test_smxs_stores : leAfter (exec (.matrixComplete 1 0) smxsSt) 0x200000 4 = some 0x40400000 := by decide +kernel
theorem test_smxl_loads : (nextOf (exec (.matrixComplete 1 0) smxlSt)).map
    (fun t => (aget t.groups 1).map fun g => ((g.row 0).m, (g.row 0).rowsum)) = some (some (0x04030201, 9)) := by decide +kernel

def recordGood (a : Acc) (e : Env) (s1 : State) : Bool :=
  let vas := recordVas (e.addrPart s1 e.f.a 0) (nrN e.f) (ncN e.f) (mdB e.f 0)
  let ls := linesAt s1 (e.who s1) a vas
  (s1.transAll (e.who s1) a vas).isRight && !s1.anyReset (e.who s1) ls a.wr && vas.all fun va => !isMmio ls va

theorem wit_records : ∀ sto ∈ [(0 : BitVec 25), 1], ∀ p ∈ [((Instr.smxs : Fields → Instr), Acc.store), (.smxl, Acc.load)],
    Meets recordSt p.1 { noFields with a := .u 5, md := sto, imm := 2 ^ 17 } fun e s1 =>
      matGood e s1 (regionFoot e.f true) [] none = true ∧ (s1.pkg 0).stalled (s1.bucketOf e.w) = false ∧
        colN e.f + ncN e.f ≤ 256 * (s1.unit e).width ∧ e.addrPart s1 e.f.a 0 % 32 = 0 ∧ recordGood p.2 e s1 = true := by
  intro sto hs p hp
  simp only [List.mem_cons, List.not_mem_nil, or_false] at hs hp
  rcases hs with rfl | rfl <;> rcases hp with rfl | rfl <;> exact meets (by decide) (by decide +kernel)

/-- R207's example: z1 4, z2 3.5, m 4, l 2.5, threshold 0.25. -/
theorem test_confidence_top : conftExit false (.fin false 4 0) (.fin false 7 (-1)) (.fin false 4 0) (.fin false 5 (-1)) (.fin false 1 (-2)) = true := by
  decide
theorem test_confidence_margin : conftExit true (.fin false 4 0) (.fin false 7 (-1)) (.fin false 4 0) (.fin false 5 (-1)) (.fin false 1 (-2)) = false := by
  decide
def confF : Fields := { noFields with d := 3, a := .v 1, b := .v 2, c := .v 3 }
def confSt : State := user 1 fun w => withV 1 0x12 (fun _ => 0x4060000040800000) (withV 2 0x12 (fun _ => 0x4020000040800000) (withV 3 0x12 (fun _ => 0x3E800000) w))
theorem test_conft_top : qAfter (exec (.conftTop confF) confSt) 3 0 = some 0xFFFF := by decide
theorem test_conft_mrg : qAfter (exec (.conftMrg { confF with md := 1 }) confSt) 3 0 = some 0 := by decide

/-- A descriptor of no token: K and V BF16, DK 4, DV 4. -/
def descBytes : List Byte := List.replicate 0x2C 0 ++ [0x10, 0x10, 4, 0] ++ List.replicate 10 0 ++ [4, 0] ++ List.replicate 4 0
def attnSt : State := withMem 0x200000 descBytes (withTile 3 { smallTile 0 0x12 with base := 1 } recordSt)
def attnF : Fields := { noFields with d := 3, e := 2, a := .u 5, b := .u 48, md := 3, imm := 2 ^ 17 }
def bfqF : Fields := { noFields with a := .u 5, b := .u 6, c := .u 7 }
def bfqSt : State := booted (user 1 (withU [(5, 0x200000), (6, 0x3000000004), (7, 11)]))

theorem wit_attention :
    (∀ f ∈ [attnF, { attnF with d := 0, b := .v 0, md := 0 }], Meets attnSt .attn f fun e s1 =>
      let g := s1.unit e
      let dst := if mdB f 1 then some f.d.toNat else none
      matGood e s1 { rows := (0, 2), cols := [(0, 4)], rowSt := true, rd := 4, wr := 3 } (g.withScale 2) dst = true ∧
        (s1.pkg 0).stalled (s1.bucketOf e.w) = false ∧ e.grantFree s1 ∧ e.addrPart s1 f.a 0 = 0x200000 ∧
        oneGood s1 (e.who s1) Acc.load 0x200000 64 = true ∧
        g.attnFault f (parseKvd ((vaRange 0x200000 64).map fun a => memGet s1.mem (keyOf (linesAt s1 (e.who s1) Acc.load (vaRange 0x200000 64)) 0 a))) = none ∧
        e.w.bound = []) ∧
    (∀ c ∈ [Src.v 3, .imm], ∀ p ∈ [((Instr.conftTop : Fields → Instr), (0 : BitVec 25)), (.conftMrg, 1)], Meets confSt p.1 { confF with c := c, md := p.2 } fun e _ =>
      e.tagOf (.v 1) = some 0x12 ∧ e.tagOf (.v 2) = some 0x12 ∧ (∀ u ∈ e.tagOf c, u = 0x12) ∧
        e.valueFaults 0x12 [.v 1, .v 2, c] = none) ∧
    Meets bfqSt .bfq bfqF (fun e s1 => e.leading = some 0 ∧ e.addrPart s1 (.u 5) 0 % 65536 = 0 ∧
      (match s1.trans (e.who s1) { types := 1 } (e.addrPart s1 (.u 5) 0) with | .at _ _ => true | _ => false) = true ∧
      (s1.pkg 0).bfQueue.length < 1024) := by
  refine ⟨fun f hf => ?_, fun c hc p hm => ?_, meets (by decide) (by decide +kernel)⟩
  · simp only [List.mem_cons, List.not_mem_nil, or_false] at hf
    rcases hf with rfl | rfl <;> exact meets (by decide) (by unfold Env.grantFree; decide +kernel)
  · simp only [List.mem_cons, List.not_mem_nil, or_false] at hc hm
    rcases hc with rfl | rfl <;> rcases hm with rfl | rfl <;> exact meets (by decide) (by decide)
theorem test_bfq_entry : (nextOf (exec (.bfq bfqF) bfqSt)).map (fun t => (t.pkg 0).bfQueue.map fun r => (r.seqNo, r.pos, r.layer))
    = some [(4, 48, 11)] := by decide +kernel
theorem test_attn_engaged : (nextOf (exec (.attn attnF) attnSt)).map (fun t => (aget t.groups 1).map fun g =>
    (g.mops.map MOp.ctr, (g.tiles.getD 3 Tile.void).state)) = some (some ([some 48], 1)) := by decide +kernel

/-! ### Group 0xD -/

/-- R210's networks, with an open phase at one of them. -/
def barF (scope id : Nat) : Fields := { noFields with md := BitVec.ofNat 25 scope, imm := BitVec.ofNat 32 id }
theorem test_bar_completes : stAfter (exec (.bar (barF 0 15)) (user 0xFFFFFFFF id)) 0 31 = some .run := by decide
theorem test_bar_holds : stAfter (exec (.bar (barF 0 15)) (user 0xFFFF id)) 0 3 = some (.hold (.bar 0 15)) := by decide
theorem test_barm_holds : stAfter (exec (.barm (barF 1 (3 + 1 * 65536))) (user 0xFFFFFFFF id)) 0 3 = some (.hold (.bar 1 3)) := by decide
/-- R213's decrements of COUNT 2, INIT 2, PHASE 7: to 1, then to COUNT 2 and PHASE 8. -/
theorem test_barrier_object : (barObjStep 0x0007000200000002, barObjStep 0x0007000200000001, barObjStep 0x0007000200000000)
    = (0x0007000200000001, 0x0008000200000002, 0x0007000200000000) := by decide

theorem wit_barrier_networks :
    (∀ p ∈ [(0, 15), (1, 3), (3, 1)], Meets (user 1 id) .bar (barF p.1 p.2) fun e s1 => e.taking ≠ 0 ∧ s1.barAllowed e.w p.1 = true) ∧
    (∀ p ∈ [((0 : Nat), (15 + 31 * 65536 : Nat)), (1, 3 + 128 * 65536)], Meets (user 1 id) .barm (barF p.1 p.2) fun e s1 =>
      e.taking ≠ 0 ∧ s1.barAllowed e.w p.1 = true) ∧
    (∀ x ∈ placed0.groups, x.2.phase = .running) ∧ (∀ c ∈ placed0.cores, c.2.hoops = []) ∧
    (BarKey.mk 1 0 1).hasGroup 1 benchGroup = true := by
  refine ⟨fun p hp => ?_, fun p hp => ?_, by decide, by decide, by decide⟩ <;>
    simp only [List.mem_cons, List.not_mem_nil, or_false] at hp
  · rcases hp with rfl | rfl | rfl <;> exact meets (by decide) (by decide)
  · rcases hp with rfl | rfl <;> exact meets (by decide) (by decide)

/-- A phase of every participant in which the warp and the sequencer of the unit have arrived, and one of them has not. -/
def phaseSt (seqIn : Bool) : State :=
  let held (w : Warp) : Warp := { w with lanes := w.lanes.map fun x => if x.isRun then { x with st := .hold (.bar 1 0) } else x }
  { placed0 with
    phases := [((BarKey.mk 1 0 1).code, { count := none, away := [] })],
    warps := amod (if seqIn then amod placed0.warps 40 held else placed0.warps) 0 held }
theorem wit_barrier_completion :
    (phaseSt true).barDone (barKeyOf (BarKey.mk 1 0 1).code) { count := none, away := [] } = true ∧
    (phaseSt false).barDone (barKeyOf (BarKey.mk 1 0 1).code) { count := none, away := [] } = false ∧
    (phaseSt false).barDone (barKeyOf (BarKey.mk 1 0 1).code) { count := some 1, away := [] } = true := by decide

/-- s5 names an object in the scratchpad allocation with COUNT 2, INIT 2, PHASE 7; s6 holds 7. -/
def objSt (key : Nat) : State :=
  withMem (spadKey 0 8) (leBytes 8 0x0007000200000002)
    (withMem 0x200008 (leBytes 8 0x0007000200000002) (booted (issuing key 1 (withU [(5, if key = 0 then 0xFFFFFFFFF0000000 else 0x200000), (6, 7), (7, 8)]) placed0)))
def barvF : Fields := { noFields with d := 63, a := .u 5, imm := 8 }
theorem test_barv_phase : uAfter (exec (.barv barvF) (objSt 0)) 0 63 = some 7 := by decide
theorem test_barv_object : leAfter (exec (.barv barvF) (objSt 0)) (spadKey 0 8) 8 = some 0x0007000200000001 := by decide
theorem test_wait_holds : stAfter (exec (.wait { barvF with d := 0, b := .u 6 }) (objSt 40)) 40 0 = some (.hold (.wait 0x200008 7)) := by decide +kernel

theorem wit_barrier_objects :
    (∀ key ∈ [0, 40], Meets (objSt key) .barv barvF fun e s1 =>
      e.leading = some 0 ∧ e.w.busy 63 = false ∧ (s1.pkg 0).stalled (s1.bucketOf e.w) = false ∧ s1.links = [] ∧ s1.dead = [] ∧ s1.dir = [] ∧
        (let va := e.vaA s1
         let who := e.who s1
         let ls := linesAt s1 who Acc.atomic (vaRange va 8)
         oneGood s1 who Acc.atomic va 8 = true ∧ s1.storeBad who (keyOf ls 0 va) = none ∧
           succeeds (s1.atomStep who ls 0 va 8 barObjStep) = true)) ∧
    (∀ key ∈ [40], ∀ x ∈ [(6 : BitVec 6), 7], Meets (objSt key) .wait { barvF with d := 0, b := .u x } fun e s1 =>
      e.leading = some 0 ∧ (s1.pkg 0).stalled (s1.bucketOf e.w) = false ∧ oneGood s1 (e.who s1) Acc.waiting (e.vaA s1) 8 = true ∧
        (barPhase (s1.numberAt (linesAt s1 (e.who s1) Acc.waiting (vaRange (e.vaA s1) 8)) 0 (e.vaA s1) 8) = e.addrPart s1 e.f.b 0 % 2 ^ 16 ↔ x = 6)) := by
  refine ⟨fun key hk => ?_, fun key hk x hx => ?_⟩
  · simp only [List.mem_cons, List.not_mem_nil, or_false] at hk
    rcases hk with rfl | rfl <;> exact meets (by decide) (by decide +kernel)
  · simp only [List.mem_cons, List.not_mem_nil, or_false] at hk hx
    subst hk
    rcases hx with rfl | rfl <;> exact meets (by decide) (by decide +kernel)

/-- s5 names a record. -/
def launchSt (key : Nat) (c : Chain → Chain) : State :=
  let s := booted (issuing key 1 (withU [(5, 0x200100), (6, 15)]) placed0)
  { s with pkgs := amod s.pkgs 0 fun p => { p with chains := p.chains.map c } }
def launchF : Fields := { noFields with d := 63, a := .u 5, b := .u 6, imm := 0x100 }
theorem test_launch_number : uAfter (exec (.launch launchF) (launchSt 0 id)) 0 63 = some 1 := by decide +kernel
theorem test_launch_links : leAfter (exec (.launch launchF) (launchSt 0 fun c => { c with head := 0x200000, tail := 0x200000, next := 7, done := 5 })) 0x200000 8
    = some 0x200200 := by decide +kernel
def appends (x : Try (Option (BitVec 32 × State))) : Bool := match x with | .ok (some _) => true | _ => false

/-- What the appended record's link and the tail's need: homeless or host memory, aligned, with nothing lost. -/
theorem takesBytes_of {s : State} {k n : Nat} (h : ((isHomeless k || isHostKey k) && k % n == 0) = true)
    (hc : s.links = [] ∧ s.dead = [] ∧ s.dir = []) : s.takesBytes k n := by
  simp only [Bool.and_eq_true, Bool.or_eq_true, beq_iff_eq] at h
  exact ⟨h.1, h.2, connected_of hc⟩

/-- The two links of an append, at the last 8 bytes of a page too. -/
theorem wit_append_writes : (launchSt 0 id).takesBytes 0x200200 8 ∧ (launchSt 0 id).takesBytes 0x20FFF8 8 :=
  ⟨takesBytes_of (by decide) (by decide), takesBytes_of (by decide) (by decide)⟩

theorem wit_launch : ∀ key ∈ [0, 34, 40], Meets (launchSt key id) .launch launchF fun e s1 =>
    e.leading = some 0 ∧ e.w.busy 63 = false ∧ e.vaA s1 % 256 = 0 ∧
      (match s1.trans (e.who s1) { types := 5 } (e.vaA s1) with | .at (.mem k) _ => k == 0x200200 | _ => false) = true ∧
      appends (s1.append (pkgOfCore e.w.core) (e.uniSrc s1 e.f.b % 16) 0x200200 (if e.w.kind = .service then none else some e.w.ctx.asid) none) = true ∧
      e.uniSrc s1 e.f.b % 16 = 15 := by
  intro key hk
  simp only [List.mem_cons, List.not_mem_nil, or_false] at hk
  rcases hk with rfl | rfl | rfl <;> exact meets (by decide) (by decide +kernel)
/-- R264: a chain with 2^31 − 1 records that have not completed is full. -/
theorem wit_chain_full : let c := (launchSt 0 fun c => { c with next := BitVec.ofNat 32 (2 ^ 31), done := 0 }).chain 0 0
    2 ^ 31 - 1 ≤ (c.next - 1 - c.done).toNat := by decide

/-- s5: the aperture of core 33, which is on die 1; the warp may stand on another core, and landing slots may be taken. -/
def migSt (va : Word) (slots : List Nat) : State :=
  let s := booted (user 0xFFFFFFFF (withU [(5, va)]))
  { s with warps := slots.foldl (fun m i => aset m (33 * 64 + i) { benchWarp with core := 33, slot := i }) s.warps }
def migF : Fields := { noFields with a := .u 5 }
/-- The warp of key 0 stands in a landing slot of core 33. -/
def awaySt (va : Word) : State :=
  let s := migSt va []
  { s with warps := amod s.warps 0 fun w => { w with core := 33, slot := 32, away := some 1 } }
theorem test_migrate_lands : (warpOf (exec (.migrate migF) (migSt 0xFFFFFFFFF2100000 [32])) 0).map (fun w => (w.core, w.slot, w.away))
    = some (33, 33, some 1) := by decide +kernel
theorem wit_migration :
    (∀ x ∈ [(migSt 0xFFFFFFFFF2100000 [], 1, true), (migSt 0xFFFFFFFFF2100000 [32, 33], 1, false), (awaySt 0xFFFFFFFFF0000000, 0, true),
        (migSt 0xFFFFFFFFF0300000 [], 0, true)],
      Meets x.1 .migrate migF fun e s1 => e.leading = some 0 ∧ e.w.kind ≠ .service ∧ (e.w.which fun x => !x.isExit) = e.lanes ∧
        (∀ y ∈ e.w.lanes, y.st = .run ∨ y.st = .exited) ∧ e.w.countersZero = true ∧ e.w.flights = [] ∧
        (match s1.migTarget (e.waited.who s1) (e.waited.addrPart s1 (.u 5) 0) with | .go g => g.target == x.2.1 | _ => false) = true ∧
        (x.2.2 = true → (s1.landingSlot 33).isSome = true)) ∧
    Meets (migSt 0x9000000 [] |> mapped 0x9000000 0x6F 0) .migrate migF (fun e s1 =>
      s1.migTarget (e.waited.who s1) (e.waited.addrPart s1 (.u 5) 0) = .stay) := by
  refine ⟨fun x hx => ?_, meets (by decide) (by decide +kernel)⟩
  simp only [List.mem_cons, List.not_mem_nil, or_false] at hx
  rcases hx with rfl | rfl | rfl | rfl <;> exact meets (by decide) (by decide +kernel)

/-- The DONATE launch of R218's example: four warps of 64 registers. -/
def four : AMap Warp := (List.range 4).map fun i => (i, freshWarp .user 1 0 i 0 0 i 64 32 0x10000 (benchCtx 1))
theorem test_donation : newBudgets four [(0, 2, 4), (3, 2, 6)] = some [(0, 32), (1, 64), (2, 144), (3, 16)] := by decide
theorem test_donation_too_much : newBudgets four [(0, 2, 4), (3, 2, 7)] = none := by decide
def donateSt (key : Nat) : State :=
  let s := withFlags 4 (issuing key 0xFFFFFFFF (withU [(5, 2)]) { placed0 with warps := aset four 40 benchSeq })
  { s with warps := if key = 3 then (List.range 3).foldl (fun m k => amod m k fun w => { w with lanes := w.lanes.map fun x => { x with st := .hold .regdon } }) s.warps
                    else s.warps }
def donateF : Fields := { noFields with a := .u 5, md := 6 }
theorem test_regdon_records : (nextOf (exec (.regdon donateF) (donateSt 0))).map (fun t => (aget t.groups 1).map fun g => g.wgs.map Wg.gifts)
    = some (some [[(0, 2, 6)]]) := by decide
theorem test_regdon_meets : ((nextOf (exec (.regdon donateF) (donateSt 3))).map fun t =>
    [0, 1, 2, 3].map fun k => (aget t.warps k).map fun w => (w.vregs.length, (w.lane 0).st == .run))
      = some [some (64, true), some (64, true), some (112, true), some (16, true)] := by decide +kernel
theorem wit_donation : (∀ key ∈ [0, 3], Meets (donateSt key) .regdon donateF fun e s1 =>
      (s1.recOf e.w).map LRec.donate = some true ∧ e.w.away = none ∧ e.leading = some 0 ∧
        ((aget s1.groups e.w.gid).bind fun g => g.wgs[e.w.wg]?).isSome = true) ∧
    Meets { donateSt 0 with cur := some ⟨0, 0, 0x10000, false⟩ } .regdon donateF (fun e s1 => e.leading = none ∧ e.w.away = none ∧
      (s1.recOf e.w).map LRec.donate = some true) ∧
    Meets (user 0 id) .regdon donateF (fun e s1 => e.taking = 0 ∧ (s1.recOf e.w).map LRec.donate = some false) ∧
    Meets { awaySt 0 with cur := some ⟨0, 0, 0x10000, false⟩ } .regdon donateF (fun e _ => e.taking = 0 ∧ e.w.away ≠ none) ∧
    (four.map fun e => e.2.wid).Nodup ∧ Keyed four := by
  refine ⟨fun key hk => ?_, meets (by decide) (by decide), meets (by decide) (by decide), meets (by decide) (by decide), by decide,
    by unfold Keyed; decide⟩
  simp only [List.mem_cons, List.not_mem_nil, or_false] at hk
  rcases hk with rfl | rfl <;> exact meets (by decide) (by decide)

/-- The die's budget is `e` watts. -/
def powerSt (e : Nat) : State := let s := booted (sequencer id); { s with dies := [(0, { s.die 0 with pmE := e, pmCharged := 10 })] }
def pgrantF (n : Nat) : Fields := { noFields with imm := BitVec.ofNat 32 n }
theorem test_pgrant_given : (nextOf (exec (.pgrant (pgrantF 2)) (powerSt 330))).map (fun t => ((aget t.groups 1).map Group.grants, (t.die 0).pmCharged))
    = some (some 2, 1034) := by decide
theorem test_pgrant_queued : (nextOf (exec (.pgrant (pgrantF 65535)) (powerSt 330))).map (fun t => (t.die 0).pmQueue.map GrantReq.units)
    = some [33553920] := by decide
theorem wit_grants : (Meets (powerSt 330) .pgrant (pgrantF 0) fun e s1 => e.f.imm.extractLsb' 0 16 = 0 ∧ (s1.unit e).grantReq = none) ∧
    (∀ x ∈ [(2, true), (65535, false)], Meets (powerSt 330) .pgrant (pgrantF x.1) fun e s1 => e.taking ≠ 0 ∧
      (aget s1.groups e.w.gid).map (fun g => (g.grantReq, g.seq)) = some (none, some e.key) ∧ (s1.die (dieOf e.w.core)).pmQueue = [] ∧
        decide ((s1.die (dieOf e.w.core)).pmCharged + 512 * x.1 ≤ 400 * (s1.die (dieOf e.w.core)).pmE) = x.2 ∧ e.w.swPark = false ∧ e.w.flights = []) := by
  refine ⟨meets (by decide) (by decide), fun x hx => ?_⟩
  simp only [List.mem_cons, List.not_mem_nil, or_false] at hx
  rcases hx with rfl | rfl <;> exact meets (by decide) (by decide)

/-! ### Group 0xE -/

/-- Lanes 1 and 3 of the user warp are parked on posting 9, all of them or beside lanes that run. -/
def trapSt (rest : LaneSt) : State :=
  let s := service (withU [(5, 9), (6, 0xA), (7, 8)])
  { s with
    postings := [(9, { target := .warp 0, lanes := 0xA })],
    warps := amod s.warps 0 fun w => { w with lanes := mapFrom 0 (fun l x => { x with st := if l = 1 ∨ l = 3 then .park 5 0 9 else rest }) w.lanes } }
def trapF (act : Nat) : Fields := { noFields with d := 63, a := .u 5, b := .u 6, md := BitVec.ofNat 25 act }
theorem test_trapret_mask : uAfter (exec (.trapret (trapF 0)) (trapSt .run)) 34 63 = some 0xA := by decide
theorem test_trapret_resumes : stAfter (exec (.trapret (trapF 0)) (trapSt .run)) 0 3 = some .run := by decide
theorem test_trapret_skip_pc : pcAfter (exec (.trapretSkip { trapF 1 with b := .u 7 }) (trapSt .run)) 3 = some 0x10010 := by decide
theorem test_trapret_skip_other : stAfter (exec (.trapretSkip { trapF 1 with b := .u 7 }) (trapSt .run)) 0 1 = some (.park 5 0 9) := by decide
theorem test_trapret_kill : warpOf (exec (.trapretKill (trapF 2)) (trapSt .exited)) 0 = none := by decide
theorem wit_trapret : ∀ p ∈ [((Instr.trapret : Fields → Instr), 0), (.trapretSkip, 1), (.trapretKill, 2)], ∀ rest ∈ [LaneSt.run, .exited],
    Meets (trapSt rest) p.1 (trapF p.2) (fun e s1 => e.taking ≠ 0 ∧ e.w.busy 63 = false ∧ e.uniSrc s1 (.u 5) = 9 ∧
      (aget s1.postings 9).map Posting.target = some (.warp 0) ∧ (aget s1.warps 0).isSome = true ∧ s1.unitAnswers 1 = true ∧
        ((aget s1.warps 0).map fun w => w.parkedOn 9 &&& BitVec.ofNat 32 (e.uniSrc s1 (.u 6))) = some 0xA ∧
        ((aget s1.warps 0).map fun w => (w.flights.length, w.countersZero)) = some (0, true)) ∧ Keyed (trapSt rest).warps ∧
    Meets (trapSt rest) p.1 { trapF p.2 with a := .u 6 } fun e s1 => aget s1.postings (e.uniSrc s1 (.u 6)) = none := by
  intro p hp rest hr
  simp only [List.mem_cons, List.not_mem_nil, or_false] at hp hr
  rcases hr with rfl | rfl <;> rcases hp with rfl | rfl | rfl <;>
    exact ⟨meets (by decide) (by decide), by unfold Keyed; decide, meets (by decide) (by decide)⟩

/-- R221: the last entries of indexed CSRs, FSTAT, and a context CSR with every bit set. -/
theorem test_csrr_reset : uAfter (exec (.csrr { noFields with d := 9, b := .u 0, imm := 2 }) (user 1 id)) 0 9 = some 20000 := by decide
theorem test_csrr_chain : uAfter (exec (.csrr { noFields with d := 9, b := .u 5, imm := 0x0D + 0x0E * 256 }) (user 1 (withU [(5, 1)]))) 0 9
    = some 0x0000000100000000 := by decide
theorem test_csrw_ptbase : (warpOf (exec (.csrw { noFields with a := .u 5, b := .u 0, imm := 4 }) (service (withU [(5, 0xFFFFFFFFFFFFFFFF)]))) 34).map
    (fun w => w.ctx.ptbase) = some 0x00FFFFFFFFFF8000 := by decide
theorem test_csrw_svcq : (nextOf (exec (.csrw { noFields with a := .u 5, b := .u 0, imm := 9 }) (service (withU [(5, 0xFFFFFFFFFFFFFFFF)])))).map
    (fun t => (t.die 0).svcq) = some 0x00FFFFFFFFFE0000 := by decide
theorem test_csrr_privileged : (stAfter (exec (.csrr { noFields with d := 9, b := .u 0, imm := 8 }) (user 1 id)) 0 0).map (fun x => match x with
    | .park c _ _ => c | _ => 0) = some 0x02 := by decide
theorem test_lnkq_status : uAfter (exec (.lnkq { noFields with d := 9, imm := 15 })
    ((service id).setLink 15 { (service id).link 15 with runRate := 3, width := 8, gmap := 0xFF, att := 1 })) 34 9 = some 0x138FF := by decide
theorem test_halt_die : (nextOf (exec (.halt noFields) (service id))).map (fun t => (t.die 0).halted) = some true := by decide
theorem wit_csr :
    (∀ imm ∈ [(0x0D + 0x0F * 256 : BitVec 32), 0x14 + 39 * 256, 0, 7], Meets (user 1 id) .csrr { noFields with d := 63, b := .u 0, imm := imm } fun e s1 =>
      e.taking ≠ 0 ∧ e.csrFault s1 true = none ∧ e.w.busy 63 = false ∧ e.w.recent = []) ∧
    (∀ imm ∈ [(3 : BitVec 32), 7, 1, 2, 8, 9, 0x0A], Meets (service id) .csrw { noFields with a := .u 5, b := .u 0, imm := imm } fun e s1 =>
      e.taking ≠ 0 ∧ e.csrFault s1 false = none ∧ e.w.flights = []) ∧
    (∀ k ∈ [(0 : BitVec 32), 1, 2, 3, 6], Meets (service id) .lnkq { noFields with d := 63, imm := 15 + k * 16 } fun e s1 =>
      e.taking ≠ 0 ∧ e.w.busy 63 = false ∧ (s1.link 15).att < 4 ∧ (s1.link 15).runRate < 16 ∧ (s1.link 15).width < 16) ∧
    Meets (service id) .halt noFields (fun e s1 => e.taking ≠ 0 ∧ s1.links = [] ∧ s1.dead = [] ∧ s1.dir = []) := by
  refine ⟨fun x hx => ?_, fun x hx => ?_, fun x hx => ?_, meets (by decide) (by decide)⟩ <;>
    simp only [List.mem_cons, List.not_mem_nil, or_false] at hx
  · rcases hx with rfl | rfl | rfl | rfl <;> exact meets (by decide) (by decide)
  · rcases hx with rfl | rfl | rfl | rfl | rfl | rfl | rfl <;> exact meets (by decide) (by decide)
  · rcases hx with rfl | rfl | rfl | rfl | rfl <;> exact meets (by decide) (by decide)

/-- s5 an address of the mapped leaf, s6 ASID 1 and one above the leaf's COUNT, s7 an address without an entry. -/
def transSt : State := mapped 0x9000000 0x6F 0 (booted (service (withU [(5, 0x9000000), (6, 1), (7, 0x200000), (8, 0xABCD), (9, 2 ^ 50)])))
theorem test_tlbinv_address : (nextOf (exec (.tlbinvAddr { noFields with a := .u 5, b := .u 6 }) transSt)).map (fun t => (t.core 0).tlb.length)
    = some 0 := by decide +kernel
theorem test_tlbinv_other_asid : (nextOf (exec (.tlbinvAsid { noFields with b := .u 7, md := 8 + 5 }) transSt)).map (fun t => (t.core 0).tlb.length)
    = some 1 := by decide +kernel
theorem test_tlbinv_all : (nextOf (exec (.tlbinvAll { noFields with md := 16 + 2 }) transSt)).map (fun t => (t.core 0).tlb.length) = some 0 := by
  decide +kernel
def ptwF : Fields := { noFields with d := 63, a := .u 7, b := .u 8, c := .u 6, md := 8 }
theorem test_ptw_entry : leAfter (exec (.ptw ptwF) transSt) 0x110000 8 = some 0xABCD := by decide +kernel
/-- R227: the level-3 entry of the address is not valid, so no level-2 table is obtained. -/
theorem test_ptw_level : uAfter (exec (.ptw { ptwF with a := .u 9 }) transSt) 34 63 = some 2 := by decide +kernel
def pgrefF (d : BitVec 32) : Fields := { noFields with d := 63, a := .u 7, b := .imm, imm := d }
theorem test_pgref_count : uAfter (exec (.pgref (pgrefF 3)) transSt) 34 63 = some 3 := by decide +kernel
theorem test_pgref_below : uAfter (exec (.pgref (pgrefF 0xFFFFFFFF)) transSt) 34 63 = some 0x4000000000000000 := by decide +kernel
theorem wit_translations :
    (∀ sc ∈ [(0 : BitVec 25), 1, 2, 3, 5], ∀ p ∈ [((Instr.tlbinvAddr : Fields → Instr), (0 : BitVec 25), Src.u 5), (.tlbinvAsid, 8, .v 0), (.tlbinvAll, 16, .v 0)],
      Meets transSt p.1 { noFields with a := p.2.2, b := if p.2.1 = 16 then .v 0 else .u 6, md := sc + p.2.1 } fun e s1 => e.taking ≠ 0 ∧ s1.inFlight = []) ∧
    (Meets transSt .ptw ptwF fun e s1 => e.taking ≠ 0 ∧ e.w.busy 63 = false ∧ s1.inFlight = [] ∧
      s1.entryAt 0 (e.uniSrc s1 e.f.a) 1 4 (ptbAddr e.w.ctx.ptbase) = .inr 0x110000 ∧
      succeeds (s1.agentWrite 0 0x110000 (leBytes 8 (e.uniSrc s1 e.f.b) ++ leBytes 8 (e.uniSrc s1 e.f.c))) = true ∧
      isHomeless 0x110000 = true ∧ s1.links = [] ∧ s1.dead = [] ∧ s1.dir = []) ∧
    (Meets transSt .ptw { ptwF with a := .u 9 } fun e s1 => s1.entryAt 0 (e.uniSrc s1 e.f.a) 1 4 (ptbAddr e.w.ctx.ptbase) = .inl 2) ∧
    (∀ d ∈ [(3 : BitVec 32), 65535, 0xFFFFFFFF], Meets transSt .pgref (pgrefF d) fun e s1 => e.taking ≠ 0 ∧ e.w.busy 63 = false ∧ s1.inFlight = [] ∧
      s1.walk 0 e.w.ctx.ptbase (e.uniSrc s1 e.f.a) = .leaf 0x110000 1 63 0 ∧
      succeeds (s1.agentWrite 0 0x110000 (leBytes 8 (63 + 1024 * d.toNat))) = true ∧ s1.links = [] ∧ s1.dead = [] ∧ s1.dir = []) ∧
    (Meets transSt .pgref { pgrefF 1 with a := .u 9 } fun e s1 => (match s1.walk 0 e.w.ctx.ptbase (e.uniSrc s1 e.f.a) with | .fail _ => true | _ => false) = true) := by
  refine ⟨fun sc hs p hp => ?_, meets (by decide) (by decide +kernel), meets (by decide) (by decide +kernel), fun d hd => ?_,
    meets (by decide) (by decide +kernel)⟩
  · simp only [List.mem_cons, List.not_mem_nil, or_false] at hs hp
    rcases hs with rfl | rfl | rfl | rfl | rfl <;> rcases hp with rfl | rfl | rfl <;> exact meets (by decide) (by decide)
  · simp only [List.mem_cons, List.not_mem_nil, or_false] at hd
    rcases hd with rfl | rfl | rfl <;> exact meets (by decide) (by decide +kernel)
/-- R228: a COUNT that falls to zero clears V and reports the frame. -/
theorem test_pgref_freed : uAfter (exec (.pgref (pgrefF 0xFFFFFFFF)) (withMem 0x110000 (leBytes 8 (63 + 1024)) transSt)) 34 63
    = some 0x8000000000000000 := by decide +kernel


/-! #### Saving and restoring: the values of the context-save program -/

/-- `v0`, `v2` and a VOID register of the program. -/
def exV0 : VReg := { tag := 8, shape := .affine 1, lanes := (List.range 32).map fun l => BitVec.ofNat 64 (l + l * 2 ^ 32) }
def exV2 : VReg := { tag := 9, shape := .general, lanes := (List.range 32).map fun l => if l < 16 ∨ l = 20 then 0 else BitVec.ofNat 64 l }
theorem test_record_affine : exV0.record
    = [0x48, 0, 0x20, 0, 0, 0, 0, 0, 0, 0, 0, 0, 0, 0, 0, 0, 1] ++ List.replicate 15 0 := by decide
theorem test_record_deltas : exV2.record = [9, 1, 0x30, 0, 0, 0, 0, 0] ++ List.replicate 24 0
    ++ [0x10, 0x11, 0x12, 0x13, 0, 0x15, 0x16, 0x17, 0x18, 0x19, 0x1A, 0x1B, 0x1C, 0x1D, 0x1E, 0x1F] := by decide
theorem test_record_void : VReg.void.record = [0, 0, 0x10, 0, 0, 0, 0, 0, 0, 0, 0, 0, 0, 0, 0, 0] := by decide
def exT1 : Tile := { Tile.void with defd := true, state := 2, fmt := 3, rows := 3, base := 1 }
theorem test_tile_record : exT1.record.take 16 = [0, 1, 0, 0, 3, 0, 0, 3, 0x80, 0, 2, 0, 0, 0, 0, 0] := by decide
/-- Lane 20 of the program: parked with XLATE at 0x8000000110. -/
def exLane : Lane := { pc := 0x8000000110, st := .park 5 0 3, tid := 20, delivery := none }
theorem test_lane_record : exLane.saved false = (0x8000000111, 5, 0) := by decide

/-- A save area of 0x80000 bytes in a page of the capacity tier at 0x9000000, which s5 names; a configured unit. -/
def saveSt : State :=
  let s := mapped 0x9000000 0x6F 0 (booted (user 0xFFFFFFFF fun w =>
    withV 1 8 (fun l => BitVec.ofNat 64 (3 * l)) (withU [(5, 0x9000000)] w)))
  { withTile 3 exT1 (withUnit (withCfg cfgI8) s) with
    launches := amod s.launches 1 fun l => { l with record := { l.record with sab := 0x9000000, str := 0x80000 } } }

def savableB (e : Env) (s : State) (a : Acc) (va n : Nat) : Bool :=
  match e.area s a va n with
  | .inl _ => false
  | .inr ls => va % 64 == 0 && !s.anyReset (e.who s) ls a.wr && (vaRange va n).all fun x => !isMmio ls x

theorem savable_of {e : Env} {s : State} {a : Acc} {va n : Nat} (h : savableB e s a va n = true) : ∃ ls, e.savable s a va n ls := by
  unfold savableB at h
  split at h
  · exact absurd h Bool.false_ne_true
  · next ls hl =>
    simp only [Bool.and_eq_true, beq_iff_eq, Bool.not_eq_true'] at h
    exact ⟨ls, h.1.1, hl, h.1.2, inMemory_of h.2⟩

/-- The section `bs` passes the checks of a save, and its lines are obtained. -/
def savesB (e : Env) (s : State) (va : Nat) (bs : List Byte) : Bool :=
  savableB e s Acc.saveOut va bs.length &&
    match e.area s Acc.saveOut va bs.length with
    | .inl _ => false
    | .inr ls => succeeds (s.putBytes (e.who s) ls 0 0 ((vaRange va bs.length).zip bs))

def atSave : Fields := { noFields with d := 63, a := .u 5 }
theorem test_control_length : (controlBytes benchWarp 1 (fun _ => 7) fun _ => []).length = 1600 := by decide +kernel
theorem test_vsave_length : uAfter (exec (.vsave { atSave with c := .v 1, md := 1 }) saveSt) 0 63 = some 64 := by decide +kernel
theorem test_tsv_length : uAfter (exec (.tsv { atSave with e := 2, md := 1 }) saveSt) 0 63 = some 288 := by decide +kernel
theorem test_accsv_length : uAfter (exec (.accsv { atSave with imm := 1 * 2 ^ 24 }) saveSt) 0 63 = some 160 := by decide +kernel

/-- The same area in the homeless space. -/
def homeSaveSt : State :=
  let s := booted (user 0xFFFFFFFF fun w => withV 1 8 (fun l => BitVec.ofNat 64 (3 * l)) (withU [(5, 0x200000)] w))
  { s with launches := amod s.launches 1 fun l => { l with record := { l.record with sab := 0x200000, str := 0x8000 } } }

theorem wit_saves :
    Meets saveSt .pcsv atSave (fun e s1 => e.taking ≠ 0 ∧ (s1.pkg 0).stalled (s1.bucketOf e.w) = false ∧ e.w.busy 63 = false ∧
      e.w.flights = [] ∧ e.w.countersZero = true ∧ savesB e.waited s1 (e.waited.vaA s1) (controlBytes e.waited.w e.waited.lanes e.waited.u e.waited.q) = true) ∧
    Meets saveSt .vsave { atSave with c := .v 62, md := 1 } (fun e s1 => (s1.pkg 0).stalled (s1.bucketOf e.w) = false ∧ e.w.busy 63 = false ∧
      savesB e s1 (e.vaA s1) ((e.v 62).record ++ (e.v 63).record) = true) ∧
    Meets homeSaveSt .vsave { atSave with c := .v 1 } (fun e s1 => (s1.pkg 0).stalled (s1.bucketOf e.w) = false ∧ e.w.busy 63 = false ∧
      savesB e s1 (e.vaA s1) (e.v 1).record = true ∧ s1.links = [] ∧ s1.dead = [] ∧ s1.dir = []) ∧
    Meets saveSt .accsv { atSave with imm := 127 + 252 * 128, md := 1 } (fun e s1 => (s1.pkg 0).stalled (s1.bucketOf e.w) = false ∧
      e.w.kind ≠ .service ∧ e.w.away = none ∧ (aget s1.groups e.w.gid).isSome = true ∧ (s1.unit e).isQuad = true ∧
      colN e.f + ncN e.f ≤ 256 * (s1.unit e).width ∧ (s1.unit e).mops = [] ∧
      savesB e s1 (e.uniSrc s1 e.f.a) ((s1.unit e).accBytes (rowN e.f) (nrN e.f) (colN e.f) (ncN e.f) true) = true) ∧
    Meets saveSt .tsv { atSave with e := 2, md := 1 } (fun e s1 => (s1.pkg 0).stalled (s1.bucketOf e.w) = false ∧ e.tilesFault s1 = none ∧
      (∀ n ∈ tileRange e.f, (s1.tile e.w.gid n).state ≠ 3 ∧ (s1.tile e.w.gid n).state ≠ 1) ∧ 
        savesB e s1 (e.vaA s1) ((tileRange e.f).flatMap fun n => (s1.tile e.w.gid n).record) = true) :=
  ⟨meets (by decide) (by decide +kernel), meets (by decide) (by decide +kernel), meets (by decide) (by decide +kernel), meets (by decide) (by decide +kernel),
    meets (by decide) (by decide +kernel)⟩

/-- A control section of a fresh warp with a budget of 64. -/
def controlSt : State := withMem (2 ^ 60) [64, 0] (withMem (2 ^ 60 + 0x240) (List.replicate 64 0xFF) saveSt)
def areaOf (e : Env) (s : State) (va n : Nat) : List Byte :=
  match e.area s Acc.saveIn va n with | .inr ls => s.areaBytes ls va n | .inl _ => []
/-- A VOID record and `v2`'s, and `t1` of the program behind an undefined tile. -/
def recordsSt : State := withMem (2 ^ 60) [0, 0, 0x10] (withMem (2 ^ 60 + 16) exV2.record saveSt)
def tilesSt : State := withMem (2 ^ 60 + 144) (exT1.record.take 16) (withTile 3 Tile.void saveSt)
theorem test_vrest_lane : vAfter (exec (.vrest { atSave with c := .v 1, md := 1 }) recordsSt) 2 31 = some 31 := by decide +kernel
theorem test_trs_tile : (nextOf (exec (.trs { atSave with e := 2, md := 1 }) tilesSt)).map (fun t => t.tile 1 3) = some exT1 := by decide +kernel
/-- An accumulator record with M 1 and an element of −1. -/
theorem test_accrs_el : elAfter (exec (.accrs atSave) (withMem (2 ^ 60 + 32 + 12) (List.replicate 12 0xFF) saveSt)) 0 1 = some (-1) := by decide +kernel

theorem wit_restores :
    Meets controlSt .pcrs { noFields with a := .u 5 } (fun e s1 => e.taking ≠ 0 ∧ (s1.pkg 0).stalled (s1.bucketOf e.w) = false ∧
      e.w.flights = [] ∧ e.w.countersZero = true ∧ savableB e.waited s1 Acc.saveIn (e.waited.vaA s1) 1600 = true ∧
      ((parseControl (areaOf e.waited s1 (e.waited.vaA s1) 1600)).map fun c => (c.budget, c.role, c.wid)) = some (e.w.vregs.length, e.w.role, e.w.wid)) ∧
    Meets recordsSt .vrest { atSave with c := .v 62, md := 1 } (fun e s1 => e.taking ≠ 0 ∧ (s1.pkg 0).stalled (s1.bucketOf e.w) = false ∧
      e.w.busy 63 = false ∧ (match e.readRecords s1 (e.vaA s1) 2 with | .inr (_, n) => n | .inl _ => 0) = 64 ∧
      savableB e s1 Acc.saveIn (e.vaA s1) 64 = true) ∧
    Meets saveSt .accrs { atSave with imm := 127 + 252 * 128, md := 1 } (fun e s1 => e.taking ≠ 0 ∧ (s1.pkg 0).stalled (s1.bucketOf e.w) = false ∧
      e.w.busy 63 = false ∧ e.w.kind ≠ .service ∧ e.w.away = none ∧ (s1.unit e).isQuad = true ∧ colN e.f + ncN e.f ≤ 256 * (s1.unit e).width ∧
      savableB e s1 Acc.saveIn (e.uniSrc s1 e.f.a) (accStride 4 + csumBytes 4) = true ∧
      ((s1.unit e).accRestore 127 1 252 4 true (areaOf e s1 (e.uniSrc s1 e.f.a) (accStride 4 + csumBytes 4))).isSome = true) ∧
    Meets tilesSt .trs { atSave with e := 2, md := 1 } (fun e s1 => e.taking ≠ 0 ∧ (s1.pkg 0).stalled (s1.bucketOf e.w) = false ∧
      e.w.busy 63 = false ∧ e.tilesFault s1 = none ∧ (aget s1.groups e.w.gid).isSome = true ∧
      grantsGood e s1 ((tileRange e.f).map fun n => (n, 0)) = true ∧ savableB e s1 Acc.saveIn (e.vaA s1) 288 = true ∧
      ∀ i ≤ 1, tileRecFault (s1.tileFits e.w) (2 + i) (((areaOf e s1 (e.vaA s1) 288).drop (144 * i)).take 144) = none) :=
  ⟨meets (by decide) (by decide +kernel), meets (by decide) (by decide +kernel), meets (by decide) (by decide +kernel),
    meets (by decide) (by decide +kernel)⟩

/-- Registers in each shape, and a warp, of which the forms saved are read back. -/
def exAffine : VReg := { tag := 9, shape := .affine 5, lanes := (List.range 32).map fun l => BitVec.ofNat 64 (5 * l) }
theorem wit_saved_forms :
    (∀ r ∈ [VReg.void, exV2, { tag := 0x12, shape := .uniform, lanes := List.replicate 32 7 }, exAffine],
      r.lanes.length = 32 ∧ r.tag.toNat < 0x14 ∧ (r.tag = 0 → r = VReg.void)) ∧
    (∀ x ∈ List.replicate 32 (7 : Word), x = 7) ∧ fmtIntAddr 9 = true ∧
    (∀ l < 32, exAffine.lanes[l]? = some (affineLane 9 (exAffine.lanes.headD 0) 5 l)) := by
  exact ⟨by decide +kernel, fun x h => List.eq_of_mem_replicate h, by decide, by decide +kernel⟩
theorem wit_saved_warp : benchWarp.vregs.length < 65536 ∧ benchWarp.role < 256 ∧ benchWarp.wid < 256 ∧
      (∀ x ∈ benchWarp.lanes, x.pc.extractLsb' 0 4 = 0 ∧ x.delivery = none) := by decide
theorem test_control : (parseControl (leBytes 2 64 ++ [2, 3] ++ zeros 0x3C ++ leBytes 8 0x8000000111 ++ leBytes 2 20 ++ [5] ++ zeros 0x1F5 ++ List.replicate 64 0xFF ++ zeros 0x3C0)).map
    (fun c => (c.budget, c.role, c.wid, c.lanes.headD (0, 0), c.parked)) = some (64, 2, 3, (0x8000000111, 20), [0x8000000110]) := by decide +kernel

/-! ### Steps of other agents: states that meet the hypotheses of each clause -/

/-- A due hoop of core 0 with two threads; the workgroup's slot is free. -/
def exHoop : Hoop :=
  { gid := 1, wg := 0, role := 0, pc := 0x10010, tags := [8], threads := [⟨5, [7], []⟩, ⟨6, [9], []⟩], uregs := List.replicate 64 3, fstat := 1,
    ctx := benchCtx 1, age := 256, due := true, seqNo := 0 }
def hoopSt : State := { placed0 with warps := adel placed0.warps 0, cores := [(0, { placed0.core 0 with hoops := [exHoop] })] }
theorem wit_warp_agents :
    ((aget (user 1 flying).warps 0).any fun w => w.flights[0]?.any fun g =>
      !(user 1 flying).awaited w g.id && g.tile.isNone && g.writes.all fun p => p.2 == .sure || p.2 == .lost) = true ∧
    (∀ a ∈ [TileAct.define (smallTile 0 8), .enter 0], (aget (changeSt a).warps 0).any (fun w => !(changeSt a).awaited w 9 &&
      !(changeSt a).unitStopped w.gid && w.flights.any fun g => g.tile == some (3, a)) = true) ∧
    (hoopSt.core 0).hoops[0]? = some exHoop ∧ exHoop.due = true ∧ hoopSt.freeRoleSlot 1 0 0 = some (0, 0, 0) := by decide
/-- R254: a drawn warp's thread ids and registers; R246: a result returns. -/
theorem test_hoop_draw : (match exec (.hoopDraw 0 0) hoopSt with
    | .next t => (aget t.warps 0).map fun w => ((w.lane 1).tid, (w.lane 2).st, (w.v 0).lanes.getD 1 0) | _ => none)
      = some (6, .exited, 9) := by decide
theorem test_result_return : (warpOf (exec (.resultReturn 0 0) (user 1 flying)) 0).map (fun w => (w.u 7, w.flights.length)) = some (1, 0) := by decide

/-- A warp with a goal on core 33; a victim's migrated warp; a warp with a fault of its own and a user trap entry, or none. -/
def goalSt : State := { placed0 with warps := amod placed0.warps 0 fun w => { w with goal := some (.core 33) } }
def victimSt : State := withUnit (fun g => { g with phase := .stopping }) (awaySt 0)
def faultSt (entry : Word) : State :=
  { placed0 with warps := amod placed0.warps 0 fun w => { w with
      pendingFault := true, ctx := { w.ctx with utrapvec := entry }, lanes := w.lanes.set 3 { w.lane 3 with st := .park 0x10 7 0 } } }
theorem wit_delivery :
    (aget goalSt.warps 0).map Warp.goal = some (some (.core 33)) ∧ dieOf 33 ≠ dieOf (0 / 64) ∧ goalSt.landingSlot 33 = some 32 ∧
    ((aget victimSt.warps 0).any fun w => w.away.isSome && w.flights.isEmpty && w.countersZero) = true ∧
    (aget victimSt.groups 1).map Group.phase = some .stopping ∧
    ((aget (faultSt 0x30000).warps 0).any fun w => w.pendingFault && w.ctx.utrapvec != 0 && w.handler == .none && w.flights.isEmpty) = true ∧
    (∃ x ∈ (faultSt 0).warps, x.2.kind = .user ∧ x.2.gid = 1 ∧ x.2.fatal = true) ∧
    (∀ x ∈ (faultSt 0).warps, x.2.kind = .user → x.2.gid = 1 → x.2.fatal = true → x.2.ownFault ≠ none) := by decide
theorem wit_page_walk : placed0.live 0 = true ∧ canonicalVa 0x200000 = true ∧ inAperture 0x200000 = false ∧
    (let f := placed0.walkFrom 0 1 0x100000 0x200000
     placed0.walkAt 0 0x200000 f.1 f.2 = .leaf 0x110000 1 63 0) ∧ (placed0.mkLeaf 1 63 0).valid = true := by decide
/-- R437: the delivery record of the parked lane. -/
theorem test_fault_delivery : (warpOf (exec (.programFaultDelivery 0) (faultSt 0x30000)) 0).map (fun w => ((w.lane 3).pc, (w.lane 3).delivery))
    = some (0x30000, some ⟨0x10001, 0x10, 7⟩) := by decide
theorem test_fault_end : (nextOf (exec (.workgroupFaultEnd 1) (faultSt 0))).map (fun t => (t.die 0).postq.map fun r => (r.code, r.addr, r.lanes))
    = some [(0x10, 7, 8)] := by decide

/-- The state after a copy has issued: the copy is outstanding. -/
def afterIn : State := (nextOf (exec (.acopyIn (copyF 0)) (copySt 0))).getD State.reset
def afterOut : State := (nextOf (exec (.acopyOut (copyF 1)) (copySt 2))).getD State.reset
def copyWaits (s : State) (out : Bool) : Bool :=
  match s.copies with
  | [(_, c)] =>
    match aget s.groups c.gid, aget s.warps c.warp with
    | some g, some w =>
      c.isOut == out && !s.anyReset c.who c.lines out && g.phase != .stopped && w.kind == .user && !w.allExited && !w.donating &&
        s.phases.isEmpty && s.dir.isEmpty && !g.wgs.all Wg.ended && decide (c.tile < g.tiles.length) &&
        c.parts.isEmpty &&
        (if out then s.mayTry (Trier.copy 5).key && s.links.isEmpty && s.dead.isEmpty &&
            succeeds (s.putBytes c.who c.lines 0 1 (c.sectors.flatMap fun x => atAddrs x.va (s.bytes x.spad 32)))
          else (s.pkg c.who.pkg).failed.isEmpty && s.links.isEmpty && s.dead.isEmpty && c.sectors.all fun x => s.intact c.who.pkg (keyOf c.lines 0 x.va))
    | _, _ => false
  | _ => false
/-- A copy whose sectors stand in the scratchpad of core 0. -/
def spadCopy : Copy :=
  { gid := 1, warp := 0, ctr := some 48, isOut := false, tile := 2, sectors := [⟨0xFFFFFFFFF0001000, spadKey 0 0⟩], who := placed0.who benchWarp,
    lines := [(0xFFFFFFFFF0001000, .mem (spadKey 0 0x1000), none)], parts := [] }
def spadCopySt : State :=
  { withMem (spadKey 0 0x1000) [9] (withTile 2 (smallTile 1 8) (user 1 fun w => { w with bound := [(48, 1)] })) with copies := [(5, spadCopy)] }
theorem wit_copy_lands : copyWaits spadCopySt false = true := by decide +kernel
theorem wit_copy_accepted : copyWaits afterOut true = true := by decide +kernel
theorem test_copy_lands : (nextOf (exec (.copyInLanded 5) spadCopySt)).map (fun t => (memGet t.mem (spadKey 0 0), (t.tile 1 2).state,
    (aget t.warps 0).map fun w => w.bound)) = some (9, 2, some [(48, 0)]) := by decide
/-- R175: the wait on a copy in flight, then its landing. -/
theorem test_copy_in_flight : copyWaits afterIn false = true := by decide +kernel

def benchWho : Who := placed0.who benchWarp
/-- An engine that has copied all; its barrier object stands in a scratchpad, or in the homeless space. -/
def doneEngine (bo va : Nat) : Engine := { isApf := true, dst := 0, src := 0, len := 0, bo := bo, boVa := va, who := benchWho, parts := [] }
def engineDone (bo va : Nat) : State := { (engineSt 0) with engines := [(4, doneEngine bo va)] }
theorem wit_engine : ∀ p ∈ [(spadKey 0 8, 0xFFFFFFFFF0000008), (0x300000, 0x300000)], let s := engineDone p.1 p.2
    aget s.engines 4 = some (doneEngine p.1 p.2) ∧ s.mayTry (Trier.engine 4).key = true ∧
      ((s.leafOf 0 1 benchWho.ptbase p.2).all fun l => !l.ckv || inAperture p.2) = true ∧ s.links = [] ∧ s.dead = [] ∧
      (isSpadKey p.1 || isHomeless p.1 && succeeds (s.agentWrite 0 p.1 (leBytes 8 (barObjStep (s.le p.1 8))))) = true := by
  intro p hp
  simp only [List.mem_cons, List.not_mem_nil, or_false] at hp
  rcases hp with rfl | rfl <;> decide +kernel

/-- The states after an `mmul` and an `attn`; the walk of the latter meets a page that has no translation. -/
def mopSt (m : MOp) (h : Group → Group) : State := withUnit (fun g => h { g with mops := [m] }) attnSt
def mmulOp : MOp :=
  { id := 5, instr := .mmul mmulF, src := [2], dst := none, ctr := some 48, out := [(spadKey 0 0, 1)], desc := [], granted := true, fed := true, pc := 0x10000,
    foot := planeFoot 4 0, seen := [], was := ([], []), regs := [] }
def attnOp : MOp :=
  { mmulOp with instr := .attn attnF, ctr := none, fed := false, desc := leBytes 8 0x9000000 ++ List.replicate 0x14 0 ++ [1] ++ List.replicate 0xF 0 ++ [0x10, 0x10, 4, 0]
      ++ List.replicate 10 0 ++ [4, 0] ++ List.replicate 4 0 }
theorem wit_matrix_agents :
    (let s := mopSt mmulOp id
     match aget s.groups 1, aget s.warps 40 with
     | some g, some w => g.mops[0]? = some mmulOp ∧ mmulOp.granted = true ∧ g.phase = .running ∧ isAttn mmulOp.instr = false ∧ g.seq = some 40 ∧
        w.kind = .seq ∧ w.allExited = false ∧ Keyed s.warps ∧ s.phases = [] ∧ mmulOp.access = none
     | _, _ => False) ∧
    (∀ n ∈ [0, 2, 3], let s := mopSt attnOp fun g => { g with relaunches := n }
     match aget s.groups 1 with
     | some g => g.mops[0]? = some attnOp ∧ attnOp.granted = true ∧ g.phase = .running ∧ (s.seqWho g).isSome = true ∧
        (match s.walkFault g attnOp attnF with | some (_, c, va) => c == 0x05 && va == 0x9000000 | none => false) = true
     | none => False) := by
  refine ⟨?_, ?_⟩
  · refine ⟨by decide, by decide, by decide, by decide, by decide, by decide, by decide, by unfold Keyed; decide, by decide⟩
  · intro n hn
    simp only [List.mem_cons, List.not_mem_nil, or_false] at hn
    rcases hn with rfl | rfl | rfl <;> exact ⟨by decide, by decide, by decide, by decide, by decide +kernel⟩

def withPkg (h : Pkg → Pkg) (s : State) : State := { s with pkgs := amod s.pkgs 0 h }
def withDie0 (h : Die → Die) (s : State) : State := { s with dies := aset s.dies 0 (h (s.die 0)) }
/-- Package 0 alone, with a host on port 0 and nothing in it. -/
def pod : State := withPkg (fun p => { p with cxlRun := 1 }) (booted placed0)

/-- Chain 9 waits with a record at `addr`; its STOP bit. -/
def chainSt (addr : Word) (stop : Bool) : State :=
  withPkg (fun p => { p with chains := p.chains.set 9 { stop := stop, head := addr, tail := addr, next := 5, done := 2, taken := 4, fin := [], users := [], slots := [] } }) pod
/-- The same with 2^31 − 1 records in the chain. -/
def fullChain : State :=
  withPkg (fun p => { p with chains := p.chains.set 9 { Chain.reset with next := 0x80000002, done := 2, taken := 4 } }) pod
/-- A launch that intake has refused. -/
def doneLaunch (cause : Nat) : Launch := { benchLaunch with addr := 0x200200, cause := cause, endedWgs := 1 }
def doneSt (cause : Nat) : State := { pod with groups := [], launches := [(1, doneLaunch cause)] }
theorem wit_chains :
    (∀ p ∈ [((0x200200 : Word), false), (0x00C0000000000000, true)], let s := chainSt p.1 false
      s.live 0 = true ∧ (s.window 0).length < 64 ∧ (s.pkg 0).bootStep = 7 ∧ (s.pkg 0).ready = some 9 ∧ 9 < (s.pkg 0).chains.length ∧
        s.agentOff 0 p.1.toNat 256 = false ∧
        (s.physBad 0 p.1.toNat 256).isSome = p.2) ∧
    appends ((chainSt 0x200200 true).append 0 9 0x200300 none none) = true ∧ ((chainSt 0x200200 true).chain 0 9).stop = true ∧
    (let c := (fullChain.chain 0 9)
     2 ^ 31 - 1 ≤ (c.next - 1 - c.done).toNat ∧ fullChain.live 0 = true ∧ 9 < (fullChain.pkg 0).chains.length) ∧
    (∀ cause ∈ [0, 12], let s := doneSt cause
      let u := s.backAll
      (cause ≠ 0 ∨ ((doneLaunch cause).endedWgs = (doneLaunch cause).record.total ∧ (∀ x ∈ s.groups, x.2.lid ≠ 1) ∧
        (∀ x ∈ s.engines, x.2.who.lid ≠ 1) ∧ s.owesError (doneLaunch cause).record.asid = false)) ∧
        u.unclean = false ∧ u.owesError (doneLaunch cause).record.asid = false ∧ u.mayTry (Trier.launch 1).key = true ∧
        succeeds (u.agentWrite 0 0x200258 (leBytes 8 (doneLaunch cause).word)) = true ∧ isHomeless 0x200258 = true ∧ s.links = [] ∧ s.dead = [] ∧ s.dir = []) ∧
    (pod.pkg 0).buckets[15]?.isSome = true := by
  refine ⟨fun p hp => ?_, by decide +kernel, by decide, by decide, by decide +kernel, by decide⟩
  simp only [List.mem_cons, List.not_mem_nil, or_false] at hp
  rcases hp with rfl | rfl <;> decide +kernel
/-- R275: DONE, FAULT clear, CAUSE 12 in bits [47:40], the number. -/
theorem test_completion_word : (match exec (.launchComplete 1) (doneSt 12) with | .next t => some (t.le 0x200258 8) | _ => none)
    = some 0x80000C0000000001 := by decide +kernel
theorem test_intake_taken : (match exec (.intake 0) (chainSt 0x200200 false) with | .next t => some (t.chain 0 9).taken | _ => none) = some 5 := by decide +kernel

/-- R309's fields: EN, BATCH 1, the template at 0x300000, chain 4; one request waits. -/
def req (asid : BitVec 16) (page : Word) : BfReq := ⟨page, 4, 48, 11, asid⟩
def bfCfg : Word := 0x8000000000300040
def bfSt (cfg : Word) (open_ : List BfReq) (r : BfReq) : State :=
  withPkg (fun p => { p with bfcfg := cfg, bfOpen := open_, bfOpenCfg := cfg, bfQueue := [r] }) pod
def emitSt : State := withPkg (fun p => { p with bfcfg := bfCfg, bfClosed := [([req 0 0x10000], bfCfg)], bfSlots := p.bfSlots.set 0 (some 3) }) pod
theorem wit_backfill :
    (∀ x ∈ [(bfCfg, ([] : List BfReq), req 7 0), (bfCfg, [req 0 0], req 0 0), (bfCfg, [req 0 0], req 0 0x10000), (bfCfg, [], req 0 0),
        (bfCfg + 0x7F00000000000000, (List.range 8).map (fun i => req 0 (BitVec.ofNat 64 (65536 * i))), req 0 0x90000)],
      let p := (bfSt x.1 x.2.1 x.2.2).pkg 0
      p.bfQueue = [x.2.2] ∧ p.bfClosed = [] ∧ p.bfStopped = false ∧
        (bfSt x.1 x.2.1 x.2.2).agentOff 0 (cfgTaddr x.1) 256 = false ∧ (bfSt x.1 x.2.1 x.2.2).physBad 0 (cfgTaddr x.1) 256 = none ∧
        (parseRecord ((bfSt x.1 x.2.1 x.2.2).bytes (cfgTaddr x.1) 256)).asid = 0) ∧
    (cfgBatch bfCfg = 1 ∧ cfgBatch (bfCfg + 0x7F00000000000000) = 128 ∧
      (pagesOf ((List.range 8).map fun i => req 0 (BitVec.ofNat 64 (65536 * i)))).length = 8) ∧
    ((bfSt 0x80C0000000000040 [] (req 0 0)).physBad 0 (cfgTaddr 0x80C0000000000040) 256).isSome = true ∧
    (bfSt 0x80C0000000000040 [] (req 0 0)).agentOff 0 (cfgTaddr 0x80C0000000000040) 256 = false ∧
    (let p := emitSt.pkg 0
     (p.bfSlots.findIdx? fun x => x.isNone) = some 1 ∧ p.bfcfg.getLsbD 63 = true ∧ p.bfStopped = false ∧
      emitSt.agentOff 0 (cfgTaddr bfCfg) 256 = false ∧ emitSt.physBad 0 (cfgTaddr bfCfg) 256 = none ∧
      let u := emitSt.agentRead 0 (cfgTaddr bfCfg) 256
      u.mayTry (Trier.backfill 0).key = true ∧
      appends ((u.agentWrite 0 (cfgTaddr bfCfg + 0x2800) (bfArgs (parseRecord (emitSt.bytes (cfgTaddr bfCfg) 256)).args [req 0 0x10000] 1)).bind fun s1 =>
        (s1.agentWrite 0 (cfgTaddr bfCfg + 0x200) (bfRecord (emitSt.bytes (cfgTaddr bfCfg) 256) bfCfg [req 0 0x10000] 1)).bind fun s2 =>
          s2.append 0 (cfgChain bfCfg) (cfgTaddr bfCfg + 0x200) none (some 1)) = true) := by
  refine ⟨fun x hx => ?_, by decide, by decide +kernel, by decide +kernel, by decide +kernel⟩
  simp only [List.mem_cons, List.not_mem_nil, or_false] at hx
  rcases hx with rfl | rfl | rfl | rfl | rfl <;> decide +kernel

/-- A launch of one workgroup outside any quad group; its units, in each phase. -/
def soloRec : LRec := { benchRecord with flags := 0, sqentry := 0, bregs := 16, spad := 0, tiles := 0, coop := 0, sab := 0x9000000, str := 0x8000 }
def soloLaunch (r : LRec) : Launch := { benchLaunch with record := r, placed := 0 }
def dispatchSt : State := { pod with warps := [], groups := [], launches := [(1, soloLaunch soloRec)] }
theorem wit_dispatch :
    let s := dispatchSt
    s.live 0 = true ∧ (s.pkg 0).reserve = [] ∧ s.groups = [] ∧ (s.readyLaunches 0).head?.map Prod.fst = some 1 ∧
      soloRec.quad = false ∧ soloRec.cores = false ∧ staged soloRec = true ∧
      firstFrom 256 (s.pkg 0).lastCore (fun c => s.placeOn 1 soloRec (0 * 256 + c)) = some (0, (0, [0])) := by decide +kernel
theorem test_dispatch_entry : (warpOf (exec (.dispatch 0) dispatchSt) 0).map (fun w => ((w.lane 3).pc, w.vregs.length)) = some (0x10000, 16) := by decide +kernel

/-- A kind-3 slice of 64 bytes from 0x200000 to offset 256 of an allocation at 0x300, of the first of two workgroups. -/
def sliceRec : LRec := { benchRecord with ranges := [(0x200000, 64, 3, 1)], nrange := 1, warps := 1 }
def sliceWg (i : Nat) : Wg := { mkWg sliceRec i i (0x300, [0]) with staged := false }
def sliceSt : State :=
  withMem 64 (leBytes 8 0x100000) { pod with
    launches := [(1, { benchLaunch with record := sliceRec })],
    groups := [(1, { benchGroup with phase := .staging, seq := none, wgs := [sliceWg 0, sliceWg 1] })] }
def stagingWho : Who := sliceSt.stageWho 1 0 (sliceWg 0) { benchLaunch with record := sliceRec } 1
def lands (x : Staged) : Bool := match x with | .landed _ => true | _ => false
theorem wit_staging :
    lands (sliceSt.stageSlice stagingWho (sliceWg 0) (sliceRec.slice 0 (0x200000, 64, 3, 1))) = true ∧
    (let r := State.stageSlices stagingWho (sliceWg 0) [sliceRec.slice 0 (0x200000, 64, 3, 1)] sliceSt 0
     r.2.1 = 1 ∧ r.2.2.isNone = true) ∧
    (match State.stageSlices stagingWho (sliceWg 0) [(0x200000, 64, 256), (0x9000000, 64, 512)] sliceSt 0 with
      | (_, n, some (.fault f)) => n == 1 && f == (0x05, 0x9000000) | _ => false) = true ∧
    sliceSt.links = [] ∧ sliceSt.dead = [] ∧ sliceSt.dir = [] ∧
    sliceRec.slice 0 (0x200000, 64, 3, 1) = (0x200000, 64, 256) ∧
    (sliceSt.transAll stagingWho { Acc.load with cow := false } (vaRange 0x200000 64)).isRight = true ∧
    (sliceWg 0).staged = false ∧ (sliceWg 0).errs = [] ∧ ∃ x ∈ [sliceWg 0, sliceWg 1].eraseIdx 0, x.staged = false := by
  refine ⟨by decide +kernel, by decide +kernel, by decide +kernel, by decide, by decide, by decide, by decide +kernel, by decide⟩

/-- A unit of one workgroup whose warp waits at a barrier of `.die` scope; it has left its core and the phase has passed; it has
been chosen as a victim; it leaves. The save area is a page of the capacity tier. -/
def soloSt (r : LRec) (h : Group → Group) (g : Warp → Warp) : State :=
  let s := mapped 0x9000000 0x6F 0 { pod with
    launches := [(1, soloLaunch r)], groups := [(1, h { mkGroup r 1 0 0 [mkWg r 0 0 (0, [0])] with phase := .running })] }
  { s with warps := [(0, g (freshWarp .user 1 0 0 0 0 0 16 32 0x10000 { benchCtx 1 with utrapvec := 0x30000 }))] }
def atBarrier (w : Warp) : Warp := { w with lanes := w.lanes.map fun x => { x with st := .hold (.bar 2 0) } }
def stores (x : Try (Option State)) : Bool := match x with | .ok (some _) => true | _ => false
def swapSt : State := soloSt soloRec id atBarrier
/-- An allocation of no registers keeps the area that is read back short. -/
def backSt : State := { soloSt { soloRec with bregs := 0 } (fun g => { g with phase := .swapped, watch := [.bar 0 37 0], due := true }) id with
    warps := [], parities := [(37, 1)] }
def stopSt : State := soloSt { soloRec with utrap := 0x100 } (fun g => { g with phase := .stopping }) atBarrier
/-- Its warps have gone; without a user trap entry they stand where they were. -/
def leftSt : State := { soloSt { soloRec with utrap := 0x100 } (fun g => { g with phase := .preempting, out := [0] }) id with warps := [] }
def hwSaveSt : State := soloSt soloRec (fun g => { g with phase := .preempting }) id
theorem wit_swap :
    (match aget swapSt.groups 1 with
      | some g => swapSt.swappable 1 g && !swapSt.publishing 1 &&
          (let s0 := (swapSt.unitWarps 1).foldl (fun s e => s.resultsIn e.1) swapSt
           match aget s0.groups 1 with
            | some g0 => s0.swappable 1 g0 && s0.mayTry (Trier.group 1).key && stores (State.storePieces (s0.unitPieces 1 g0 true) s0)
            | none => false)
      | none => false) = true := by decide +kernel
theorem wit_swap_back :
    (match aget backSt.groups 1 with
      | some g => g.phase == .swapped && g.due && !g.seqSaved &&
          match (backSt.viewOf g.pkg none).seats { soloRec with bregs := 0 } g false with
          | none => false
          | some wgs =>
            match (mapFrom 0 (fun j x => (j, x)) wgs).foldl (fun (a : Restored) p =>
              match a with | .ok s => s.restoreWg 1 p.1 p.2 | a => a) (.ok (backSt.setGroup 1 { g with wgs := wgs })) with
            | .ok s1 => (aget s1.groups 1).isSome
            | _ => false
      | none => false) = true := by decide +kernel
theorem wit_preempt :
    (match aget stopSt.groups 1 with
      | some g => stopSt.mayPreempt 1 g && stores (State.storePieces (stopSt.matrixPieces 1 g) stopSt) &&
          stopSt.mayTry (Trier.group 1).key && stopSt.phases.isEmpty | none => false) = true ∧
    (match aget leftSt.groups 1 with
      | some g => g.phase = .preempting ∧ leftSt.hasCopies 1 = false ∧ leftSt.publishing 1 = false ∧ leftSt.unitWarps 1 = [] ∧ g.out ≠ []
      | none => False) ∧
    (match aget hwSaveSt.groups 1 with
      | some g => g.phase = .preempting ∧ hwSaveSt.hasCopies 1 = false ∧ hwSaveSt.publishing 1 = false ∧
          (∃ x ∈ hwSaveSt.unitWarps 1, x.2.allExited = false) ∧ hwSaveSt.mayTry (Trier.group 1).key = true ∧
          stores (State.storePieces (hwSaveSt.unitPieces 1 g false) hwSaveSt) = true
      | none => False) := by
  refine ⟨by decide +kernel, ⟨by decide, by decide, by decide, by decide, by decide⟩,
    ⟨by decide, by decide, by decide, by decide, by decide, by decide +kernel⟩⟩
/-- R430: a held lane's delivery counter is its instruction's, its counter the PREEMPT entry. -/
theorem test_preempt_delivery : (match exec (.preempt 1) stopSt with
    | .next t => (aget t.warps 0).map fun w => ((w.lane 3).pc, (w.lane 3).delivery) | _ => none)
      = some (0x30010, some ⟨0x10000, 0, 0⟩) := by decide +kernel

/-- The ring of die 0 at 0x400000 with a record waiting; the error queue of ASID 1 at 0x500000, or none. -/
def exPost : Post := { handle := 9, addr := 0x1234, pc := 0x10000, ptbase := 0x100000, lanes := 3, asid := 1, code := 5, kind := 0 }
def ringSt : State := withDie0 (fun d => { d with svcq := 0x400000, postq := [exPost], postN := 1023 }) pod
def errqSt (base : Nat) : State := withMem 72 (leBytes 8 base) pod
/-- It has counted `n` errors, of which none is taken. -/
def errqAt (n : Nat) : State := withMem 0x500000 (leBytes 8 n) (errqSt 0x500000)
def exErr : StoreErr := { asid := 1, addr := 0x200000, peer := 0, cause := 0x0A, src := 0, wg := 0 }
theorem wit_service :
    (ringSt.live 0 = true ∧ (ringSt.die 0).postq = [exPost] ∧
      let base := svcBase (ringSt.die 0).svcq
      let slot := ringSlot base (ringSt.die 0).postN
      ringSt.physBad 0 slot 64 = none ∧ ringSt.physBad 0 base 8 = none ∧ ringSt.agentOff 0 slot 64 = false ∧
        ringSt.agentOff 0 base 8 = false ∧ ringSt.le (slot + 0x38) 8 = 0 ∧ ringSt.mayTry (Trier.ring 0).key = true ∧
        succeeds ((((ringSt.agentRead 0 slot 64).agentRead 0 base 8).agentWrite 0 slot (exPost.bytes ++ leBytes 8 1024)).bind fun s => s.barDecrement 0 base) = true) ∧
    errqBase ((errqSt 0).errqOf 0 1) = 0 ∧
    (∀ q ∈ [(0, 1), (40, 41)], let s := errqAt q.1
     let base := errqBase (s.errqOf 0 1)
     let at_ := base + 64 + 64 * (q.2 % 16)
     let s0 := s.readCtx 0 1
     base = 0x500000 ∧ errqN (s.errqOf 0 1) = 16 ∧ (s.le base 8 + 1) % 2 ^ 64 = q.2 ∧ (s0.pkg 0).held.any Held.isError = false ∧
      s0.physBad 0 base 64 = none ∧ s0.agentFault 0 base = none ∧ s0.physBad 0 at_ 64 = none ∧ s0.agentFault 0 at_ = none ∧
      (decide (q.2 ≤ s.le (base + 16) 8 + 16) = (q.1 == 0)) ∧
      succeeds (((s0.agentRead 0 base 64).agentWrite 0 base (leBytes 8 q.2)).bind fun s1 =>
        if q.1 = 0 then (s1.agentWrite 0 at_ (errRecord exErr 1 1 0)).bind fun s => s.agentWrite 0 (base + 8) (leBytes 8 1)
        else s1.agentWrite 0 (base + 24) (leBytes 8 ((s.le (base + 24) 8 + 1) % 2 ^ 64))) = true) := by
  refine ⟨by decide +kernel, by decide +kernel, fun q hq => ?_⟩
  simp only [List.mem_cons, List.not_mem_nil, or_false] at hq
  rcases hq with rfl | rfl <;> decide +kernel
/-- The page of the ring is lost, or its master has no power. -/
theorem wit_agent_faults :
    ∀ p ∈ [({ DirEnt.reset with lost := true }, ([] : List Nat), POISON), ({ DirEnt.reset with master := some 1 }, [1], RLOAD)],
      { pod with podN := 2, dir := [(0x40, p.1)], dead := p.2.1 }.agentFault 0 0x400040 = some p.2.2 ∧ isHomeless 0x400040 = true := by decide +kernel
/-- R318, R319: record 1,023 stands in the last slot, with OWN 1,024 and CODE at byte 0x26. -/
theorem test_ring_record : (match exec (.serviceRingPost 0) ringSt with
    | .next t => some (t.le (0x410000 + 64 * 1023) 8, t.le (0x410000 + 64 * 1023 + 0x38) 8, memGet t.mem (0x410000 + 64 * 1023 + 0x26)) | _ => none)
      = some (9, 1024, 5) := by decide +kernel
/-- R457's example values: 330 W at 4,000 MHz; a window of 4 W. -/
theorem test_effective_power : effectiveE 0x0000014A0FA00000 = 330 ∧ effectiveE 0x0000014A03200000 = 5 := by decide

theorem wit_power_and_counters :
    pod.live 0 = true ∧ (pod.die 0).pmQueue = [] ∧ (pod.pkg 0).attBusy = false ∧ (pod.pkg 0).locked = false ∧ (pod.pkg 0).index < 2 ^ 20 ∧
    (pod.pkg 0).nonce.length = 32 ∧
    (let s := withPkg (fun p => { p with index := 2 ^ 20 }) pod
     (s.pkg 0).attBusy = false ∧ (s.pkg 0).locked = false ∧ 2 ^ 20 ≤ (s.pkg 0).index) ∧
    (let s := withPkg (fun p => { p with locked := true }) pod
     (s.pkg 0).attBusy = false ∧ (s.pkg 0).locked = true) ∧
    (pod.core 0).cnt.length = 8 ∧ (pod.die 0).cnt.length = 16 ∧ (pod.pkg 0).cnt.length = 16 := by decide
/-- A counter of each level that counts the last source its level offers. -/
def countSt : State :=
  let c (n : Nat) : Counter := { Counter.reset with en := true, src := BitVec.ofNat 8 n }
  { withPkg (fun p => { p with cnt := p.cnt.set 15 (c 0x0E) }) pod with
    cores := [(0, { pod.core 0 with cnt := (pod.core 0).cnt.set 7 (c 7) })], dies := [(0, { pod.die 0 with cnt := (pod.die 0).cnt.set 15 (c 0x0A) })] }
theorem wit_counter_event : ∀ i ∈ [7, 23, 39], (countSt.counter 0 i).en = true ∧ srcOffered (cntLevel i) (countSt.counter 0 i).src.toNat = true := by decide

def exBoot : BootPkg :=
  { pkg := 0, ways := 4, nbr := [0, 0, 0, 0], expPorts := 0, enPorts := 1, devBytes := [], trapvec := List.replicate 8 0x10000, svcq := List.replicate 8 0,
    svcPtb := 0, ctxtab := 0, hbmLane := [], fabricUp := [], failStep := 0 }
theorem wit_reset : exBoot.pkg < 1 ∧ exBoot.failStep = 0 ∧ ((withDie0 (fun d => { d with inReset := true }) pod).die 0).inReset = true ∧
    (withDie0 (fun d => { d with inReset := true }) pod).live (pkgOfDie 0) = true := by decide

/-- A link with a flit on its way in each direction's replay buffer, a lane and an end at their thresholds. -/
def exFlit : Flit := { seq := 0xFFF, ack := 0xFF0, kind := 0, dst := 6, payload := List.replicate 248 7 }
def exEnd : LinkEnd := { LinkEnd.reset with nextSeq := 0, buf := [exFlit], par := [(255, 64)], due := [9], replays := 1024, expect := 0xFFF, fall := true }
def linkSt (h : Link → Link) : State := placed0.setLink 5 (h { Link.reset with endA := exEnd, endB := exEnd, runRate := 2 })
theorem wit_links :
    (let l := (linkSt id).link 5
     (linkSt id).live (5 / 16) = true ∧ l.down = false ∧ l.training = false ∧
      l.retired.getLsbD 255 = false ∧ (l.rethr ≠ 0 ∧ l.rethr.toNat ≤ (aget l.endA.par 255).getD 0) ∧ 9 ∈ l.endB.due ∧ l.retired.getLsbD 9 = false ∧
      l.autofb = true ∧ l.runRate ≠ 0 ∧ 2 ^ l.fbthr.toNat ≤ l.endA.replays) ∧
    (∀ r ∈ [none, some 0xFFF], let l := (linkSt fun l => { l with endA := { exEnd with nak := some 0xFFF }, endB := { exEnd with replayFrom := r } }).link 5
      l.down = false ∧ l.training = false ∧ l.endA.nak = some 0xFFF ∧ (∃ x ∈ l.endB.buf, x.seq = 0xFFF) ∧ l.endB.replayFrom = r) ∧
    (∀ x ∈ [((0 : BitVec 256), 0, 8), (1, 1, 7), (BitVec.allOnes 256, 2, 0)],
      let l := (linkSt fun l => { l with training := true, retired := x.1, att := x.2.1 }).link 5
      l.training = true ∧ ((List.range 8).filter fun g => (List.range 32).all fun i => !l.retired.getLsbD (32 * g + i)).length = x.2.2) := by
  refine ⟨by decide, fun r hr => ?_, fun x hx => ?_⟩
  · simp only [List.mem_cons, List.not_mem_nil, or_false] at hr
    rcases hr with rfl | rfl <;> decide +kernel
  · simp only [List.mem_cons, List.not_mem_nil, or_false] at hx
    rcases hx with rfl | rfl | rfl <;> decide +kernel
/-- Its die-5 end replays the flit. -/
def replaySt : State := linkSt fun l => { l with endA := { exEnd with replayFrom := some 0xFFF, replayAt := 0xFFF } }
/-- A new flit, and one sent again by a running replay, through a quiet wire and through one that flips a bit; the last one fails its
CRC. -/
theorem wit_flits : ∀ p ∈ [({ exFlit with seq := 0 }, ([] : List (Nat × Byte)), true, false), (exFlit, [], true, true), (exFlit, [(9, 1)], false, false)],
    let f := p.1
    let s := if f.seq = 0 then linkSt id else replaySt
    let l := s.link 5
    let wire := noisy p.2.1 (flitWire f)
    l.down = false ∧ l.training = false ∧ (l.endA.expect - 1 - f.ack).toNat ≤ 512 ∧ f.dst.toNat ≤ 8 ∧
      s.firstHop (5 / 16) (linkDies (5 % 16)).1 f.dst.toNat = some (5 % 16) ∧
      ((l.endA.replayFrom = none ∧ f.seq = l.endA.nextSeq ∧ f.payload.length = 248 ∧ l.endA.buf.length < 512) ∨
        (l.endA.replayFrom ≠ none ∧ f.seq = l.endA.replayAt ∧ ∃ x ∈ l.endA.buf, { x with ack := f.ack } = f)) ∧
      crcOk wire = p.2.2.1 ∧ (crcOk wire && (parseFlit wire).seq == l.endB.expect) = p.2.2.2 := by
  intro p hp
  simp only [List.mem_cons, List.not_mem_nil, or_false] at hp
  rcases hp with rfl | rfl | rfl <;> decide +kernel
/-- R381: an expected flit is delivered, a repeated one is discarded. -/
theorem test_flit_accepted : (nextOf (exec (.flitReceive 5 true exFlit [] []) replaySt)).map (fun t => ((t.link 5).endB.out.length, (t.link 5).endB.expect))
    = some (1, 0) := by decide +kernel
/-- R381: with no NAK to answer, a flit of the replay buffer is not sent again. -/
theorem test_flit_not_replayed : (nextOf (exec (.flitReceive 5 true exFlit [] []) (linkSt id))).map (fun t => (t.link 5).endB.out.length)
    = some 0 := by decide +kernel
theorem test_training_commits : (match exec (.trainingAttempt 5 true) (linkSt fun l => { l with training := true, retired := 1, tryRate := 2 }) with
    | .next t => some ((t.link 5).width, (t.link 5).gmap, (t.link 5).runRate) | _ => none) = some (7, 0xFE, 2) := by decide +kernel

/-- A stack of each channel state, and the fabric at sequence number 4. -/
def hbmSt : State := withDie0 (fun d => { d with hbm := [⟨0, 0x80000000, 0, false⟩, ⟨0, 0, 0, true⟩] }) pod
def exPacket : Packet := { src := 0, dst := 0, kind := .request, seq := 4, bytes := 96, asid := 1, addr := 0x200000, wg := 0 }
/-- Package 0's port 3 is up; it has sent ordered packets 4 to 8 and 30, of which 7 and 30 wait in the reorder buffer, and may send 31. -/
def fabricSt : State :=
  let sent (p : Packet) (n : Nat) : Sent := { pkt := p, port := 3, queued := true, resends := n }
  withPkg (fun p => { p with
    rxNext := [(0, 4)], rxHeld := [{ exPacket with seq := 7 }, { exPacket with seq := 30, bytes := 4 * 2 ^ 20 - 200 }], txNext := [(0, 31)],
    sent := [sent exPacket 7, sent { exPacket with seq := 3 } 0, sent { exPacket with seq := 5 } 8, sent { exPacket with seq := 6, kind := .store } 8,
             sent { exPacket with seq := 7 } 0, sent { exPacket with seq := 8, bytes := 256 } 0, sent { exPacket with kind := .data, seq := 9 } 0],
    ports := p.ports.set 3 { up := true, resend := 0, queued := 4096 } }) pod
theorem wit_channels_and_fabric :
    (∀ x ∈ [(0, 31), (1, 0)], (((hbmSt.die 0).hbm[x.1]?).any fun h => (h.hot || h.lflt.getLsbD x.2) != h.half.getLsbD x.2) = true) ∧
    (let k := fabricSt.pkg 0
     let heldAt (q : Nat) : Prop := ∃ x ∈ k.rxHeld, x.src = 0 ∧ x.seq = q
     let held := (k.rxHeld.map Packet.bytes).foldl (· + ·) 0
     fabricSt.live 0 = true ∧ (aget k.rxNext 0).getD 0 = 4 ∧ (∀ q ∈ [4, 5, 8], ¬ heldAt q) ∧ heldAt 7 ∧
      (∀ q ∈ [3, 4, 7], ∃ x ∈ k.sent, x.pkt = { exPacket with seq := q }) ∧ (∃ x ∈ k.sent, x.pkt = { exPacket with seq := 8, bytes := 256 }) ∧
      4 * 2 ^ 20 < held + 256 ∧ held + 96 ≤ 4 * 2 ^ 20 ∧ fabricSt.mayFabricSend { exPacket with seq := 31 } = true ∧ ¬ heldAt 31 ∧
      (∃ x ∈ k.sent, x.pkt = { exPacket with kind := .data, seq := 9 } ∧ isOrdered x.pkt.kind = false) ∧
      ([(PacketKind.request, 4), (.request, 5), (.store, 6)].map fun x => (k.sent.find? fun y => y.pkt.dst == 0 && y.pkt.kind == x.1 && y.pkt.seq == x.2).map Sent.resends)
        = [some 7, some 8, some 8]) ∧
    (∃ i < 16, (fabricSt.port 0 i).up = true ∧ (fabricSt.port 0 i).queued < 2 ^ 64) := by decide +kernel
/-- R400: a load's packet that fails leaves no copy in a port's queue, and loads from its package fail. -/
theorem test_packet_fails : (nextOf (exec (.fabricResend 0 0 .request 5) fabricSt)).map (fun t => ((t.pkg 0).failed, (t.pkg 0).sent.length, (t.port 0 3).queued))
    = some ([(0, 0x2000)], 6, 4000) := by decide +kernel
/-- Two packages of one leaf group; page 32 has its master in way 0 of set 0 of package 0. -/
def slotFor (gpn : Nat) (st : BitVec 2) (pin : Bool) : Slot := { Slot.void with gpn := gpn, st := st, pin := pin }
def lineOf (dirty : BitVec 8) (gran : List (BitVec 2)) : L2Line := { owned := gran != [], dirty := dirty, asid := 1, bkt := 16, gran := gran, ord := 0 }
def pairPod (slots : AMap Slot) (dir : AMap DirEnt) (l2 : AMap L2Line) : State :=
  { placed0 with
    podN := 2, dir := dir, dies := [(0, { placed0.die 0 with l2 := l2 })],
    pkgs := [(0, { (pod.pkg 0) with slots := slots, nbr := [1, 0, 0, 0] }), (1, pod.pkg 0)] }
def ownDir : DirEnt := { DirEnt.reset with master := some 0 }
def homeSt (pin : Bool) : State := pairPod [(0, slotFor 32 2 pin)] [(32, ownDir)] [(0x2001, lineOf 3 [])]
theorem wit_homeless :
    (let s := homeSt false
     s.live 0 = true ∧ s.live 1 = true ∧ isHomeless 0x200000 = true ∧ aget (s.die 0).l2 0x2000 = none ∧ (s.dirEnt 32).master = some 0 ∧
      (s.pkg 0).localOf 32 = some (.way 0 0) ∧ ((s.pkg 0).slotAt (.way 0 0)).isMaster = true ∧
      (s.pkg 1).localOf 32 = none ∧ (s.dirEnt 32).hostBias = none ∧ s.ldirRoom 0 32 1 = true ∧ (s.pkg 1).invalidWay ((s.pkg 1).setOf 32) = some 0 ∧
      s.masterSlot 32 = some (0, .way 0 0) ∧ s.pkgHolds 1 0x2000 = none ∧ s.pkgHolds 0 0x2001 = some 0 ∧ aget (s.die 1).l2 0x2001 = none ∧
      succeeds (s.grantLine 8 0x200000 false 0 false) = true ∧ s.exclusive 8 0x200000 = false ∧
      succeeds (s.grantLine 0 0x210000 false 0 false) = true ∧ s.masterSlot 33 = none ∧ (s.dirEnt 33).lost = false ∧
      (s.pkg 0).invalidWay ((s.pkg 0).setOf 33) = some 0 ∧ s.exclusive 0 0x210000 = false ∧
      ((aget (s.die 0).l2 0x2001).any fun x => x.dirty != 0) = true ∧ s.backFault 0 0x2001 = none ∧ s.backHeld 0x2001 = false ∧ s.links = [] ∧ s.dead = []) ∧
    -- package 0 has lost its power: a dirty line of package 1 has nowhere to go
    (let s := { homeSt false with dead := [0], dies := [(8, { placed0.die 8 with l2 := [(0x2001, lineOf 3 [])] })] }
     s.live (pkgOfDie 8) = true ∧ s.masterSlot 32 = some (0, .way 0 0) ∧ ((aget (s.die 8).l2 0x2001).any fun x => x.dirty != 0) = true ∧
      s.backHeld 0x2001 = false ∧ s.backFault 8 0x2001 = some 8) := by
  decide +kernel
/-- Every way of set 0 holds a master without replicas. -/
def crowdSt : State :=
  pairPod ((List.range 4).map fun i => (i, slotFor (32 + 16 * i) 2 false)) ((List.range 4).map fun i => (32 + 16 * i, ownDir)) []
/-- An access waits for a way of the set, whose tags have changed since; the neighbour of the first offer takes it, or has no
injection buffer free. -/
def offerSt (bufs : Nat) : State :=
  let p := { crowdSt.pkg 0 with nbr := [1, 2, 0, 0], tagN := [(0, 5)] }
  { crowdSt with podN := 3, tries := [(1, (0, 0, 4))], pkgs := [(0, p), (1, { pod.pkg 0 with injBufs := bufs }), (2, pod.pkg 0)] }
theorem wit_injection :
    (∀ b ∈ [0, 2], let s := offerSt b
     s.live 1 = true ∧ s.live 2 = true ∧ s.wantsRoom 0 0 = true ∧ (s.pkg 0).nbr.getD 0 0 = 1 ∧ (s.pkg 0).nbr.getD 1 0 = 2 ∧
      (s.pkg 0).setOf 32 = 0 ∧ (s.pkg 0).invalidWay 0 = none ∧ ((s.pkg 0).oldest 0 fun x => x.isReplica && !x.guard) = none ∧
      ((s.pkg 0).oldest 0 fun x => x.isMaster && !s.pinned x && !(s.elsewhere x.gpn 0).isEmpty) = none ∧
      ((s.pkg 0).oldest 0 fun x => x.isMaster && !s.pinned x) = some 0 ∧ ((s.pkg 0).way 0 0).gpn = 32 ∧
      (s.offer 1 0 (.way 0 0)).isSome = (b == 0) ∧ (b = 2 → ((s.tryOffer 1 0 (.way 0 0)).2.offer 2 0 (.way 0 0)).isSome = true)) := by
  decide +kernel
/-- R361: NBR1's acceptance counts at both ends after NBR0's refusal has. -/
theorem test_second_offer : (nextOf (exec (.injectionOffer 2 0 32) (offerSt 2))).map (fun t => ((t.dirEnt 32).master, (t.pkg 0).am, (t.pkg 1).am, (t.pkg 2).am))
    = some (some 2, [1, 0, 1, 0, 0, 0], [0, 0, 0, 1, 0, 0], [0, 1, 0, 0, 0, 0]) := by decide +kernel
/-- DISCARD, PIN, UNPIN and LOST of page 32 where its master is not pinned and pinned, in a set with room and without. -/
def pinnedSet : State :=
  pairPod ((0, slotFor 32 2 false) :: (List.range 3).map fun i => (i + 1, slotFor (48 + 16 * i) 2 true)) ((List.range 4).map fun i => (32 + 16 * i, ownDir)) []
theorem wit_amops :
    (∀ pin ∈ [false, true], let s := homeSt pin
      s.live 0 = true ∧ (s.pkg 0).amBusy = false ∧ (s.holders 32).any (fun h => ((s.pkg h.1).slotAt h.2).pin) = pin ∧
        (s.dirEnt 32).hostBias = none ∧ (s.dirEnt 32).master = some 0 ∧ (s.pkg 0).masterOf 32 = some (.way 0 0) ∧
        ((s.pkg 0).slotAt (.way 0 0)).pin = pin ∧ s.pinOthers 0 ((s.pkg 0).setOf 32) 32 + 1 < (s.pkg 0).ways) ∧
    (let s := pinnedSet
     (s.pkg 0).masterOf 32 = some (.way 0 0) ∧ ((s.pkg 0).slotAt (.way 0 0)).pin = false ∧ (s.pkg 0).ways ≤ s.pinOthers 0 ((s.pkg 0).setOf 32) 32 + 1) ∧
    (let s := { homeSt false with dir := [(32, { DirEnt.reset with master := some 1 })] }
     (1 : Nat) ≠ 0 ∧ 1 < s.podN ∧ s.lostPkgs.contains 1 = false ∧ (s.dirEnt 32).master = some 1 ∧ s.elsewhere 32 1 = []) := by decide

/-- Host 0 on port 0; a granule of page 32 in an L2; pages in device and host bias. -/
def hostSt (bias : Option Nat) : State :=
  let s := pairPod [(0, slotFor 32 2 false)] [(32, { ownDir with hostBias := bias })]
    [(2 ^ 55 / 256, lineOf 0 [1, 2, 0, 0]), (2 ^ 55 / 256 + 1, lineOf 0xC0 [0, 0, 0, 3])]
  s
theorem wit_hosts :
    (let s := hostSt none
     s.live 0 = true ∧ isHostLine s (2 ^ 55) = true ∧ isHostLine s (2 ^ 55 + 256 + 192) = true ∧
      ((aget (s.die 0).l2 (lineKey (2 ^ 55))).bind fun x => x.gran[0]?) = some 1 ∧
      ((aget (s.die 0).l2 (lineKey (2 ^ 55 + 256 + 192))).bind fun x => x.gran[3]?) = some 3 ∧ (s.pkg 0).hasHost 0 = true ∧ (s.pkg 0).hasHost 1 = false ∧
      isHomeless 0x200000 = true ∧ (s.dirEnt (gpnOf 0x200000)).master = some 0 ∧ (s.dirEnt 32).hostBias = none ∧
      isHostKey (2 ^ 55) = true ∧ hostOf (2 ^ 55) = 0) ∧
    succeeds ((hostSt none).agentWrite 0 0x20003F [7]) = true ∧ ((hostSt none).pkg 0).held.any Held.isWrite = false ∧
    ((hostSt none).dirEnt 32).lost = false ∧ (hostSt none).links = [] ∧ (hostSt none).dead = [] ∧
    (let s := hostSt none
     (s.pkg 0).biasBusy = false ∧ (s.dirEnt 32).dup = false ∧ (s.dirEnt 32).opened = false ∧ (s.pkg 0).masterOf 32 = some (.way 0 0) ∧
      s.pinOthers 0 ((s.pkg 0).setOf 32) 32 + 1 < (s.pkg 0).ways) ∧ ((hostSt (some 0)).dirEnt 32).hostBias = some 0 := by
  refine ⟨by decide, by decide +kernel, by decide, by decide, by decide, by decide, by decide, by decide⟩
theorem test_bias_to_host : (nextOf (exec (.biasopToHost 0 0 32) (hostSt none))).map (fun t => ((t.dirEnt 32).hostBias, (t.pkg 0).biasErr, (t.pkg 0).biasH)) = some (some 0, 0, true) := by decide +kernel

/-- The scrubber of die 1, which holds the tags of frame 0x102, finds page 0x8000000, whose leaf holds the sum `c`. -/
def scrubSt (c : Nat) : State :=
  let s := shadowSt (2 ^ 60 + 2 ^ 61 + c)
  { s with dies := [(1, { s.die 1 with scrbctl := 0x8000000000000000, scrbptb := 0x100000, scrubAt := 0x8000000 })] }
def scrubLeaf (c : Nat) : Leaf := { lo := 0x40800002F, hi := BitVec.ofNat 64 (2 ^ 32 + 2 ^ 60 + 2 ^ 61 + c), level := 0, vsel := false }
theorem wit_scrubber : ∀ c ∈ [0, 1], (scrubSt c).live (pkgOfDie 1) = true ∧ ((scrubSt c).die 1).scrbctl.getLsbD 63 = true ∧
    (scrubLeaf c).crc = c ∧
    (scrubSt c).nextLeaf ((scrubSt c).scrubs 1) ((scrubSt c).die 1).scrubAt 4 0 (ptbAddr ((scrubSt c).die 1).scrbptb) = some (0x8000000, 0x118000, scrubLeaf c) := by
  intro c hc
  simp only [List.mem_cons, List.not_mem_nil, or_false] at hc
  rcases hc with rfl | rfl <;> exact ⟨by decide, by decide, by decide, by decide +kernel⟩

/-- Nothing stands in the page itself, whatever the sum in its leaf: its checksum is not both 0 and 1. -/
theorem wit_scrubber_differs : ∃ c, (scrubSt c).pageCrc (scrubLeaf c) ≠ (scrubLeaf c).crc := by
  have above : ∀ (m : List Host.Cell), (m.all fun e => e.1 < 0x1020000) = true → ∀ k, 0x1020000 ≤ k → memGet m k = 0 := by
    intro m
    induction m with
    | nil => intros; rfl
    | cons e m ih =>
      intro h k hk
      simp only [List.all_cons, Bool.and_eq_true, decide_eq_true_eq] at h
      have := ih h.2 k hk
      simp only [memGet, aget] at this ⊢
      rwa [if_neg (by omega)]
  have zeros : ∀ (s : State), (s.mem.all fun e => e.1 < 0x1020000) = true → ∀ n k, 0x1020000 ≤ k →
      s.bytes k n = List.replicate n 0 := by
    intro s h n
    induction n with
    | zero => intros; rfl
    | succ n ih => intro k hk; rw [State.bytes, above _ h k hk, ih _ (by omega), List.replicate_succ]
  have bytes : ∀ c ∈ [0, 1], (scrubSt c).bytes (0x102 * 65536) 65536 = List.replicate 65536 0 := by
    intro c hc
    refine zeros _ ?_ _ _ (by omega)
    simp only [List.mem_cons, List.not_mem_nil, or_false] at hc
    rcases hc with rfl | rfl <;> decide +kernel
  have live : ∀ c ∈ [0, 1], (scrubLeaf c).live = 0x102 := by decide
  have crc : ∀ c ∈ [0, 1], (scrubLeaf c).crc = c := by decide
  by_cases h : crc32c (List.replicate 65536 0) = 0
  · exact ⟨1, by rw [State.pageCrc, live 1 (by decide), bytes 1 (by decide), crc 1 (by decide), h]; decide⟩
  · exact ⟨0, by rw [State.pageCrc, live 0 (by decide), bytes 0 (by decide), crc 0 (by decide)]; exact h⟩

/-! ### Steps, decode checks, operands -/

/-- A word placed for the user warp: `sadd s9, s6, 1` and an unused opcode. -/
def saddWord : List Byte := wordBytes ((encode (.sadd { noFields with d := 9, a := .u 6, b := .imm, imm := 1 })).getD 0)
def wordSt (bs : List Byte) : State := State.reset.placed bs
def badWord : List Byte := [0x0C, 0, 0, 0, 0, 0, 0, 0, 0, 0, 0, 0, 0, 0, 0, 0]

theorem wit_agenda : ∃ p rest, { placed0 with agenda := [.issue 0] }.agenda = p :: rest := ⟨_, _, rfl⟩
theorem wit_default_pick : placed0.agenda = [] ∧ ∃ p, placed0.default = .pick p := ⟨by decide, .issue 34, by decide +kernel⟩

/-- Selected, fetched and decoded: the word of an instruction, whose issue answers a next state, and one that no row names. -/
theorem wit_step_issue : ∀ p ∈ [(saddWord, true), (badWord, false)],
    ∃ w c c1 ls, aget (wordSt p.1).warps 0 = some w ∧ (wordSt p.1).turn w = true ∧ (wordSt p.1).roundRobin 0 w = 0 ∧ w.vote = some (c, c1) ∧
      (wordSt p.1).transAll ((wordSt p.1).who w) Acc.fetch [(BitVec.ofNat 64 c).toNat] = .inr ls ∧
      (match decode (bytesWord ((wordSt p.1).bytes (keyOf ls 0 (BitVec.ofNat 64 c).toNat) 16)) with
        | .ok _ => true | .error _ => false) = p.2 := by
  intro p hp
  simp only [List.mem_cons, List.not_mem_nil, or_false] at hp
  rcases hp with rfl | rfl <;>
    exact ⟨_, 0x10000, none, _, rfl, by decide +kernel, by decide +kernel, by decide +kernel, rfl, by decide +kernel⟩
/-- The word runs, and its issue is counted: the step leaves every lane at the next word. -/
theorem test_step_sadd : (nextOf (perform (wordSt saddWord) (.issue 0))).map (fun t => (aget t.warps 0).map fun w => ((w.lane 0).pc, (w.lane 31).pc))
    = some (some (0x10010, 0x10010)) := by decide +kernel
theorem test_step_bad_word : (nextOf (perform (wordSt badWord) (.issue 0))).map (fun t => (aget t.warps 0).map fun w =>
    match (w.lane 0).st with | .park c _ _ => c | _ => 0) = some (some 0x01) := by decide +kernel

/-- PC1 of a selection just made: lane 1 stands at the next word, a `nop`, whose unit class is not that of `sadd`. -/
def pc1St : State :=
  let s := wordSt (saddWord ++ List.replicate 16 0)
  { s with warps := amod s.warps 0 fun w => { w with
      lanes := w.lanes.modify 1 (fun x => { x with pc := 0x10010 }), pair := some { unit := unitOf (.sadd noFields), pc := 0x10010, lanes := 2 } } }
theorem wit_step_pair : ∃ w p ls, aget pc1St.warps 0 = some w ∧ w.pair = some p ∧
    pc1St.transAll (pc1St.who w) Acc.fetch [p.pc.toNat] = .inr ls ∧
    (decode (bytesWord (pc1St.bytes (keyOf ls 0 p.pc.toNat) 16))).toOption = some (.nop noFields) ∧
    unitOf (.nop noFields) ≠ p.unit ∧ w.atCounter p.pc.toNat &&& p.lanes ≠ 0 :=
  ⟨_, _, _, rfl, rfl, rfl, by decide +kernel, by decide +kernel, by decide +kernel⟩

/-- A park by a decode check, one for each: A of `sadd` a predicate; `halt` in a user warp; `v63` past a budget of 8. -/
def tightSt : State := user 1 fun w => { w with vregs := w.vregs.take 8 }
theorem wit_decode_checks :
    (∀ w ∈ aget (user 1 id).warps 0, wfFor false (.sadd { noFields with a := .v 3 }) = false ∧ w.kind = .user) ∧
    (∀ w ∈ aget (user 1 id).warps 0, wfFor false (.halt noFields) = true ∧ w.kind = .user ∧ (opSpec (.halt noFields)).map (·.forP) = some true) ∧
    (∀ w ∈ aget tightSt.warps 0, wfFor false (.vmov { noFields with d := 63 }) = true ∧ w.kind = .user ∧
      (opSpec (.vmov noFields)).map (·.forP) = some false ∧ w.vregs.length < vecTop false (.vmov { noFields with d := 63 }) { noFields with d := 63 }) := by
  decide
theorem test_priv_parks : (stAfter (exec (.halt noFields) (user 1 id)) 0 0).map (fun x => match x with | .park c _ _ => c | _ => 0)
    = some 0x02 := by decide
theorem test_budget_parks : (stAfter (exec (.vmov { noFields with d := 63 }) tightSt) 0 0).map
    (fun x => match x with | .park c _ _ => c | _ => 0) = some 0x01 := by decide

theorem wit_memory_form : State.reset.memOk ∧ placed0.memOk := by unfold State.memOk; exact ⟨by decide, by decide +kernel⟩
theorem wit_round_trip : wf (.vadd { noFields with d := 4, a := .v 5, b := .u 3 }) = true := by decide

/-- A state, of each kind of agent, in which no issuing lane takes the instruction. -/
def idleUser : State := user 1 id
theorem wit_no_taking_lane :
    (∀ p ∈ [((Instr.sadd : Fields → Instr), { onQ1 with a := .u 1, b := .u 2 }), (.exit, onQ1), (.ldu, { onQ1 with d := 2, a := .u 1, b := .sp 0, md := 4 }),
        (.waitz, { onQ1 with a := .u 48 })], Meets idleUser p.1 p.2 fun e _ => e.taking = 0) ∧
    Meets (service id) .halt onQ1 (fun e _ => e.taking = 0) ∧ Meets (sequencer id) .mzero { onQ1 with d := 0 } (fun e _ => e.taking = 0) :=
  ⟨all_meet (by decide), meets (by decide) (by decide), meets (by decide) (by decide)⟩

/-- Sources of each kind: a bound counter, a register with nothing outstanding; a base of lanes and a 32-bit signed offset. -/
def sourceSt : State := user 3 fun w => withU [(6, 9)] { w with bound := [(5, 2 ^ 40)] }
theorem wit_uniform_sources : let e := envOf sourceSt noFields
    aget e.w.bound (5 : BitVec 6).toNat = some (2 ^ 40) ∧ aget e.w.bound (6 : BitVec 6).toNat = none ∧
      (∀ r ∈ e.w.recent, r.old.name ≠ (1, 6)) ∧ (∀ g ∈ e.w.flights, ∀ p ∈ g.writes, p.1.name ≠ (1, 6)) ∧
      e.uni (baseOf sourceSt) (.u 6) = 9 ∧ e.uni (baseOf sourceSt) (.u 5) = 2 ^ 40 := by decide
theorem wit_address_parts : ∀ t ∈ [(0x07 : BitVec 5), 0x08, 0x09, 0x0A, 0x0B],
    ((envOf (user 1 (withV 2 t fun _ => 0x80000001)) noFields).v 2).tag = t := by decide
theorem test_address_signed : (envOf (user 1 (withV 2 0x08 fun _ => 0x80000001)) noFields).addrPart placed0 (.v 2) 0
    = 0xFFFFFFFF80000001 := by decide
theorem test_address_unsigned : (envOf (user 1 (withV 2 0x07 fun _ => 0x80000001)) noFields).addrPart placed0 (.v 2) 0
    = 0x80000001 := by decide

/-! ### Calls on bad targets; stores to the capacity tier and to a host -/

/-- Three lanes of a `callx`: a good target, one that is no multiple of 16, one that is not canonical. -/
def badCallSt : State := user 7 (withV 2 0x0B fun l => if l = 0 then 0x2000 else if l = 1 then 0x2008 else 0x1000000000000000)
theorem wit_bad_calls :
    Meets badCallSt .callx { noFields with d := 3, a := .v 2 } (fun e _ => (e.v 2).tag = 0x0B ∧ e.isSeq = false ∧ e.taking = 7) ∧
    Meets (sequencer (withU [(5, 0x2008)])) .callx { noFields with d := 20, a := .u 5 } (fun e _ => e.isSeq = true ∧ e.w.busy 20 = false) :=
  ⟨meets (by decide) (by decide), meets (by decide) (by decide)⟩
/-- R82: lane 0 branches, lane 1 parks with ALIGN, lane 2 with XLATE; the link is lane 0's alone. -/
theorem test_callx_bad_lanes : (warpOf (exec (.callx { noFields with d := 3, a := .v 2 }) badCallSt) 0).map (fun w => (w.lane 0).pc :: (List.range 3).map fun l =>
    match (w.lane l).st with | .park c _ _ => BitVec.ofNat 64 c | _ => 0) = some [0x2000, 0, 4, 5] := by decide +kernel
theorem test_callx_bad_link : (List.range 3).map (vAfter (exec (.callx { noFields with d := 3, a := .v 2 }) badCallSt) 3) = [some 0x10010, some 0, some 0] := by decide +kernel

theorem wit_reform_waits :
    Meets boundSt .reform noFields (fun e s1 => (s1.recOf e.w).map LRec.donate = some false ∧ e.taking ≠ 0 ∧ ∃ b ∈ e.w.bound, b.2 ≠ 0) ∧
    Meets (user 1 flying) .reform noFields (fun e s1 => (s1.recOf e.w).map LRec.donate = some false ∧ e.taking ≠ 0 ∧
      (∀ b ∈ e.w.bound, b.2 = 0) ∧ e.w.flights ≠ []) :=
  ⟨meets (by decide) (by decide), meets (by decide) (by decide)⟩

/-- A CAP page and a HOST page. -/
def pageSt (lo : Word) : State :=
  let s := mapped 0x9000000 lo 0 (booted (user 0x80000001 fun w => withU [(5, 0x9000000)] (memWarp w)))
  { s with pkgs := amod s.pkgs 0 fun p => { p with cxlRun := 1 } }
theorem wit_stores_elsewhere :
    Meets (pageSt 0x6F) .st { noFields with a := .u 5, b := .v 2, c := .v 7 } (StorePre 1) ∧
    Meets (pageSt 0xAF) .st { noFields with a := .u 5, b := .v 2, c := .v 7 } (StorePre 1) :=
  ⟨meets (by decide +kernel) (storePre_of (by decide) (by decide) (by decide) (by decide) (by decide +kernel) (by decide +kernel)),
   meets (by decide +kernel) (storePre_of (by decide) (by decide) (by decide) (by decide) (by decide +kernel) (by decide +kernel))⟩

/-! ### Dirty lines, empty buckets, atomics, a tile under copy -/

/-- The class's bucket is enabled and below zero. -/
def emptied (s : State) : State := { s with pkgs := amod s.pkgs 0 fun p => { p with buckets := List.replicate 16 ⟨0, 1, -1⟩ } }
def bucketEmpty (e : Env) (s1 : State) : Bool :=
  ((s1.pkg (pkgOfCore e.w.core)).buckets[s1.bucketOf e.w]?).any fun b => b.rate != 0 && decide (b.level < 0)
/-- The instructions of the memory and async/tile classes, with operands that pass their tag checks. -/
def bucketForms : List ((Fields → Instr) × Fields) :=
  [(.ld, { noFields with d := 8, a := .u 4, b := .v 2, md := 8 }), (.ldb, { noFields with d := 8, a := .u 4, b := .sp 0, md := 9 }),
   (.ldnf, { noFields with d := 8, e := 3, a := .u 4, b := .v 2, md := 8 }),
   (.st, { noFields with a := .u 4, b := .v 2, c := .v 7 }), (.stb, { noFields with a := .u 4, b := .sp 0, c := .v 8 }),
   (.ldu, { noFields with d := 9, a := .u 4, b := .sp 0, md := 9 }), (.stu, { noFields with a := .u 4, b := .sp 0, c := .u 4, md := 9 }),
   (.pf, { noFields with a := .u 5, b := .v 2 }), (.cflu, { noFields with a := .u 5, b := .v 2 }), (.cinv, { noFields with a := .u 5, b := .v 2 }),
   (.atom, { noFields with d := 8, a := .u 4, b := .v 2, c := .v 7, md := 8 }), (.red, { noFields with a := .u 4, b := .v 2, c := .v 7, md := 8 }),
   (.acas, { noFields with d := 8, e := 7, a := .u 4, b := .v 2, c := .v 7, md := 8 }),
   (.atomu, { noFields with d := 9, a := .u 4, b := .sp 0, c := .u 4, md := 9 }), (.acasu, { noFields with d := 9, e := 4, a := .u 4, b := .sp 0, c := .u 4, md := 9 }),
   (.fence, noFields), (.acopyIn, { noFields with d := 2, e := 48, a := .u 5, b := .u 6, md := 2 }), (.shopen, { noFields with a := .u 5, b := .u 6 }),
   (.vsave, { noFields with d := 9, a := .u 5 }), (.pcrs, { noFields with a := .u 5 }), (.tdef, { noFields with d := 3, a := .u 8, md := 8 }),
   (.tacq, { noFields with d := 2 }), (.tstat, { noFields with d := 9, e := 2 }), (.waitz, { noFields with a := .u 48 }),
   (.kvsum, { noFields with d := 9, a := .u 5 })]
def bucketSt : State := emptied (booted (user 0xFFFFFFFF fun w =>
  memWarp (withV 8 8 (fun _ => 1) (withV 9 8 (fun _ => 2) (withV 10 8 (fun _ => 3) (withV 11 8 (fun _ => 4) w))))))
def bucketPre (e : Env) (s1 : State) (f : Fields) : Bool :=
  bucketEmpty e s1 && (f.b == .v 0 || baseGood e) && e.taking != 0 && !e.w.busy f.d.toNat && !e.isSeq && (f.c == .v 0 || (e.valueFault (if f.md = 0 then e.storeFmt else mdN f 0 5) f.c).isNone)
theorem wit_empty_bucket : (∀ p ∈ bucketForms, Meets bucketSt p.1 p.2 fun e s1 => bucketPre e s1 p.2 = true) ∧
    Meets bucketSt .stb { noFields with a := .u 4, b := .sp 0, c := .v 8 } (fun e _ => e.quadTags = true ∧ e.storeFmt ≠ 0 ∧
      e.valueFault e.storeFmt e.f.c = none ∧ e.someActive (nSub e.storeFmt)) ∧
    Meets bucketSt .acas { noFields with d := 8, e := 7, a := .u 4, b := .v 2, c := .v 7, md := 8 } (fun e _ => e.tagOf e.f.c = some 8 ∧
      atomTag 8 8 = true ∧ (e.v 7).tag.toNat = 8) :=
  ⟨fun p hp => meets ((by decide +kernel : ∀ p ∈ bucketForms, ready bucketSt (p.1 p.2) p.2 = true) p hp)
      ((by decide +kernel : ∀ p ∈ bucketForms, bucketPre (envOf bucketSt p.2) (baseOf bucketSt) p.2 = true) p hp),
    meets (by decide) ⟨by decide, by decide, by decide, 0, by decide⟩, meets (by decide) (by decide)⟩

/-- What the statement about vector atomics asks for. -/
def AtomsPre (op : Option Nat) (e : Env) (s1 : State) : Prop :=
  let t := mdN e.f 0 5
  let n := fmtWidth t / 8
  e.valueFault t e.f.c = none ∧ ∃ xs : List (LaneAcc × Lines), xs.map Prod.fst = e.atomAccs s1 n ∧
    (∀ x ∈ xs, s1.grantsOne (e.who s1) Acc.atomic x.1.va n x.2 ∧ noChecksum x.2) ∧
    ∃ s0 got, e.claimLanes s1 xs s1 = .ok s0 ∧ e.atomLanes s1 op t xs ([], s0) = .ok got

theorem atomsPre_of {op : Option Nat} {e : Env} {s1 : State} (h1 : e.valueFault (mdN e.f 0 5) e.f.c = none)
    (h2 : ∀ l ∈ lanesOf e.taking, oneGood s1 (e.who s1) Acc.atomic (e.va s1 0 l) (fmtWidth (mdN e.f 0 5) / 8) = true)
    (h3 : let xs := (e.atomAccs s1 (fmtWidth (mdN e.f 0 5) / 8)).map fun x => (x, linesAt s1 (e.who s1) Acc.atomic (x.offs.map (vaAdd x.va)))
      succeeds ((e.claimLanes s1 xs s1).bind fun s0 => e.atomLanes s1 op (mdN e.f 0 5) xs ([], s0)) = true) : AtomsPre op e s1 := by
  refine ⟨h1, (e.atomAccs s1 (fmtWidth (mdN e.f 0 5) / 8)).map fun x =>
    (x, linesAt s1 (e.who s1) Acc.atomic (x.offs.map (vaAdd x.va))), ?_, ?_, ?_⟩
  · simp [Function.comp_def]
  · intro x hx
    obtain ⟨y, hy, rfl⟩ := List.mem_map.1 hx
    simp only [Env.atomAccs, List.mem_map] at hy
    obtain ⟨l, hl, rfl⟩ := hy
    have := grantsOne_of (h2 l hl)
    exact ⟨this.1, this.2.2⟩
  · obtain ⟨got, hg⟩ := ok_of_succeeds h3
    cases hc : e.claimLanes s1 ((e.atomAccs s1 (fmtWidth (mdN e.f 0 5) / 8)).map fun x =>
        (x, linesAt s1 (e.who s1) Acc.atomic (x.offs.map (vaAdd x.va)))) s1 with
    | error w => simp [hc, Except.bind] at hg
    | ok s0 => exact ⟨s0, got, rfl, by simpa [hc, Except.bind] using hg⟩

/-- Four lanes on one word in the homeless space, two on one in a scratchpad, no lane; a float addition. -/
theorem wit_vector_atomics :
    Meets (booted (user 15 memWarp)) .atom { noFields with d := 9, a := .u 5, b := .sp 0, c := .v 7, md := 8 } (AtomsPre (some 0)) ∧
    Meets wideSt .acas { noFields with d := 9, e := 7, a := .u 4, b := .sp 0, c := .v 7, md := 8 } (AtomsPre none) ∧
    Meets (booted (user 0 memWarp)) .atom { noFields with d := 9, a := .u 5, b := .v 2, c := .v 7, md := 8 } (AtomsPre (some 0)) ∧
    Meets memLane .red { noFields with a := .u 4, b := .sp 0, c := .u 4, md := 0x13 + 10 * 16384 } (AtomsPre (some 10)) :=
  ⟨meets (by decide +kernel) (atomsPre_of (by decide +kernel) (by decide +kernel) (by decide +kernel)),
   meets (by decide +kernel) (atomsPre_of (by decide +kernel) (by decide +kernel) (by decide +kernel)),
   meets (by decide +kernel) (atomsPre_of (by decide +kernel) (by decide +kernel) (by decide +kernel)),
   meets (by decide +kernel) (atomsPre_of (by decide +kernel) (by decide +kernel) (by decide +kernel))⟩
/-- R165: the lanes add in ascending order; lane 3 finds what the lanes below it have left, 1 + 2 + 3. -/
theorem test_atom_order : vAfter (exec (.atom { noFields with d := 9, a := .u 5, b := .sp 0, c := .v 7, md := 8 }) (booted (user 15 memWarp))) 9 3 = some 6 := by decide +kernel

/-- A copy into tile 2 is outstanding for the warp that issues `trdy`. -/
def copyingSt : State := { (nextOf (exec (.acopyIn (copyF 0)) (copySt 0))).getD (copySt 0) with cur := some ⟨0, 1, 0x10010, false⟩ }
theorem wit_trdy_copying : Meets copyingSt .trdy { noFields with d := 2 } fun e s1 => e.taking ≠ 0 ∧
    (s1.pkg 0).stalled (s1.bucketOf e.w) = false ∧ e.tileFault s1 2 true = none ∧ grantsGood e s1 [(2, 1)] = true ∧ s1.copyInto e.w.gid 2 = true :=
  meets (by decide +kernel) (by decide +kernel)

/-! ### What flies; reads of a `kvsum` and of a walk; what an `attn` computes -/

theorem wit_nothing_flies : (baseOf (shadowSt 0)).inFlight = [] ∧ publishSt.inFlight = [] ∧ (baseOf (shadowSt (2 ^ 60))).inFlight = [] ∧
    (baseOf transSt).inFlight = [] ∧ publishSt.links = [] ∧ publishSt.dead = [] ∧ (publishSt.dirEnt 0x102).lost = false := by decide +kernel

/-- A `kvsum` of the page whose leaf stands at 0x118000, outstanding for the user warp. -/
def ksumSt : State :=
  { shadowSt (2 ^ 60 + 2 ^ 61) with
    warps := amod (shadowSt 0).warps 0 (fun w => { w with flights := [{ id := 9, born := 0, writes := [(.u 63 0, .sure)], flags := 0, tile := none }] }),
    ksums := [(9, { warp := 0, reg := 63, who := placed0.who benchWarp, entry := 0x118000, live := 0x102, parts := [(3, List.replicate 32 7)] })] }
theorem wit_ksum : (∀ k ∈ aget ksumSt.ksums 9, ksumSt.ksumHeld k = false ∧ k.warp = 0 ∧ k.entry % 16 = 0 ∧ isHomeless (k.entry + 8) = true) ∧
    (aget ksumSt.ksums 9).isSome = true ∧ ksumSt.links = [] ∧ ksumSt.dead = [] ∧ ksumSt.dir = [] ∧
    (aget ksumSt.warps 0).any (fun w => w.flights.any fun g => g.id == 9 && g.writes.any fun p => p.1.name == (1, 63)) = true := by decide +kernel
/-- R184: a sector is read as it stands, and once. -/
theorem test_ksum_reads : [3, 2].map (fun i => (nextOf (perform (withMem (0x102 * 65536 + 64) (List.replicate 64 5) ksumSt) (.move (.ksum 9 i)))).bind fun u =>
    (aget u.ksums 9).bind fun k => (aget k.parts i).map fun bs => bs.headD 0) = [some 7, some 5] := by decide +kernel

theorem wit_tlbinv_held : Meets { transSt with copies := [(5, spadCopy)] } .tlbinvAll { noFields with md := 16 + 4 } (fun e s1 => e.taking ≠ 0 ∧
    mdN e.f 0 3 = 4 ∧ s1.inFlight ≠ []) := meets (by decide) (by decide)
/-- R226: a use by a copy of a die in reset does not hold an invalidation: the die has dropped it. -/
theorem test_reset_drops_uses : [false, true].map (fun r =>
    (State.inFlight { transSt with copies := [(5, spadCopy)], dies := [(0, { transSt.die 0 with inReset := r })] }).length) = [1, 0] := by decide

/-- A drain on the float path with GELU; one on the integer path with SiLU. -/
theorem wit_drain_activations :
    Meets (drainSt cfgBF16 0x10 0x12) .mdrain { noFields with d := 3, a := .u 5, b := .u 6, md := 5 * 8 } (fun e s1 =>
      let g := s1.unit e
      let td := g.tiles.getD 3 Tile.void
      matGood e s1 (drainFoot e.f) [] (some 3) = true ∧ g.cfg.isInt = false ∧ drainFloatTag td.tag = true ∧ mdB e.f 1 = false ∧
        nrN e.f ≤ td.nRows ∧ ncN e.f ≤ td.perRow ∧ colN e.f + ncN e.f ≤ 256 * g.width) ∧
    Meets (drainSt cfgI8 3 4) .mdrain { noFields with d := 3, a := .u 5, b := .u 6, md := 4 * 8 } (fun e s1 =>
      let g := s1.unit e
      matGood e s1 (drainFoot e.f) [] (some 3) = true ∧ g.cfg.isInt = true) :=
  ⟨meets (by decide) (by decide), meets (by decide) (by decide)⟩

/-- One page of a walk: its entry at 0x210000, its row-state word at 0x220000, its rows at 0x230000; one token; K row 1 0 0 0 and V
row 2 2 2 2 in BF16. -/
def walkDesc : List Byte :=
  leBytes 8 0x210000 ++ leBytes 8 0x220000 ++ List.replicate 8 0 ++ leBytes 4 0 ++ leBytes 4 1 ++ leBytes 4 0 ++ leBytes 4 32 ++ leBytes 2 64 ++ leBytes 2 64
    ++ [0x10, 0x10, 4, 0] ++ leBytes 2 0 ++ leBytes 2 1 ++ List.replicate 6 0 ++ [4, 0] ++ List.replicate 4 0
def kRow : List Byte := [0x80, 0x3F, 0, 0, 0, 0, 0, 0]
def vRow : List Byte := [0, 0x40, 0, 0x40, 0, 0x40, 0, 0x40]
def walkOp : MOp := { mmulOp with instr := .attn attnF, ctr := some 48, fed := false, desc := walkDesc, out := [], src := [2], dst := some 3 }
def freshRows (g : Group) : Group := (g.modRow 0 fun _ => { exRow with m := 0, l := 0, empty := true }).modRow 1 fun _ => { exRow with m := 0, l := 0, empty := true }
def walkSt (op : MOp) : State :=
  withMem 0x230000 kRow (withMem 0x230020 vRow (withMem 0x220000 [1, 0] (withMem 0x210000 (leBytes 8 0x230000) (mopSt op freshRows))))
def readPage : PageRead := { entry := some 0x230000, word := some 1, scales := some [0, 0], rows := [(0, kRow), (16, vRow)] }
def readOp : MOp := { walkOp with walk := [(0, readPage)] }
def walkWho : Option Who := (aget (walkSt walkOp).groups 1).bind (walkSt walkOp).seqWho
theorem wit_walk :
    (let d := parseKvd walkDesc
     (d.next 2 [], d.next 2 [(0, { entry := some 0x230000 })], d.next 2 [(0, { readPage with rows := [] })], d.next 2 [(0, readPage)])
       = ([(0, .entry)], [(0, .word)], [(0, .row 0), (0, .row 16)], [])) ∧
    (walkWho.any fun w => oneGood (walkSt walkOp) w Acc.load 0x210000 8 && oneGood (walkSt walkOp) w Acc.load 0x220000 2 &&
      oneGood (walkSt walkOp) w Acc.load 0x230020 8) = true ∧ (0x230000 : Nat) % 65536 = 0 ∧ (parseKvd walkDesc).rsa ≠ 0 ∧
    (∃ k ∈ (parseKvd walkDesc).live 2 0, bitsN 0 k 1 = 0) := by decide +kernel
def gotten (x : Fetch PageRead) : Bool := match x with | .got _ _ => true | _ => false
theorem wit_walk_move : (aget (walkSt walkOp).groups 1).any (fun g => (g.mops[0]?.any fun m => m.granted && isAttn m.instr) && decide (g.phase = .running) &&
    (((walkSt walkOp).seqWho g).any fun w => gotten ((walkSt walkOp).fetchNeed w (parseKvd walkDesc) 2 0 (pageRead [] 0) .entry))) = true := by decide +kernel
/-- R304: a walk with six pages, of which nothing is read, may read the entries of the first five. -/
theorem test_walk_ahead : ({ parseKvd walkDesc with nt := 96 } : Kvd).next 1 [] = (List.range 5).map fun b => (b, .entry) := by decide
/-- R304: a row stored after its sector has been read is not seen. -/
theorem test_walk_reads_word : (nextOf (perform (walkSt walkOp) (.move (.walk 1 0 0)))).map (fun t => (aget t.groups 1).map fun g =>
    g.mops.map fun m => (pageRead m.walk 0).entry) = some (some [some 0x230000]) := by decide +kernel

/-- A walk that has read all and not computed; with no token; one that has computed. -/
theorem wit_walk_computes : ∀ op ∈ [readOp, { walkOp with desc := (attnSt.bytes 0x200000 64) }],
    (aget (walkSt op).groups 1).any (fun g => (g.mops[0]?.any fun m => m.granted && !m.fed && decide (m.instr = .attn attnF)) && decide (g.phase = .running) &&
      ((walkSt op).seqWho g).isSome && (parseKvd op.desc).pages.all fun b => ((parseKvd op.desc).needs 2 b (pageRead op.walk b)).isEmpty) = true := by
  intro op h
  simp only [List.mem_cons, List.not_mem_nil, or_false] at h
  rcases h with rfl | rfl <;> decide +kernel
/-- R205, R206: the query rows are zero, so the token's score is 0 and its probability 1; the outputs are the V row. -/
theorem test_attn_computes : (match exec (.matrixComplete 1 0) (walkSt readOp) with
    | .next t => (aget t.groups 1).map fun g => ((g.el 1 3).v)
    | _ => none) = some (roundAF (.fin false 2 0)) := by decide +kernel
theorem wit_completes : ∀ s ∈ [mopSt { attnOp with fed := true } id, smxsSt, smxlSt],
    (match aget s.groups 1, aget s.warps 40 with
     | some g, some w => (g.mops[0]?.any fun m => m.granted && (m.fed || (m.access.any fun a => !s.anyReset a.1 a.2 true && s.mayTry (Trier.copy m.id).key && succeeds (s.putBytes a.1 a.2 0 0 m.left)))) &&
        decide (g.phase = .running) && decide (g.seq = some 40) && decide (w.kind = .seq) && !w.allExited && s.phases.isEmpty
     | _, _ => false) = true ∧ s.links = [] ∧ s.dead = [] := by
  intro s h
  simp only [List.mem_cons, List.not_mem_nil, or_false] at h
  rcases h with rfl | rfl | rfl <;> decide +kernel
theorem wit_completes_keyed : Keyed smxsSt.warps ∧ Keyed smxlSt.warps ∧ Keyed (mopSt { attnOp with fed := true } id).warps := by
  unfold Keyed; decide +kernel
theorem wit_walk_fault_again : (aget (mopSt attnOp fun g => { g with faulted := true }).groups 1).any (fun g => g.faulted &&
    ((mopSt attnOp fun g => { g with faulted := true }).walkFault g attnOp attnF).isSome) = true := by decide +kernel

/-! ### Migration to a die; machine registers -/

/-- s5: a GLOBAL address whose set stands on die 1, in round-robin order after core 30 of it: core 63's slots are free or taken, and
core 32 comes next. -/
def migDieSt (slots : List Nat) : State :=
  let s := migSt 0x220000 []
  { s with dies := [(1, { s.die 1 with landRR := 30 })],
           warps := slots.foldl (fun m i => aset m (63 * 64 + i) { benchWarp with core := 63, slot := i }) s.warps }
theorem wit_migrate_die : ∀ x ∈ [(([] : List Nat), 0), ([32, 33], 1)], Meets (migDieSt x.1) .migrate migF fun e s1 =>
    e.leading = some 0 ∧ e.w.kind ≠ .service ∧ (e.w.which fun x => !x.isExit) = e.lanes ∧ (∀ y ∈ e.w.lanes, y.st = .run ∨ y.st = .exited) ∧
      e.w.countersZero = true ∧ e.w.flights = [] ∧
      s1.migTarget (e.waited.who s1) (e.waited.addrPart s1 (.u 5) 0) = .go (.die 1) ∧
      (∀ j < x.2, s1.landingSlot (32 + ((s1.die 1).landRR + 1 + j) % 32) = none) ∧ s1.landingSlot (32 + ((s1.die 1).landRR + 1 + x.2) % 32) = some 32 := by
  intro x hx
  simp only [List.mem_cons, List.not_mem_nil, or_false] at hx
  rcases hx with rfl | rfl <;> exact meets (by decide) (by decide +kernel)
/-- R347: the cores of the die follow one another. -/
theorem test_migrate_round_robin : [([] : List Nat), [32, 33]].map (fun x => (warpOf (exec (.migrate migF) (migDieSt x)) 0).map fun w => (w.core, w.slot))
    = [some (63, 32), some (32, 32)] := by decide +kernel
/-- No landing slot of core 33 is free for the goal of an SPAD address. -/
theorem wit_migrate_waits : Meets (migSt 0xFFFFFFFFF2100000 [32, 33]) .migrate migF fun e s1 =>
    s1.migTarget (e.waited.who s1) (e.waited.addrPart s1 (.u 5) 0) = .go (.core 33) ∧ s1.landingSlot 33 = none := meets (by decide) (by decide +kernel)

/-- `csrw` of each register from LCHEAD on, with every bit of its operand set; LCHEAD also with RETRY alone and stopped. -/
theorem wit_machine_csrs :
    (∀ imm ∈ [(0x0B : BitVec 32), 0x0B + 15 * 256, 0x0C, 0x0E, 0x0E + 15 * 256, 0x10, 0x11, 0x12, 0x13, 0x13 + 8 * 256, 0x13 + 39 * 256, 0x14 + 39 * 256],
      ∀ v ∈ [(0xFFFFFFFFFFFFFFFF : Word), 0x4000000000200200], Meets (booted (service (withU [(5, v)]))) .csrw { noFields with a := .u 5, b := .u 0, imm := imm } fun e s1 =>
        e.taking ≠ 0 ∧ e.csrFault s1 false = none ∧ e.w.flights = [] ∧ e.waited.csrIdx s1 < 40 ∧
          (csrNum e.f = 0x0B → e.waited.csrIdx s1 < (s1.pkg 0).chains.length) ∧ (s1.core e.w.core).cnt.length = 8 ∧ (s1.die 0).cnt.length = 16 ∧ (s1.pkg 0).cnt.length = 16) ∧
    appends ((booted (service id)).append 0 0 0x200200 none none) = true := by
  refine ⟨fun imm hi v hv => ?_, by decide +kernel⟩
  simp only [List.mem_cons, List.not_mem_nil, or_false] at hi hv
  rcases hv with rfl | rfl <;> rcases hi with rfl | rfl | rfl | rfl | rfl | rfl | rfl | rfl | rfl | rfl | rfl | rfl <;> exact meets (by decide) (by decide)
/-- R457: PWRCTL keeps bits [47:16]. -/
theorem test_csrw_pwrctl : (nextOf (exec (.csrw { noFields with a := .u 5, b := .u 0, imm := 0x11 }) (booted (service (withU [(5, 0xFFFFFFFFFFFFFFFF)]))))).map
    (fun t => (t.pkg 0).pwrctl) = some 0x0000FFFFFFFF0000 := by decide

/-! ### A page of an engine -/

/-- An engine of one page, from the homeless space into the capacity tier. -/
def pageEngine : Engine :=
  { isApf := false, dst := 0x9000000, src := 0xA000000, len := 65536, bo := 0x300000, boVa := 0x300000, who := placed0.who benchWarp, parts := [] }
def pageEngineSt : State := { mapped 0xA000000 0x2F 0 (engineSt 65536) with engines := [(4, pageEngine)] }

theorem rest_addr {p : SectorPart} {m : BitVec 32} {base : Nat} {x : Nat × Byte} (h : x ∈ p.rest m base) :
    ∃ i < p.bytes.length, x.1 = base + i := by
  obtain ⟨e, he, hx⟩ := List.mem_filterMap.1 h
  obtain ⟨i, hi, rfl⟩ := List.getElem_of_mem he
  have := getElem?_mapFrom 0 (fun i b => (i, (base + i, b))) p.bytes i
  rw [List.getElem?_eq_getElem hi, Nat.zero_add] at this
  have hl : i < p.bytes.length := by simpa using hi
  rw [List.getElem?_eq_getElem hl] at this
  simp only [Option.map_some, Option.some.injEq] at this
  rw [this] at hx
  split at hx
  · simp only [Option.some.injEq] at hx; subst hx; exact ⟨i, hl, rfl⟩
  · cases hx

theorem engineBytes_addr {en : Engine} {ls : Lines} {js : List Nat} {s : State} {x : Nat × Byte} (hp : en.parts = [])
    (h : x ∈ (State.engineBytes en ls js s).1) : ∃ j ∈ js, ∃ i < 32, x.1 = vaAdd en.dst (32 * j) + i := by
  induction js generalizing s with
  | nil => cases h
  | cons j js ih =>
    simp only [State.engineBytes, List.mem_append] at h
    rcases h with h | h
    · obtain ⟨i, hi, hx⟩ := rest_addr h
      refine ⟨j, List.mem_cons_self .., i, ?_, hx⟩
      simpa [State.engineRead, hp, aget, State.getBytes, vaRange] using hi
    · obtain ⟨j', hj, r⟩ := ih h
      exact ⟨j', List.mem_cons_of_mem _ hj, r⟩

/-- Lines that stand in the capacity tier, at their start. -/
def capLines (ld : Lines) (base : Nat) : Bool := (List.range 256).all fun q =>
  match ld.find? fun e => e.1 / 256 == base / 256 + q with
  | some (h, .mem k, _) => h % 256 == 0 && decide (2 ^ 60 ≤ k) && decide (k < 2 ^ 79)
  | _ => false

theorem capLines_key {ld : Lines} {base o : Nat} (h : capLines ld base = true) (hb : base % 256 = 0) (ho : o < 65536) :
    isHomeless (keyOf ld 0 (base + o)) = false := by
  have hq := List.all_eq_true.1 h (o / 256) (List.mem_range.2 (by omega))
  have hd : (base + o) / 256 = base / 256 + o / 256 := by omega
  simp only [keyOf, placeOf, hd]
  split at hq
  · next hh k l he =>
    simp only [Bool.and_eq_true, beq_iff_eq, decide_eq_true_eq] at hq
    rw [he]
    have hs : isSpadKey (k + (base + o) % 256 - hh % 256) = false := by
      simp only [isSpadKey, decide_eq_false_iff_not]; omega
    simp only [hs, isHomeless, decide_eq_false_iff_not, Bool.false_eq_true, if_false]
    omega
  · cases hq

/-- The first page of an engine has its translations, nothing of it is held, and its destination stands in the capacity tier. -/
def pageFree (s : State) (en : Engine) : Bool :=
  match s.transAll en.who (Acc.engineSrc en.isApf true) (pageLineVas (vaAdd en.src (65536 * 0))),
      s.transAll en.who (Acc.engineDst en.isApf) (pageLineVas (vaAdd en.dst (65536 * 0))) with
  | .inr ls, .inr ld => !(s.anyReset en.who ls || s.anyReset en.who ld true) && (capLines ld en.dst
      && ld.all fun x => match x.2.2 with | some l => !l.ckv | none => true)
  | _, _ => false

theorem enginePages_one {s t : State} {en : Engine} {i : Nat} {ls ld : Lines}
    (h1 : s.transAll en.who (Acc.engineSrc en.isApf true) (pageLineVas (vaAdd en.src (65536 * i))) = .inr ls)
    (h2 : s.transAll en.who (Acc.engineDst en.isApf) (pageLineVas (vaAdd en.dst (65536 * i))) = .inr ld)
    (h3 : (s.anyReset en.who ls || s.anyReset en.who ld true) = false)
    (h : (let r := State.engineBytes en ls (pageSectors i) s
          r.2.putBytes en.who ld 0 2 r.1) = .ok t) : State.enginePages en [i] s = .ok (none, t) := by
  have e : State.enginePage en i s = .ok (none, t) := by
    unfold State.enginePage
    rw [h1, h2]
    simp only at h
    simp only [h3, Bool.false_eq_true, if_false, h]
  simp only [State.enginePages, e, afterPage]

theorem enginePage_ok {s : State} {en : Engine} (hf : pageFree s en = true) (hp : en.parts = []) (hb : en.dst % 256 = 0)
    (hd : en.dst < 2 ^ 63) : ∃ t ls ld, State.enginePages en [0] s = .ok (none, t) ∧
      s.transAll en.who (Acc.engineSrc en.isApf true) (pageLineVas (vaAdd en.src (65536 * 0))) = .inr ls ∧
      s.transAll en.who (Acc.engineDst en.isApf) (pageLineVas (vaAdd en.dst (65536 * 0))) = .inr ld ∧ noChecksum ld := by
  unfold pageFree at hf
  split at hf
  · next ls ld h1 h2 =>
    obtain ⟨h3, h4⟩ := (Bool.and_eq_true_iff).1 hf
    obtain ⟨h5, h6⟩ := (Bool.and_eq_true_iff).1 h4
    rw [Bool.not_eq_true'] at h3
    generalize hr : State.engineBytes en ls (pageSectors 0) s = r
    have hcap : ∀ va ∈ r.1.map Prod.fst, isHomeless (keyOf ld 0 va) = false := by
      intro va hv
      obtain ⟨x, hx, rfl⟩ := List.mem_map.1 hv
      obtain ⟨j, hj, i, hi, e⟩ := engineBytes_addr hp (hr ▸ hx)
      simp only [pageSectors, List.mem_map, List.mem_range] at hj
      obtain ⟨k, hk, rfl⟩ := hj
      have : x.1 = en.dst + (32 * k + i) := by
        rw [e]; simp only [vaAdd]; omega
      rw [this]
      exact capLines_key h5 hb (by omega)
    obtain ⟨t, ht⟩ := claim_ok (s := r.2) (w := en.who) hcap
    refine ⟨t.putClaimed en.who ld 0 2 r.1, ls, ld, ?_, h1, h2, noChecksum_of h6⟩
    exact enginePages_one h1 h2 h3 (by rw [hr, State.putBytes, ht]; rfl)
  · cases hf

theorem pageFree_engine : pageFree pageEngineSt pageEngine = true := by decide +kernel

theorem wit_engine_page : (∃ t ls ld, State.enginePages pageEngine [0] pageEngineSt = .ok (none, t) ∧
      pageEngineSt.transAll pageEngine.who (Acc.engineSrc pageEngine.isApf true) (pageLineVas (vaAdd pageEngine.src (65536 * 0))) = .inr ls ∧
      pageEngineSt.transAll pageEngine.who (Acc.engineDst pageEngine.isApf) (pageLineVas (vaAdd pageEngine.dst (65536 * 0))) = .inr ld ∧
      noChecksum ld) ∧
    pageEngineSt.connected ∧ isHomeless pageEngine.bo = true ∧
    (pageEngineSt.mayTry (Trier.engine 4).key && (aget pageEngineSt.engines 4).isSome) = true :=
  ⟨enginePage_ok pageFree_engine rfl (by decide) (by decide), connected_of (by decide), by decide, by decide +kernel⟩

/-- With every die in reset it waits. -/
theorem wit_engine_held :
    (match State.enginePages pageEngine [0] { pageEngineSt with dies := (List.range 8).map fun d => (d, { pageEngineSt.die d with inReset := true }) } with
      | .error none => true | _ => false) = true := by decide +kernel

/-! ### What is not held; links, pages and hosts -/

/-- Both words of a selection are fetched from memory that no die in reset holds. -/
theorem wit_fetch_free :
    (∀ p ∈ [saddWord, badWord], (aget (wordSt p).warps 0).any (fun w => !(wordSt p).fetchHeld w 0x10000) = true) ∧
    (aget pc1St.warps 0).any (fun w => !pc1St.fetchHeld w 0x10010) = true := by
  refine ⟨fun p hp => ?_, by decide +kernel⟩
  simp only [List.mem_cons, List.not_mem_nil, or_false] at hp
  rcases hp with rfl | rfl <;> decide +kernel

def allReset (s : State) : State := { s with dies := (List.range 16).map fun d => (d, { s.die d with inReset := true, l2 := [] }) }
/-- s5 is an address of the homeless space, whose set stands on a die in reset. -/
def heldSt : State := allReset (booted (user 1 (withU [(5, 0x200000), (6, 7)])))
def heldGood (e : Env) (s1 : State) (a : Acc) : Bool :=
  e.leading == some 0 && e.va s1 0 0 == 0x200000 && !(s1.pkg (pkgOfCore e.w.core)).stalled (s1.bucketOf e.w) &&
    (s1.transAll (e.who s1) a (vaRange 0x200000 8)).isRight && s1.anyReset (e.who s1) (linesAt s1 (e.who s1) a (vaRange 0x200000 8)) a.wr
theorem wit_held_by_reset :
    Meets heldSt .ldu { noFields with d := 9, a := .u 5, b := .sp 0, md := 9 } (fun e s1 => heldGood e s1 (loadAcc e.f) = true ∧ e.w.busy 9 = false) ∧
    Meets heldSt .stu { noFields with a := .u 5, b := .sp 0, c := .u 6, md := 9 } (fun e s1 => heldGood e s1 (storeAcc 9) = true ∧
      e.valueFault 9 e.f.c = none) ∧
    (let s := allReset (homeSt false)
     (s.die (s.pageDie 0 32)).inReset = true ∧ s.pkgHolds 0 (lineKey 0x200000) = none ∧ s.exclusive 0 0x200000 = false ∧ (s.dirEnt 32).lost = false) :=
  ⟨meets (by decide +kernel) (by decide +kernel), meets (by decide +kernel) (by decide +kernel), by decide +kernel⟩
/-- R370: an access to a set of a die in reset waits, and runs when the die leaves. -/
theorem test_held_by_reset : stAfter (exec (.ldu { noFields with d := 9, a := .u 5, b := .sp 0, md := 9 }) heldSt) 0 0 = some (.hold .reset) := by decide +kernel

/-- A link's direction at the end of an error window in which its replays have come to their threshold. -/
def windowSt : State := linkSt fun l => { l with endA := LinkEnd.reset, endB := { exEnd with win := 2 ^ 20 - 1, fall := false } }
theorem wit_window : ((windowSt.link 5).endB.win + 1 = 2 ^ 20 ∧ (windowSt.link 5).autofb = true ∧ (windowSt.link 5).runRate ≠ 0 ∧
    2 ^ (windowSt.link 5).fbthr.toNat ≤ (windowSt.link 5).endB.replays) ∧
    (let l := windowSt.link 5
     let f := { exFlit with seq := 0 }
     l.down = false ∧ l.training = false ∧ (l.endA.expect - 1 - f.ack).toNat ≤ 512 ∧ l.endA.replayFrom = none ∧ f.seq = l.endA.nextSeq ∧
       f.payload.length = 248 ∧ l.endA.buf.length < 512 ∧ windowSt.firstHop (5 / 16) (linkDies (5 % 16)).1 f.dst.toNat = some (5 % 16)) := by decide +kernel
/-- R383: the fallback of a window that has ended stands until it is done. -/
theorem test_window_falls : (nextOf (exec (.flitReceive 5 true { exFlit with seq := 0, ack := 0xFFF } [] []) windowSt)).map (fun t => ((t.link 5).endB.fall, (t.link 5).endB.replays))
    = some (true, 0) := by decide +kernel
/-- R382: one flit counts one error of a lane. -/
theorem test_one_error_a_flit : (nextOf (exec (.flitReceive 5 true exFlit [] [9, 9, 9]) replaySt)).map (fun t => (aget (t.link 5).endB.par 9).getD 0)
    = some 1 := by decide +kernel
/-- An attempt that narrows a link, one that slows it, one that leaves it as it was; the third that fails. -/
theorem wit_training : (∀ x ∈ [((1 : BitVec 256), 2), (0, 1), (0, 2)],
      let l := (linkSt fun l => { l with training := true, retired := x.1, tryRate := x.2 }).link 5
      let n := ((List.range 8).filter fun g => (List.range 32).all fun i => !l.retired.getLsbD (32 * g + i)).length
      l.training = true ∧ l.down = false ∧ 0 < n ∧ (n < l.width ↔ x.1 = 1) ∧ (l.tryRate < l.runRate ↔ x.2 = 1)) ∧
    (let l := (linkSt fun l => { l with training := true, att := 2 }).link 5
     3 ≤ l.att + 1 ∧ l.down = false) := by
  refine ⟨fun x hx => ?_, by decide⟩
  simp only [List.mem_cons, List.not_mem_nil, or_false] at hx
  rcases hx with rfl | rfl | rfl <;> decide +kernel
/-- R386: the record of a link that has narrowed: its lane groups, its rate, its width and its number. -/
theorem test_lnkdeg : (nextOf (exec (.trainingAttempt 5 true) (linkSt fun l => { l with training := true, retired := 1, tryRate := 2 }))).map
    (fun t => (t.die 5).postq.map fun r => (r.code, r.addr)) = some [(0x21, 0xFE270005)] := by decide +kernel

theorem wit_homeless_free :
    (let s := homeSt false
     s.resetHeld 0 0x200000 false = false ∧ s.resetHeld 8 0x200000 false = false ∧ s.resetHeld 8 0x200000 true = false ∧
      s.resetHeld 0 0x210000 true = false ∧ (s.dirEnt 33).hostBias = none ∧ (aget (s.die 0).l2 0x2001).map L2Line.gran = some []) ∧
    (let s := { homeSt false with dies := (List.range 8).map fun d => (d, { Die.reset with inReset := true, l2 := [(0x2001, lineOf 3 [])] }) }
     s.backHeld 0x2001 = true ∧ s.live 0 = true ∧ (aget (s.die 0).l2 0x2001).any (fun x => x.dirty != 0 && x.gran.isEmpty) = true) ∧
    (let s := { homeSt false with dir := [(32, { ownDir with lost := true })] }
     s.backHeld 0x2001 = false ∧ s.backFault 0 0x2001 = some POISON) := by decide +kernel
/-- R371, R446: a dirty line of a LOST page is reported. -/
theorem test_back_lost : (nextOf (exec (.l2WriteBack 0 0x2001) { homeSt false with dir := [(32, { ownDir with lost := true })] })).map (fun t => t.agenda.map fun p =>
    match p with | .event (.storeError pkg e) => (pkg, e.cause, e.addr) | _ => (0, 0, 0)) = some [(0, POISON, 0x200100)] := by decide +kernel

/-- No package keeps a page in its pool. -/
theorem pools_of {s : State} (h : (s.pkgs.all fun x => x.2.pool.isEmpty) = true) : ∀ p, (s.pkg p).pool = [] := by
  intro p
  unfold State.pkg
  generalize s.pkgs = m at h
  induction m with
  | nil => rfl
  | cons x m ih =>
    obtain ⟨k, v⟩ := x
    simp only [List.all_cons, Bool.and_eq_true, List.isEmpty_iff] at h
    simp only [aget]
    split
    · exact h.1
    · exact ih h.2
def lostSt : State := { homeSt false with dir := [(32, { DirEnt.reset with master := some 1 })] }
theorem wit_lost : (∀ p, ∀ y ∈ (lostSt.pkg p).pool, y.2.gpn ≠ 32) ∧ aget lostSt.dir 32 = some { DirEnt.reset with master := some 1 } := by
  refine ⟨fun p y hy => ?_, rfl⟩
  rw [pools_of (s := lostSt) (by decide +kernel)] at hy
  cases hy

/-- A copy uses page 32, whose master is pinned. -/
def usedSt : State := { pairPod [(0, slotFor 32 2 true)] [(32, ownDir)] [] with copies := [(5, { spadCopy with lines := [(0x200000, .mem 0x200000, none)] })] }
theorem wit_hosts_free :
    (hostSt none).readOff 0 0x200000 = none ∧ (hostSt none).agentFault 0 0x20003F = none ∧ (hostSt none).inFlight.any (usesPage [32]) = false ∧
    (hostSt (some 0)).inFlight.any (usesPage [32]) = false ∧ ((hostSt (some 0)).dirEnt 32).master = some 0 ∧
    (let s := usedSt
     s.live 0 = true ∧ (s.pkg 0).biasBusy = false ∧ (s.dirEnt 32).master = some 0 ∧ s.inFlight.any (usesPage [32]) = true ∧ (s.pkg 0).hasHost 0 = true ∧
      (s.dirEnt 32).dup = false ∧ (s.dirEnt 32).opened = false ∧ (s.dirEnt 32).hostBias = none ∧ (s.pkg 0).masterOf 32 = some (.way 0 0) ∧
      ((s.pkg 0).slotAt (.way 0 0)).pin = true) := by decide +kernel
/-- R427: a flip waits for a copy that uses the page, and goes on when it has gone. -/
theorem test_flip_waits : ((nextOf (exec (.biasopToHost 0 0 32) usedSt)).map fun t => [(t.dirEnt 32).hostBias, ({ t with copies := [] }.biasGo 0 |>.dirEnt 32).hostBias])
    = some [none, some 0] := by decide +kernel

end Sys2Proof.Tests
end

namespace Sys2Proof.Machine

/-! SUPPORT AND PROOFS. The results of uniform instructions (R91 to R95): what an outstanding result and a fixed-latency write leave of
a warp, and division and compare on bit vectors. -/

/-! ### The end of an issue that has changed only results -/

/-- `v` is `w` but for its registers, its bindings, what readers may still miss and what is outstanding. -/
def Warp.SameButResults (w v : Warp) : Prop :=
  ∃ vregs uregs preds bound recent flights, v = { w with
    vregs := vregs, uregs := uregs, preds := preds, bound := bound, recent := recent, flights := flights }

theorem Warp.SameButResults.refl (w : Warp) : w.SameButResults w := ⟨_, _, _, _, _, _, rfl⟩

theorem Warp.SameButResults.trans {w v x : Warp} (h : w.SameButResults v) (h' : v.SameButResults x) : w.SameButResults x := by
  obtain ⟨_, _, _, _, _, _, rfl⟩ := h
  obtain ⟨_, _, _, _, _, _, rfl⟩ := h'
  exact ⟨_, _, _, _, _, _, rfl⟩

/-- An issue that has changed only results is settled, and its lanes have moved on. -/
theorem settled_settle_advance {e : Env} {w : Warp} (h : e.w.SameButResults w) :
    e.Settled (e.settle (w.advance e.lanes)) ∧ e.Advanced (e.settle (w.advance e.lanes)) := by
  obtain ⟨hl, hv, hu, hq, hb, hf, -, heq⟩ := settle_spec e (w.advance e.lanes)
  obtain ⟨vregs, uregs, preds, bound, recent, flights, rfl⟩ := h
  constructor
  · unfold Env.Settled
    rw [hl, hv, hu, hq, hb, hf, heq]
    rfl
  · have hgo := lanesGo_advance e
      { e.w with vregs := vregs, uregs := uregs, preds := preds, bound := bound, recent := recent, flights := flights } rfl
    unfold Env.Advanced Env.LanesGo at hgo ⊢
    rwa [hl]

/-- What is outstanding for a reader does not depend on where the lanes stand and on how the word settles. -/
theorem pending_settle_advance (e : Env) (w : Warp) : (e.settle (w.advance e.lanes)).pending = w.pending := by
  obtain ⟨-, -, -, -, -, hf, -, -⟩ := settle_spec e (w.advance e.lanes)
  simp only [Warp.pending, hf, Warp.advance_flights]

theorem allFlags_settle_advance (e : Env) (w : Warp) : (e.settle (w.advance e.lanes)).allFlags = w.allFlags := by
  obtain ⟨-, -, -, -, -, -, hfl, -⟩ := settle_spec e (w.advance e.lanes)
  exact hfl

/-- The registers and bindings of a warp do not depend on where its lanes stand and on how the word settles. -/
theorem regs_settle_advance (e : Env) (w : Warp) :
    (e.settle (w.advance e.lanes)).vregs = w.vregs ∧ (e.settle (w.advance e.lanes)).uregs = w.uregs ∧
      (e.settle (w.advance e.lanes)).preds = w.preds ∧ (e.settle (w.advance e.lanes)).bound = w.bound := by
  obtain ⟨-, hv, hu, hq, hb, -, -, -⟩ := settle_spec e (w.advance e.lanes)
  exact ⟨hv, hu, hq, hb⟩

/-! ### Outstanding results -/

/-- The binding that ends with a write does not depend on what is outstanding. -/
theorem unbind_with_flights (w : Warp) (flights : List Flight) (rw_ : RegWrite) :
    ({ w with flights := flights } : Warp).unbind rw_ = { w with bound := (w.unbind rw_).bound, flights := flights } := by
  cases rw_ <;> rfl

/-- Aiming a result at its register changes the binding of that register and the fates of what is outstanding, nothing else. -/
theorem aim_eq (w : Warp) (free : Nat) (paired : Bool) (rw_ : RegWrite) :
    ∃ flights, w.aim free paired rw_ = { w with bound := (w.unbind rw_).bound, flights := flights } := by
  unfold Warp.aim
  split
  · split
    · exact ⟨_, unbind_with_flights w _ rw_⟩
    · exact ⟨_, unbind_with_flights w w.flights rw_⟩
  · exact ⟨_, unbind_with_flights w _ rw_⟩

theorem sameButResults_fly (w : Warp) (id free : Nat) (ws : List RegWrite) (fl : BitVec 5) (paired : Bool)
    (tile : Option (Nat × TileAct)) : w.SameButResults (w.fly id free ws fl paired tile) := by
  have haim : ∀ (rws : List RegWrite) (v : Warp), v.SameButResults (rws.foldl (fun v rw => v.aim free paired rw) v) := by
    intro rws
    induction rws with
    | nil => exact .refl
    | cons r rws ih =>
      intro v
      obtain ⟨flights, haim⟩ := aim_eq v free paired r
      have hr : v.SameButResults (v.aim free paired r) := ⟨_, _, _, _, _, _, haim⟩
      exact hr.trans (ih _)
  exact (haim _ w).trans ⟨_, _, _, _, _, _, rfl⟩

/-- An outstanding write of a uniform register ends its binding as a completion counter (R56). -/
theorem bound_fly_u (w : Warp) (id free d : Nat) (x : Word) (fl : BitVec 5) (paired : Bool) :
    (w.fly id free [.u d x] fl paired).bound = adel w.bound d := by
  obtain ⟨flights, haim⟩ := aim_eq w free paired (.u d x)
  exact congrArg Warp.bound haim

/-- A variable-latency uniform result that no bound counter holds (R95). -/
theorem uniOpFly_spec {e : Env} {s1 : State} {val : Word} (ht : e.taking ≠ 0) (hb : e.w.busy e.f.d.toNat = false) :
    ∃ w', e.uniOpFly s1 val = e.afterFly s1 w' ∧ e.Settled w' ∧ e.Advanced w' ∧
      w'.vregs = e.w.vregs ∧ w'.uregs = e.w.uregs ∧ w'.preds = e.w.preds ∧ w'.bound = adel e.w.bound e.f.d.toNat ∧
      e.Flies s1 w' [.u e.f.d.toNat val] 0 := by
  let v := e.w.fly s1.nextId e.free [.u e.f.d.toNat val] 0 e.paired
  obtain ⟨-, hv, hu, hq, hrec, hfst, hpend⟩ := fly_spec e.w s1.nextId e.free [.u e.f.d.toNat val] 0 e.paired none
  obtain ⟨hv', hu', hq', hb'⟩ := regs_settle_advance e v
  obtain ⟨hset, hadv⟩ := settled_settle_advance (sameButResults_fly e.w s1.nextId e.free [.u e.f.d.toNat val] 0 e.paired none)
  refine ⟨e.settle (v.advance e.lanes), ?_, hset, hadv, hv'.trans hv, hu'.trans hu, hq'.trans hq,
    hb'.trans (bound_fly_u ..), (pending_settle_advance e v).trans hpend, (allFlags_settle_advance e v).trans ?_⟩
  · simp only [Env.uniOpFly, beq_false_of_ne ht, Bool.false_eq_true, if_false, Env.uniFly, hb]
    rfl
  · simp only [v, Warp.allFlags, hrec, hfst]

/-- An instruction of group 0x1 that hands its result to `Env.uniOpFly`. -/
theorem completesUFly_of_exec {mk : Fields → Instr} {val : Fields → Word → Word → Word}
    (hexec : ∀ f s, exec (mk f) s =
      issued (mk f) f s fun e s => e.uniOpFly s (val f (e.uni s f.a) (e.uni s f.b))) : CompletesUFly mk val := by
  intro s f e s1 h ht hb
  obtain ⟨rfl, -⟩ := issues_env h
  obtain ⟨w', heq, hrest⟩ := uniOpFly_spec (s1 := s1) (val := val e.f (e.uni s1 e.f.a) (e.uni s1 e.f.b)) ht hb
  exact ⟨w', (hexec e.f s).trans ((issued_of_issues h _).trans (congrArg Host.Outcome.next heq)), hrest⟩

/-! ### Division (R92) -/

/-- The quotient of exact integers, wrapped, is the quotient of bit vectors: −2^63 divided by −1 too. -/
theorem divide_eq (u : Bool) (a b : Word) :
    divide u a b = if b = 0 then 0xFFFFFFFFFFFFFFFF else if u then a / b else a.sdiv b := by
  unfold divide
  split
  · rfl
  · cases u with
    | false => exact BitVec.eq_of_toInt_eq ((BitVec.toInt_ofInt _).trans (BitVec.toInt_sdiv a b).symm)
    | true => exact BitVec.udiv_def.symm

theorem remainder_eq (u : Bool) (a b : Word) :
    remainder u a b = if b = 0 then 0xFFFFFFFFFFFFFFFF else if u then a % b else a.srem b := by
  unfold remainder
  split
  · rfl
  · cases u with
    | false => exact (congrArg (BitVec.ofInt 64) (BitVec.toInt_srem a b).symm).trans BitVec.ofInt_toInt
    | true => exact BitVec.umod_def.symm

/-- Settles O10: the model divides exact integers, which `divide_eq` and `remainder_eq` turn into the divisions of bit vectors. -/
theorem uniformDivision : Obligations.UniformDivision := by
  have hdiv : CompletesUFly .sdiv (fun f a b => divide (modU f) a b) := completesUFly_of_exec fun _ _ => rfl
  have hrem : CompletesUFly .srem (fun f a b => remainder (modU f) a b) := completesUFly_of_exec fun _ _ => rfl
  simp only [divide_eq] at hdiv
  simp only [remainder_eq] at hrem
  exact ⟨hdiv, hrem⟩

/-! ### Fixed-latency results: what a write and its undoing change -/

theorem sameButResults_put (w : Warp) (rw_ : RegWrite) : w.SameButResults (w.put rw_) := by
  cases rw_ with
  | v => exact ⟨_, _, _, _, _, _, rfl⟩
  | u => exact ⟨_, _, _, _, _, _, rfl⟩
  | q n =>
    simp only [Warp.put]
    split
    · exact .refl w
    · exact ⟨_, _, _, _, _, _, rfl⟩

theorem sameButResults_restoreReg (w : Warp) (old : OldReg) : w.SameButResults (w.restoreReg old) := by
  cases old with
  | v => exact ⟨_, _, _, _, _, _, rfl⟩
  | u => exact ⟨_, _, _, _, _, _, rfl⟩
  | q n =>
    simp only [Warp.restoreReg]
    split
    · exact .refl w
    · exact ⟨_, _, _, _, _, _, rfl⟩
  | flags => exact .refl w

/-- `v` is `w` but for results that have been committed: nothing more is outstanding, and no float flag is raised. -/
def Warp.Commits (w v : Warp) : Prop := w.SameButResults v ∧ v.pending = w.pending ∧ v.allFlags = w.allFlags

theorem Warp.Commits.refl (w : Warp) : w.Commits w := ⟨.refl w, rfl, rfl⟩

theorem Warp.Commits.trans {w v x : Warp} (h : w.Commits v) (h' : v.Commits x) : w.Commits x := by
  obtain ⟨hsame, hpend, hflags⟩ := h
  obtain ⟨hsame', hpend', hflags'⟩ := h'
  exact ⟨hsame.trans hsame', hpend'.trans hpend, hflags'.trans hflags⟩

theorem commits_put (w : Warp) (rw_ : RegWrite) : w.Commits (w.put rw_) :=
  ⟨sameButResults_put w rw_, by simp only [Warp.pending, flights_put], allFlags_put w rw_⟩

theorem commits_restoreReg (w : Warp) (old : OldReg) : w.Commits (w.restoreReg old) := by
  cases old with
  | q n =>
    refine ⟨sameButResults_restoreReg w _, ?_⟩
    simp only [Warp.restoreReg]
    split <;> exact ⟨rfl, rfl⟩
  | _ => exact ⟨sameButResults_restoreReg w _, rfl, rfl⟩

/-- What a fixed-latency write has done before its value stands: readers may still miss it, a binding of its register has ended, and
the fates of what is outstanding may have changed. -/
def Warp.Marked (w : Warp) (lat : Nat) (rw_ : RegWrite) (v : Warp) : Prop :=
  v.pending = w.pending ∧ ∃ flights, v = { w with
    recent := { due := w.clk + lat, born := w.clk, old := w.old rw_ } :: w.recent,
    bound := (w.unbind rw_).bound, flights := flights }

/-- The state of a register that a write found holds no float flags. -/
theorem commits_of_marked {w v : Warp} {lat : Nat} {rw_ : RegWrite} (h : w.Marked lat rw_ v) : w.Commits v := by
  obtain ⟨hpend, _, rfl⟩ := h
  have hflags : (w.old rw_).flagBits = 0 := by cases rw_ <;> rfl
  exact ⟨⟨_, _, _, _, _, _, rfl⟩, hpend, by simp only [Warp.allFlags, List.foldl_cons, hflags, BitVec.ofNat_eq_ofNat, BitVec.or_zero]⟩

theorem collides_of_before {e : Env} {name : Nat × Nat} {old : OldReg} (hp : e.paired = true)
    (h : e.w.before name = some old) : e.Collides name ∧ old.name = name := by
  obtain ⟨r, hr, rfl⟩ := Option.map_eq_some_iff.1 h
  have htest := List.find?_some hr
  simp only [Bool.and_eq_true, beq_iff_eq] at htest
  exact ⟨⟨hp, .inl ⟨r, List.mem_of_find?_eq_some hr, htest⟩⟩, htest.2⟩

theorem collides_of_besideFly {e : Env} {name : Nat × Nat} (hp : e.paired = true)
    (h : e.w.besideFly name = true) : e.Collides name := by
  simp only [Warp.besideFly, List.any_eq_true, Bool.and_eq_true, beq_iff_eq] at h
  exact ⟨hp, .inr h⟩

/-- What a fixed-latency write does (R245, R246): nothing, where it reaches no bit; or it stands over what was there; or it collides
with a write of PC0, and either does not stand, or stands over what was there before both. -/
theorem fixed_cases (e : Env) (lat : Nat) (rw_ : RegWrite) :
    (rw_.nothing = true ∧ e.w.fixed lat e.free e.paired rw_ = e.w) ∨
    ∃ v, e.w.Marked lat rw_ v ∧ (e.w.fixed lat e.free e.paired rw_ = v.put rw_ ∨
      (e.Collides rw_.name ∧ (e.w.fixed lat e.free e.paired rw_ = v ∨
        ∃ old, old.name = rw_.name ∧ e.w.fixed lat e.free e.paired rw_ = (v.restoreReg old).put rw_))) := by
  have hmark : ∀ v : Warp, v.pending = e.w.pending →
      (∃ flights, v = { e.w with
        recent := { due := e.w.clk + lat, born := e.w.clk, old := e.w.old rw_ } :: e.w.recent, flights := flights }) →
      e.w.Marked lat rw_ (v.unbind rw_) := by
    rintro v hpend ⟨flights, rfl⟩
    cases rw_ <;> exact ⟨hpend, flights, rfl⟩
  let m : Warp := { e.w with recent := { due := e.w.clk + lat, born := e.w.clk, old := e.w.old rw_ } :: e.w.recent }
  have hm := hmark m rfl ⟨_, rfl⟩
  have hc := hmark (m.contest rw_.name) (pending_contest m _) ⟨_, rfl⟩
  by_cases hn : rw_.nothing = true
  · exact .inl ⟨hn, by simp only [Warp.fixed, hn, if_true]⟩
  refine .inr ?_
  simp only [Warp.fixed, if_neg hn]
  split
  case isTrue hbeside =>
    obtain ⟨hp, hb⟩ := Bool.and_eq_true_iff.1 hbeside
    split
    · exact ⟨_, hm, .inr ⟨collides_of_besideFly hp hb, .inl rfl⟩⟩
    · have hl := hmark ((m.refate rw_.name (fun g => g.born == m.clk) fun _ => .lost).contest rw_.name)
        ((pending_contest _ _).trans (pending_refate m _ _ _)) ⟨_, rfl⟩
      exact ⟨_, hl, .inl rfl⟩
  case isFalse =>
    split
    · exact ⟨_, hc, .inl rfl⟩
    · next old hold =>
      have hp : e.paired = true := by
        cases hp : e.paired with
        | true => rfl
        | false => simp only [hp, Bool.false_eq_true, if_false, reduceCtorEq] at hold
      simp only [hp, if_true] at hold
      obtain ⟨hcol, hname⟩ := collides_of_before hp hold
      split
      · exact ⟨_, hc, .inr ⟨hcol, .inl rfl⟩⟩
      · exact ⟨_, hc, .inr ⟨hcol, .inr ⟨old, hname, rfl⟩⟩⟩

theorem commits_fixed (e : Env) (lat : Nat) (rw_ : RegWrite) : e.w.Commits (e.w.fixed lat e.free e.paired rw_) := by
  rcases fixed_cases e lat rw_ with ⟨-, hw⟩ | ⟨v, hv, hw | ⟨-, hw | ⟨old, -, hw⟩⟩⟩ <;> rw [hw]
  · exact .refl e.w
  · exact (commits_of_marked hv).trans (commits_put ..)
  · exact commits_of_marked hv
  · exact ((commits_of_marked hv).trans (commits_restoreReg v old)).trans (commits_put ..)

/-! ### Predicate results -/

/-- `v` is `w` but for predicate `d`; that is `q0`, which keeps its bits, too (R57). -/
def Warp.SameButPred (d : Nat) (w v : Warp) : Prop :=
  v.vregs = w.vregs ∧ v.uregs = w.uregs ∧ v.bound = w.bound ∧ (d = 0 → v.preds = w.preds) ∧
    ∀ k, k ≠ d → v.preds[k]? = w.preds[k]?

theorem Warp.SameButPred.refl (d : Nat) (w : Warp) : w.SameButPred d w := ⟨rfl, rfl, rfl, fun _ => rfl, fun _ _ => rfl⟩

theorem Warp.SameButPred.trans {d : Nat} {w v x : Warp} (h : w.SameButPred d v) (h' : v.SameButPred d x) :
    w.SameButPred d x := by
  obtain ⟨hv, hu, hb, hz, hk⟩ := h
  obtain ⟨hv', hu', hb', hz', hk'⟩ := h'
  exact ⟨hv'.trans hv, hu'.trans hu, hb'.trans hb, fun hd => (hz' hd).trans (hz hd), fun k hd => (hk' k hd).trans (hk k hd)⟩

theorem sameButPred_set (w : Warp) {d : Nat} (hd : d ≠ 0) (x : List PBits) :
    w.SameButPred d { w with preds := w.preds.set d x } :=
  ⟨rfl, rfl, rfl, fun h => absurd h hd, fun _ hk => List.getElem?_set_ne (Ne.symm hk)⟩

theorem sameButPred_put (w : Warp) (d : Nat) (mask val : List PBits) : w.SameButPred d (w.put (.q d mask val)) := by
  simp only [Warp.put]
  split
  · exact .refl d _
  · next hd => exact sameButPred_set w hd _

theorem sameButPred_restoreReg (w : Warp) {d : Nat} {old : OldReg} (h : old.name = (2, d)) :
    w.SameButPred d (w.restoreReg old) := by
  cases old with
  | q n x =>
    obtain rfl : n = d := (Prod.mk.inj h).2
    simp only [Warp.restoreReg]
    split
    · exact .refl n w
    · next hd => exact sameButPred_set w hd x
  | _ => simp [OldReg.name] at h

theorem sameButPred_of_marked {w v : Warp} {lat d : Nat} {mask val : List PBits} (h : w.Marked lat (.q d mask val) v) :
    w.SameButPred d v := by
  obtain ⟨-, _, rfl⟩ := h
  exact ⟨rfl, rfl, rfl, fun _ => rfl, fun _ _ => rfl⟩

/-- A fixed-latency predicate write changes its predicate alone, colliding or not. -/
theorem sameButPred_fixed (e : Env) (lat d : Nat) (mask val : List PBits) :
    e.w.SameButPred d (e.w.fixed lat e.free e.paired (.q d mask val)) := by
  rcases fixed_cases e lat (.q d mask val) with ⟨-, hw⟩ | ⟨v, hv, hw | ⟨-, hw | ⟨old, hname, hw⟩⟩⟩ <;> rw [hw]
  · exact .refl d _
  · exact (sameButPred_of_marked hv).trans (sameButPred_put ..)
  · exact sameButPred_of_marked hv
  · exact ((sameButPred_of_marked hv).trans (sameButPred_restoreReg v hname)).trans (sameButPred_put ..)

theorem getElem?_zipWith3 {α β γ δ : Type} (g : α → β → γ → δ) {as : List α} {bs : List β} {cs : List γ} {i : Nat} {a : α}
    {b : β} {c : γ} (ha : as[i]? = some a) (hb : bs[i]? = some b) (hc : cs[i]? = some c) :
    (zipWith3 g as bs cs)[i]? = some (g a b c) := by
  induction as generalizing bs cs i with
  | nil => simp at ha
  | cons a' as ih =>
    match bs, cs, i with
    | [], _, _ => simp at hb
    | _ :: _, [], _ => simp at hc
    | b' :: bs, c' :: cs, 0 =>
      obtain rfl : a' = a := Option.some.inj ha
      obtain rfl : b' = b := Option.some.inj hb
      obtain rfl : c' = c := Option.some.inj hc
      rfl
    | b' :: bs, c' :: cs, i + 1 => exact ih ha hb hc

theorem mergeBits_zero (val old : PBits) : mergeBits 0 val old = old := by
  have hkeep : old &&& ~~~(0 : PBits) = old := BitVec.and_allOnes
  have hval : val &&& (0 : PBits) = 0 := BitVec.and_zero
  rw [mergeBits, hkeep, hval]
  exact BitVec.or_zero

/-- A predicate write by lane functions reaches bits `mask l` of the issuing lanes `l`. -/
theorem getElem?_merge_predWrite (e : Env) (mask val : Nat → PBits) {q : List PBits} {l : Nat} {b : PBits} (hl : l < 32)
    (hb : q[l]? = some b) :
    (zipWith3 mergeBits (allLanes.map fun l => if e.lanes.getLsbD l then mask l else 0) (allLanes.map val) q)[l]? =
      some (if e.lanes.getLsbD l then (b &&& ~~~(mask l)) ||| (val l &&& mask l) else b) := by
  have hlane : allLanes[l]? = some l := List.getElem?_range hl
  have hmap (g : Nat → PBits) : (allLanes.map g)[l]? = some (g l) := by rw [List.getElem?_map, hlane, Option.map_some]
  rw [getElem?_zipWith3 mergeBits (hmap _) (hmap _) hb]
  split
  · rfl
  · exact congrArg some (mergeBits_zero _ b)

/-- A write that reaches no bit has no issuing lane with a bit to write. -/
theorem predWrite_nothing_iff (e : Env) (d : Nat) (mask val : Nat → PBits) :
    (e.predWrite d mask val).nothing = true ↔ ∀ l < 32, e.lanes.getLsbD l = true → mask l = 0 := by
  simp only [RegWrite.nothing, Env.predWrite, allLanes, List.all_map, List.all_eq_true, List.mem_range, Function.comp_apply,
    beq_iff_eq, ite_eq_right_iff]

/-- A fixed-latency predicate result stands in its predicate. -/
theorem writesQ_fixed (e : Env) (lat d : Nat) (mask val : Nat → PBits) :
    e.WritesQ (e.w.fixed lat e.free e.paired (e.predWrite d mask val)) d mask val := by
  obtain ⟨hv, hu, hb, hz, hk⟩ := sameButPred_fixed e lat d
    (allLanes.map fun l => if e.lanes.getLsbD l then mask l else 0) (allLanes.map val)
  refine ⟨hv, hu, hb, hz, hk, fun hcol hd q hq => ?_⟩
  rcases fixed_cases e lat (e.predWrite d mask val) with ⟨hn, hw⟩ | ⟨v, hv, hw | ⟨hcol', -⟩⟩
  · refine ⟨q, by rw [hw]; exact hq, fun l b hl hlb => ?_⟩
    rw [hlb]
    split
    · next hlane => rw [(predWrite_nothing_iff e d mask val).1 hn l hl hlane]; exact congrArg some (mergeBits_zero _ b).symm
    · rfl
  · obtain ⟨-, _, rfl⟩ := hv
    refine ⟨_, ?_, fun l b hl hlb => getElem?_merge_predWrite e mask val hl hlb⟩
    obtain ⟨hlt, rfl⟩ := List.getElem?_eq_some_iff.1 hq
    rw [hw, Env.predWrite]
    simp only [Warp.put, hd, if_false, Warp.q, List.getD_eq_getElem?_getD, hlt, getElem?_pos, Option.getD_some, List.length_set,
      List.getElem_set_self]
  · exact absurd hcol' hcol

/-- How a word settles leaves a predicate result where it is. -/
theorem writesQ_settle_advance {e : Env} {w : Warp} {d : Nat} {mask val : Nat → PBits} (h : e.WritesQ w d mask val) :
    e.WritesQ (e.settle (w.advance e.lanes)) d mask val := by
  obtain ⟨hv, hu, hq, hb⟩ := regs_settle_advance e w
  unfold Env.WritesQ at h ⊢
  rwa [hv, hu, hq, hb]

/-- An issue that ends with a fixed-latency predicate result. -/
theorem done_predWrite_spec (e : Env) (s1 : State) (lat d : Nat) (mask val : Nat → PBits) :
    ∃ w', e.done s1 (e.w.fixed lat e.free e.paired (e.predWrite d mask val)) = e.after s1 w' ∧ e.Settled w' ∧ e.Advanced w' ∧
      e.Raised w' 0 ∧ e.WritesQ w' d mask val := by
  obtain ⟨hsame, hpend, hflags⟩ := commits_fixed e lat (e.predWrite d mask val)
  obtain ⟨hset, hadv⟩ := settled_settle_advance hsame
  exact ⟨_, done_eq_after .., hset, hadv,
    ⟨(pending_settle_advance ..).trans hpend, (allFlags_settle_advance ..).trans (hflags.trans BitVec.or_zero.symm)⟩,
    writesQ_settle_advance (writesQ_fixed e lat d mask val)⟩

/-! ### Compare outcomes (R93) -/

/-- COND 0-5 (R62) of two numbers by whether the first is below the second and whether they are equal. -/
def condOf (c : Nat) (lt eq : Bool) : Bool :=
  match c with
  | 0 => eq
  | 1 => !eq
  | 2 => lt
  | 3 => lt || eq
  | 4 => !lt && !eq
  | _ => !lt

theorem intCond_eq_condOf (c : Nat) (x y : Int) : intCond c x y = condOf c (decide (x < y)) (x == y) := by
  unfold intCond condOf
  split <;> grind

theorem decide_readU_lt (u : Bool) (a b : Word) :
    decide (readU u a < readU u b) = if u then a.ult b else a.slt b := by
  cases u with
  | false => exact BitVec.slt_eq_decide.symm
  | true => exact (decide_eq_decide.2 Int.ofNat_lt).trans BitVec.ult_eq_decide.symm

theorem readU_beq (u : Bool) (a b : Word) : (readU u a == readU u b) = (a == b) := by
  have hinj : readU u a = readU u b ↔ a = b := by
    cases u with
    | false => exact BitVec.toInt_inj
    | true => exact Int.ofNat_inj.trans BitVec.toNat_inj
  rw [Bool.eq_iff_iff, beq_iff_eq, beq_iff_eq, hinj]

/-- Settles O11: the outcome on exact integers is that of the bit vectors, and the write stands in the taking lanes. -/
theorem uniformCompare : Obligations.UniformCompare := by
  intro s f e s1 h ht
  obtain ⟨rfl, -⟩ := issues_env h
  obtain ⟨w', hdone, hset, hadv, hraised, hq⟩ := done_predWrite_spec e s1 latInt e.f.d.toNat
    (fun l => if e.taking.getLsbD l then allOnes16 else 0)
    (fun _ => if intCond (mdN e.f 2 3) (readU (modU e.f) (e.uni s1 e.f.a)) (readU (modU e.f) (e.uni s1 e.f.b))
      then allOnes16 else 0)
  have hexec : exec (.scmp e.f) s = .next (e.after s1 w') := by
    change execScmp e.f s = _
    simp only [execScmp, issued_of_issues h, beq_false_of_ne ht, Bool.false_eq_true, if_false, hdone]
  simp only [intCond_eq_condOf, decide_readU_lt, readU_beq] at hq
  exact ⟨w', hexec, hset, hadv, hraised, hq⟩

end Sys2Proof.Machine
